-- ==== Sys2Proof/Word.lean ====
section
/-! DEFINITION. The word types of the ZN9: 64-bit registers (R33), bytes (R8), 48-bit addresses (R14), 512-byte vectors (R215). -/

namespace Sys2Proof

/-- A general register (R31: entries of 64 bits). -/
abbrev Word := BitVec 64

/-- A byte of memory. -/
abbrev Byte := BitVec 8

/-- A device address: bits 47:0 (R14). -/
abbrev Addr := BitVec 48

/-- A vector register or a 512-byte operand, byte i in bits 8i+7:8i (R215, R8). -/
abbrev Vec := BitVec 4096

/-- A 7-bit general-register code (R33). -/
abbrev RCode := BitVec 7

end Sys2Proof
end

