-- ==== Sys2Proof/Config.lean ====
section
/-! DEFINITION. What the spec leaves to the implementation or does not state: the functions of the keys that a device holds, as constants
without a body, so that nothing can be proved of what they are. -/

namespace Sys2Proof

/-- Whether an LMS signature over SHA-256 of a message verifies under a public key (R436, R485). -/
opaque Config.lmsVerifies : List Byte → List Byte → List Byte → Bool

/-- Thrumman's public key, for firmware and revocation lists (R436). -/
opaque Config.thrummanKey : List Byte

/-- What the transport security sublayer adds to the bytes of a group packet under a view's key (R484). -/
opaque Config.tssTag : BitVec 512 → List Byte → Word

/-- A byte of a hardware area whose layout is not architectural, after the write of a number (R212, R327); a free value. -/
opaque Config.freeByte : Nat → Nat → BitVec 8

/-- The HMAC tag of an image header and body under the device's image key (R434). -/
opaque Config.imageHmac : List Byte → BitVec 256

/-- SHA-256. -/
opaque Config.sha256 : List Byte → BitVec 256

/-- The AES key wrap of RFC 3394 undone: ciphertext of R466 and wrapped key to the 64-bit integrity word and the key below it. -/
opaque Config.keyUnwrap : List Byte → List Byte → BitVec 64 × BitVec 512

/-- A key pair wrapped under the device key (R465, R466). -/
opaque Config.deviceWrap : BitVec 512 → BitVec 512

/-- The HSS signature with the one-time index given over a report (R472). -/
opaque Config.hssSign : Nat → List Byte → List Byte

/-- The number of one-time indices of the device's identity key (R472). -/
opaque Config.hssCapacity : Nat

/-- The SHA-256 of the running regulator and Glousk firmware (R472). -/
opaque Config.firmwareHash : BitVec 256

/-- The SHA-256 of the device's ML-KEM-1024 encapsulation key (R472). -/
opaque Config.kemKeyHash : BitVec 256

/-- The cycles in which bank arbitration holds the chunk with a number back (R294); a free value. -/
opaque Config.freeHeld : Nat → Nat

/-- The version of the running translator (R425, R472). -/
opaque Config.translatorVer : BitVec 32

/-- Whether a port delivers the n-th event message; which it cannot deliver after its retries the spec leaves open (R480, log entry 37). -/
opaque Config.delivered : Nat → Bool

/-- Whether a request that finds an earlier one still waiting is answered busy, rather than held back (R509); a free value. -/
opaque Config.busyReply : Nat → Bool

end Sys2Proof
end

