-- ==== Sys2Proof/Records.lean ====
section
/-! DEFINITION. The records that requests from outside carry: management headers (R509), regions to create (R417), host transfers (R421), group packets (R486, R487), views and rosters (R484, R485), revocation lists (R436), Praow objects (R424). -/

namespace Sys2Proof

/-- The header of a request and of its reply (R509): the master, the sequence number that a reply copies, the tenant acted on, the kind of
request, the status of a reply, the first argument. -/
structure ReqHdr where
  master : Nat
  seq : Nat
  tenant : Nat
  kind : Nat
  status : Nat := 0
  arg : Word := 0
  deriving DecidableEq, Repr, Inhabited

/-- Where a message on a tenant's behalf comes from: the endpoint that sends it, and the tenant it names (R476). -/
structure HostHdr where
  endpoint : Nat
  tenant : Nat
  deriving DecidableEq, Repr, Inhabited

/-- The fields of a region entry that system software sets at creation (R416, R417); `moved`: the generation and the incomplete mark of a
region that a tenant brings from another device (R483). -/
structure RegionDesc where
  number : Nat
  base : Nat
  extent : Nat
  owner : Nat
  tag : BitVec 16
  prot : Bool
  tensor : BitVec 32
  moved : Option (BitVec 16 × Bool) := none
  deriving DecidableEq, Repr, Inhabited

/-- A launch queue to create: its record, and the completion records written and freed so far of a queue that a tenant brings from another
device (R476, R483). -/
structure QueueDesc where
  record : BitVec 256
  written : Nat := 0
  freed : Nat := 0
  deriving DecidableEq, Repr, Inhabited

/-- A further fence to create: its number, and its value, 0 but for one that a tenant brings from another device (R478, R483). -/
structure FenceDesc where
  number : Nat
  value : Nat := 0
  deriving DecidableEq, Repr, Inhabited

/-- One chunk of a host transfer (R421): the endpoint that sends it and the tenant it names (R476), region, generation, offset, length and, for a write, the bytes. -/
structure Transfer where
  endpoint : Nat
  tenant : Nat
  region : Nat
  gen : BitVec 16
  offset : Nat
  len : Nat
  write : Bool
  bytes : List Byte
  deriving DecidableEq, Repr, Inhabited

/-- A packet of group traffic as it reaches a receiving port, with what protects it (R484, R485, R487). -/
structure GroupPacket where
  group : Nat
  view : BitVec 32
  member : Nat
  dreg : Nat
  dgen : BitVec 16
  doff : Nat
  flag : Bool
  bytes : List Byte
  tss : Word := 0
  deriving DecidableEq, Repr, Inhabited

/-- A group membership view (R484): group, number, endpoints of members 0 to 15, the transport key as R466 has a key: ciphertext and wrapped
key. -/
structure ViewRecord where
  group : Nat
  number : BitVec 32
  members : List Nat
  tenant : Nat
  ct : List Byte
  key : List Byte
  deriving DecidableEq, Repr, Inhabited

/-- A signed roster of a large group, or, with `manager`, the public key of the fabric manager that the owner installs (R485). -/
structure RosterRecord where
  group : Nat
  number : BitVec 32
  members : List Nat
  tenant : Nat
  signature : List Byte
  manager : Option (List Byte) := none
  deriving DecidableEq, Repr, Inhabited

/-- A revocation list (R436): its sequence number, the translator versions it names, its signature. -/
structure RevocationList where
  seq : Nat
  vers : List (BitVec 32)
  signature : List Byte
  deriving DecidableEq, Repr, Inhabited

/-- A Praow object as a tenant submits it, a 256-byte header followed by a body (R424). -/
structure PraowFile where
  tenant : Nat
  bytes : List Byte
  deriving DecidableEq, Repr, Inhabited

/-- A Praow object (R424): what its header fields and its body hold. `decl` is the list of window declarations of
R426 by window, `streams` the stream table entries of R309, `ports` the offsets that `.export` names (R443). -/
structure PraowObject where
  tenant : Nat
  code : List (BitVec 32)
  entry : Nat
  mentry : Option Nat
  shapeW : Nat
  shapeV : Nat
  shapeD : Nat
  decl : List (BitVec 32)
  streams : List (BitVec 256)
  argw : Nat
  argoff : Nat
  link : Option (Nat × Nat)
  ports : List Nat
  deriving DecidableEq, Repr, Inhabited

end Sys2Proof
end

