-- ==== Sys2Proof/Syntax.lean ====
section
/-! DEFINITION. The instructions of the ZN9: one constructor for each row of spec/opcode_table.json. The first 217 are
words of 32 bits (R73 to R79), with the fields of their rows as bit vectors. The others are the part's steps that have no
word (spec/95_what_each_step_holds.md): steps of engines, of the regulator, of the fabric and of system software. Their
arguments name what the step is about: `g` a core by gcn, `n` an access, message or request in flight, `slot` a task
slot, `r` a region number, `h` a request's header, `cl` a cluster 40d + c, `st` a stream, `t` and `tenant` a tenant. -/

namespace Sys2Proof

inductive Instr where
  /-- ADD, R95: Writes the sum of ga and gb modulo 2^64 to gd. -/
  | add (d : BitVec 7) (a : BitVec 7) (b : BitVec 7)
  /-- SUB, R95: Writes ga minus gb modulo 2^64 to gd. -/
  | sub (d : BitVec 7) (a : BitVec 7) (b : BitVec 7)
  /-- AND, R95: Writes the bitwise AND of ga and gb to gd. -/
  | and (d : BitVec 7) (a : BitVec 7) (b : BitVec 7)
  /-- OR, R95: Writes the bitwise OR of ga and gb to gd. -/
  | or (d : BitVec 7) (a : BitVec 7) (b : BitVec 7)
  /-- XOR, R95: Writes the bitwise XOR of ga and gb to gd. -/
  | xor (d : BitVec 7) (a : BitVec 7) (b : BitVec 7)
  /-- ANDN, R95: Writes ga AND NOT gb to gd. -/
  | andn (d : BitVec 7) (a : BitVec 7) (b : BitVec 7)
  /-- ORN, R95: Writes ga OR NOT gb to gd. -/
  | orn (d : BitVec 7) (a : BitVec 7) (b : BitVec 7)
  /-- SLL, R95: Shifts ga left by gb[5:0] with zero fill into gd. -/
  | sll (d : BitVec 7) (a : BitVec 7) (b : BitVec 7)
  /-- SRL, R95: Shifts ga right by gb[5:0] with zero fill into gd. -/
  | srl (d : BitVec 7) (a : BitVec 7) (b : BitVec 7)
  /-- SRA, R95: Shifts ga right arithmetically by gb[5:0] into gd. -/
  | sra (d : BitVec 7) (a : BitVec 7) (b : BitVec 7)
  /-- SLT, R95: Writes 1 if ga is less than gb as i64, else 0. -/
  | slt (d : BitVec 7) (a : BitVec 7) (b : BitVec 7)
  /-- SLTN, R95: Writes 1 if ga is less than gb as n64, else 0. -/
  | sltn (d : BitVec 7) (a : BitVec 7) (b : BitVec 7)
  /-- MIN, R95: Writes the signed minimum of ga and gb. -/
  | min (d : BitVec 7) (a : BitVec 7) (b : BitVec 7)
  /-- MAX, R95: Writes the signed maximum of ga and gb. -/
  | max (d : BitVec 7) (a : BitVec 7) (b : BitVec 7)
  /-- MINN, R95: Writes the natural minimum of ga and gb. -/
  | minn (d : BitVec 7) (a : BitVec 7) (b : BitVec 7)
  /-- MAXN, R95: Writes the natural maximum of ga and gb. -/
  | maxn (d : BitVec 7) (a : BitVec 7) (b : BitVec 7)
  /-- ADDS, R95: Writes the i64-saturated sum and sets sat when clamped. -/
  | adds (d : BitVec 7) (a : BitVec 7) (b : BitVec 7)
  /-- SUBS, R95: Writes the i64-saturated difference and sets sat when clamped. -/
  | subs (d : BitVec 7) (a : BitVec 7) (b : BitVec 7)
  /-- ADDSN, R95: Writes the n64-saturated sum and sets sat when clamped. -/
  | addsn (d : BitVec 7) (a : BitVec 7) (b : BitVec 7)
  /-- SUBSN, R95: Writes the n64-saturated difference and sets sat when clamped. -/
  | subsn (d : BitVec 7) (a : BitVec 7) (b : BitVec 7)
  /-- CLZ, R96: Writes the number of leading zero bits of ga. -/
  | clz (d : BitVec 7) (a : BitVec 7)
  /-- CTZ, R96: Writes the number of trailing zero bits of ga. -/
  | ctz (d : BitVec 7) (a : BitVec 7)
  /-- POPC, R96: Writes the number of one bits of ga. -/
  | popc (d : BitVec 7) (a : BitVec 7)
  /-- BREV, R96: Writes ga with its bit order reversed. -/
  | brev (d : BitVec 7) (a : BitVec 7)
  /-- BSWAP, R96: Writes ga with its byte order reversed. -/
  | bswap (d : BitVec 7) (a : BitVec 7)
  /-- ROL, R96: Writes ga rotated left by gb[5:0]. -/
  | rol (d : BitVec 7) (a : BitVec 7) (b : BitVec 7)
  /-- ROR, R96: Writes ga rotated right by gb[5:0]. -/
  | ror (d : BitVec 7) (a : BitVec 7) (b : BitVec 7)
  /-- SEXT, R96: Sign-extends the low w bits of ga into gd. -/
  | sext (d : BitVec 7) (a : BitVec 7) (w : BitVec 7)
  /-- ZEXT, R96: Zero-extends the low w bits of ga into gd. -/
  | zext (d : BitVec 7) (a : BitVec 7) (w : BitVec 7)
  /-- MUL, R100: Forms the exact signed 128-bit product into a register pair at window close. -/
  | mul (d : BitVec 7) (a : BitVec 7) (b : BitVec 7) (k : BitVec 4)
  /-- DIV, R101: Divides ga by gb as i64 into quotient and remainder pair at window close. -/
  | div (d : BitVec 7) (a : BitVec 7) (b : BitVec 7) (k : BitVec 4)
  /-- ADDI, R97: Adds the immediate to ga modulo 2^64. -/
  | addi (d : BitVec 7) (a : BitVec 7) (i : BitVec 12)
  /-- ANDI, R97: ANDs ga with the immediate. -/
  | andi (d : BitVec 7) (a : BitVec 7) (i : BitVec 12)
  /-- ORI, R97: ORs ga with the immediate. -/
  | ori (d : BitVec 7) (a : BitVec 7) (i : BitVec 12)
  /-- XORI, R97: XORs ga with the immediate. -/
  | xori (d : BitVec 7) (a : BitVec 7) (i : BitVec 12)
  /-- SLLI, R98: Shifts ga left by an immediate count with zero fill. -/
  | slli (d : BitVec 7) (a : BitVec 7) (n : BitVec 6)
  /-- SRLI, R98: Shifts ga right by an immediate count with zero fill. -/
  | srli (d : BitVec 7) (a : BitVec 7) (n : BitVec 6)
  /-- SRAI, R98: Shifts ga right arithmetically by an immediate count. -/
  | srai (d : BitVec 7) (a : BitVec 7) (n : BitVec 6)
  /-- RORI, R98: Rotates ga right by an immediate count. -/
  | rori (d : BitVec 7) (a : BitVec 7) (n : BitVec 6)
  /-- SLTI, R97: Writes 1 if ga is less than the immediate as i64. -/
  | slti (d : BitVec 7) (a : BitVec 7) (i : BitVec 12)
  /-- SLTNI, R97: Writes 1 if ga is less than the immediate as n64. -/
  | sltni (d : BitVec 7) (a : BitVec 7) (i : BitVec 12)
  /-- CMP, R86: Compares ga with gb, writes a predicate and optionally annuls following words. -/
  | cmp (a : BitVec 7) (b : BitVec 7) (c : BitVec 4) (p : BitVec 5) (s : BitVec 2) (e : BitVec 1)
  /-- CMPI, R86: Compares ga with imm7, writes a predicate and optionally annuls following words. -/
  | cmpi (a : BitVec 7) (i : BitVec 7) (c : BitVec 4) (p : BitVec 5) (s : BitVec 2) (e : BitVec 1)
  /-- PAND, R105: Writes the AND of two predicates. -/
  | pand (d : BitVec 5) (a : BitVec 5) (b : BitVec 5)
  /-- POR, R105: Writes the OR of two predicates. -/
  | por (d : BitVec 5) (a : BitVec 5) (b : BitVec 5)
  /-- PXOR, R105: Writes the XOR of two predicates. -/
  | pxor (d : BitVec 5) (a : BitVec 5) (b : BitVec 5)
  /-- PANDN, R105: Writes pa AND NOT pb. -/
  | pandn (d : BitVec 5) (a : BitVec 5) (b : BitVec 5)
  /-- PORN, R105: Writes pa OR NOT pb. -/
  | porn (d : BitVec 5) (a : BitVec 5) (b : BitVec 5)
  /-- PNOT, R105: Writes the negation of a predicate. -/
  | pnot (d : BitVec 5) (a : BitVec 5)
  /-- MFP, R105: Copies the predicate word into gd. -/
  | mfp (d : BitVec 7)
  /-- MTP, R105: Writes predicates 31:1 from ga under the mask gb. -/
  | mtp (a : BitVec 7) (b : BitVec 7)
  /-- SEL, R105: Writes ga or gb to gd according to predicate pn. -/
  | sel (d : BitVec 7) (a : BitVec 7) (b : BitVec 7) (n : BitVec 4)
  /-- FADD, R108: Adds two f32 values with one rounding. -/
  | fadd (d : BitVec 7) (a : BitVec 7) (b : BitVec 7)
  /-- FSUB, R108: Subtracts two f32 values with one rounding. -/
  | fsub (d : BitVec 7) (a : BitVec 7) (b : BitVec 7)
  /-- FMUL, R108: Multiplies two f32 values with one rounding. -/
  | fmul (d : BitVec 7) (a : BitVec 7) (b : BitVec 7)
  /-- FDIV, R108: Divides two f32 values with one rounding. -/
  | fdiv (d : BitVec 7) (a : BitVec 7) (b : BitVec 7)
  /-- FMAC, R108: Adds the product of ga and gb to gd with one rounding. -/
  | fmac (d : BitVec 7) (a : BitVec 7) (b : BitVec 7)
  /-- FSQRT, R108: Writes the rounded f32 square root of ga. -/
  | fsqrt (d : BitVec 7) (a : BitVec 7)
  /-- FMIN, R109: Writes the lesser f32 operand bit for bit. -/
  | fmin (d : BitVec 7) (a : BitVec 7) (b : BitVec 7)
  /-- FMAX, R109: Writes the greater f32 operand bit for bit. -/
  | fmax (d : BitVec 7) (a : BitVec 7) (b : BitVec 7)
  /-- FABS, R108: Clears the sign bit of an f32 value. -/
  | fabs (d : BitVec 7) (a : BitVec 7)
  /-- FNEG, R108: Inverts the sign bit of an f32 value. -/
  | fneg (d : BitVec 7) (a : BitVec 7)
  /-- FEQ, R108: Writes 1 if two f32 values are equal. -/
  | feq (d : BitVec 7) (a : BitVec 7) (b : BitVec 7)
  /-- FLT, R108: Writes 1 if ga is less than gb as f32. -/
  | flt (d : BitVec 7) (a : BitVec 7) (b : BitVec 7)
  /-- FLE, R108: Writes 1 if ga is at most gb as f32. -/
  | fle (d : BitVec 7) (a : BitVec 7) (b : BitVec 7)
  /-- FCVT_I, R108: Converts f32 to i64 under R68. -/
  | fcvtI (d : BitVec 7) (a : BitVec 7)
  /-- FCVT_N, R108: Converts f32 to n64 under R68. -/
  | fcvtN (d : BitVec 7) (a : BitVec 7)
  /-- ICVT_F, R108: Converts i64 to f32. -/
  | icvtF (d : BitVec 7) (a : BitVec 7)
  /-- NCVT_F, R108: Converts n64 to f32. -/
  | ncvtF (d : BitVec 7) (a : BitVec 7)
  /-- BR, R110: Branches by a signed word offset. -/
  | br (o : BitVec 26)
  /-- CALL, R110: Writes the return address to lr and branches. -/
  | call (o : BitVec 26)
  /-- BP, R110: Branches when the named predicate is 1. -/
  | bp (p : BitVec 5) (o : BitVec 20)
  /-- BPN, R110: Branches when the named predicate is 0. -/
  | bpn (p : BitVec 5) (o : BitVec 20)
  /-- JR, R111: Jumps to the word address held in ga. -/
  | jr (a : BitVec 7)
  /-- JALR, R111: Jumps to ga and writes the return address to gd. -/
  | jalr (d : BitVec 7) (a : BitVec 7)
  /-- RET, R111: Jumps to the address held in lr. -/
  | ret
  /-- ENTER, R113: Pushes a frame of lr and k registers onto the window stack. -/
  | enter (k : BitVec 2)
  /-- LEAVE, R113: Pops a frame of size k and restores lr and k registers. -/
  | leave (k : BitVec 2)
  /-- FORK, R117: Pushes a child of the parent's kind and shape onto the deque. -/
  | fork (p : BitVec 5) (a : BitVec 7) (o : BitVec 7)
  /-- FORK_R_CARRY8, R117: Pushes a roaming child with carry 8 onto the deque. -/
  | forkRCarry8 (p : BitVec 5) (a : BitVec 7) (o : BitVec 7)
  /-- FORK_R_CARRY16, R117: Pushes a roaming child with carry 16 onto the deque. -/
  | forkRCarry16 (p : BitVec 5) (a : BitVec 7) (o : BitVec 7)
  /-- FORK_R_CARRY24, R117: Pushes a roaming child with carry 24 onto the deque. -/
  | forkRCarry24 (p : BitVec 5) (a : BitVec 7) (o : BitVec 7)
  /-- JOIN, R119: Completes when the counter word is 0, otherwise parks on it. -/
  | join (a : BitVec 7)
  /-- EXIT, R118: Ends the strand, optionally decrementing a join counter as a release. -/
  | exit (a : BitVec 7)
  /-- YIELD, R120: Places the strand behind every ready strand of its core. -/
  | yield
  /-- LD, R177: Loads a zero-extended value of the selected width. -/
  | ld (d : BitVec 7) (b : BitVec 7) (k : BitVec 4) (z : BitVec 2) (o : BitVec 6)
  /-- LDS, R177: Loads a sign-extended value of 8, 16 or 32 bits. -/
  | lds (d : BitVec 7) (b : BitVec 7) (k : BitVec 4) (z : BitVec 2) (o : BitVec 6)
  /-- ST, R177: Stores the low bytes of gs at the effective address. -/
  | st (s : BitVec 7) (b : BitVec 7) (z : BitVec 2) (o : BitVec 6)
  /-- LDF, R183: Waits until the word is full and loads it, leaving it full. -/
  | ldf (d : BitVec 7) (b : BitVec 7) (k : BitVec 4) (o : BitVec 6)
  /-- LDT, R183: Waits until the word is full, loads it and sets it empty. -/
  | ldt (d : BitVec 7) (b : BitVec 7) (k : BitVec 4) (o : BitVec 6)
  /-- STF, R183: Waits until the word is empty, writes it and sets it full. -/
  | stf (s : BitVec 7) (b : BitVec 7) (o : BitVec 6)
  /-- STP, R183: Writes the word and sets it full unconditionally. -/
  | stp (s : BitVec 7) (b : BitVec 7) (o : BitVec 6)
  /-- STEMPTY, R183: Sets the word's full/empty bit empty. -/
  | stempty (b : BitVec 7) (o : BitVec 6)
  /-- CAS, R184: Compares the word with gd and writes gb if equal, returning the old value. -/
  | cas (d : BitVec 7) (a : BitVec 7) (b : BitVec 7) (k : BitVec 4)
  /-- XADD, R184: Adds gb to the word atomically, returning the old value. -/
  | xadd (d : BitVec 7) (a : BitVec 7) (b : BitVec 7) (k : BitVec 4)
  /-- TLK, R187: Looks up a source address in the tag table and writes the result word. -/
  | tlk (d : BitVec 7) (a : BitVec 7)
  /-- TFILL, R189: Checks and installs a tag entry and starts a line fill. -/
  | tfill (n : BitVec 4) (a : BitVec 7) (b : BitVec 7)
  /-- TEVICT, R191: Invalidates a slot, writing a dirty line back first. -/
  | tevict (a : BitVec 7)
  /-- TINVAL, R191: Invalidates a slot without write-back. -/
  | tinval (a : BitVec 7)
  /-- WBA, R193: Writes a window base plus an offset to gd. -/
  | wba (d : BitVec 7) (n : BitVec 4) (b : BitVec 7)
  /-- WRD, R194: Writes one field of a window register to gd. -/
  | wrd (d : BitVec 7) (n : BitVec 4) (s : BitVec 7)
  /-- CHK_R, R195: Checks a read access against a window, faulting if outside. -/
  | chkR (n : BitVec 4) (a : BitVec 7) (c : BitVec 4)
  /-- CHK_W, R195: Checks a write access against a window, faulting if outside. -/
  | chkW (n : BitVec 4) (a : BitVec 7) (c : BitVec 4)
  /-- CHK_RW, R195: Checks a read-write access against a window, faulting if outside. -/
  | chkRw (n : BitVec 4) (a : BitVec 7) (c : BitVec 4)
  /-- FENCE_CORE, R198: Stalls until earlier accesses are performed at core scope. -/
  | fenceCore
  /-- FENCE_CLUSTER, R198: Stalls until earlier accesses are performed at cluster scope. -/
  | fenceCluster
  /-- FENCE_DIE, R198: Stalls until earlier accesses are performed at die scope. -/
  | fenceDie
  /-- FENCE_PACKAGE, R198: Stalls until earlier accesses are performed at package scope. -/
  | fencePackage
  /-- FENCE_GROUP, R198: Acts as fence.package for the strand's accesses. -/
  | fenceGroup
  /-- BAR_ARRIVE, R200: Arrives at a barrier word, advancing the phase on the last arrival. -/
  | barArrive (d : BitVec 7) (a : BitVec 7)
  /-- BAR_WAIT, R200: Completes when the barrier phase differs from gb, otherwise parks. -/
  | barWait (a : BitVec 7) (b : BitVec 7)
  /-- RCNT, R323: Reads the state of the incoming rill. -/
  | rcnt (d : BitVec 7)
  /-- RFREE, R323: Reads the sender's credits and close state of the outgoing rill. -/
  | rfree (d : BitVec 7)
  /-- REOS_DN, R324: Pushes the end-of-stream value downstream. -/
  | reosDn
  /-- REOS_UP, R324: Closes the strand's incoming rill. -/
  | reosUp
  /-- MX_ISSUE, R250: Reads a 64-byte matrix command record and queues it. -/
  | mxIssue (a : BitVec 7)
  /-- MX_ISSUE_META, R250: Queues a matrix command with a copy of vector register vb as metadata. -/
  | mxIssueMeta (a : BitVec 7) (v : BitVec 5)
  /-- MX_WAIT, R251: Waits for the strand's queued matrix commands and merges their flags. -/
  | mxWait
  /-- VX_SYNC, R223: Waits until the strand's earlier vector instructions have completed. -/
  | vxSync
  /-- CP_REQ, R283: Appends a 16-byte request to the escapement processor's mailbox. -/
  | cpReq (a : BitVec 7) (b : BitVec 7)
  /-- TSPAWN, R347: Submits a task record from a window and writes its handle or refusal. -/
  | tspawn (d : BitVec 7) (a : BitVec 7) (n : BitVec 4)
  /-- TSTAT, R348: Writes the state of the task named by a handle. -/
  | tstat (d : BitVec 7) (a : BitVec 7)
  /-- NOP, R121: Does nothing. -/
  | nop
  /-- TRAP, R121: Raises the software-trap fault with a code and ga as aux. -/
  | trap (a : BitVec 7) (c : BitVec 7)
  /-- BRK, R121: Raises a breakpoint trap in a debug launch, otherwise nothing. -/
  | brk
  /-- MFS, R121: Reads a status or core shared register into gd. -/
  | mfs (d : BitVec 7) (n : BitVec 7)
  /-- MTS, R121: Writes ga to a writable status or core shared register. -/
  | mts (a : BitVec 7) (n : BitVec 7)
  /-- VADD, R226: Adds integer lanes with wrap. -/
  | vadd (d : BitVec 6) (a : BitVec 6) (b : BitVec 6) (t : BitVec 3)
  /-- VSUB, R226: Subtracts integer lanes with wrap. -/
  | vsub (d : BitVec 6) (a : BitVec 6) (b : BitVec 6) (t : BitVec 3)
  /-- VMUL, R226: Writes the low bits of lane products. -/
  | vmul (d : BitVec 6) (a : BitVec 6) (b : BitVec 6) (t : BitVec 3)
  /-- VMULH, R226: Writes the high bits of signed lane products. -/
  | vmulh (d : BitVec 6) (a : BitVec 6) (b : BitVec 6) (t : BitVec 3)
  /-- VMIN, R226: Writes the signed lane minimum. -/
  | vmin (d : BitVec 6) (a : BitVec 6) (b : BitVec 6) (t : BitVec 3)
  /-- VMAX, R226: Writes the signed lane maximum. -/
  | vmax (d : BitVec 6) (a : BitVec 6) (b : BitVec 6) (t : BitVec 3)
  /-- VMINN, R226: Writes the natural lane minimum. -/
  | vminn (d : BitVec 6) (a : BitVec 6) (b : BitVec 6) (t : BitVec 3)
  /-- VMAXN, R226: Writes the natural lane maximum. -/
  | vmaxn (d : BitVec 6) (a : BitVec 6) (b : BitVec 6) (t : BitVec 3)
  /-- VADDS, R226: Adds lanes with signed saturation. -/
  | vadds (d : BitVec 6) (a : BitVec 6) (b : BitVec 6) (t : BitVec 3)
  /-- VSUBS, R226: Subtracts lanes with signed saturation. -/
  | vsubs (d : BitVec 6) (a : BitVec 6) (b : BitVec 6) (t : BitVec 3)
  /-- VADDSN, R226: Adds lanes with natural saturation. -/
  | vaddsn (d : BitVec 6) (a : BitVec 6) (b : BitVec 6) (t : BitVec 3)
  /-- VSUBSN, R226: Subtracts lanes with natural saturation. -/
  | vsubsn (d : BitVec 6) (a : BitVec 6) (b : BitVec 6) (t : BitVec 3)
  /-- VABS, R226: Writes lane absolute values with saturation of the minimum. -/
  | vabs (d : BitVec 6) (a : BitVec 6) (t : BitVec 3)
  /-- VNEG, R226: Negates lanes with saturation of the minimum. -/
  | vneg (d : BitVec 6) (a : BitVec 6) (t : BitVec 3)
  /-- VSHL, R226: Shifts lanes left by per-lane counts. -/
  | vshl (d : BitVec 6) (a : BitVec 6) (b : BitVec 6) (t : BitVec 3)
  /-- VSHR, R226: Shifts lanes right with zero fill. -/
  | vshr (d : BitVec 6) (a : BitVec 6) (b : BitVec 6) (t : BitVec 3)
  /-- VSRA, R226: Shifts lanes right arithmetically. -/
  | vsra (d : BitVec 6) (a : BitVec 6) (b : BitVec 6) (t : BitVec 3)
  /-- VDOT, R227: Accumulates grouped lane dot products into i32 lanes. -/
  | vdot (d : BitVec 6) (a : BitVec 6) (b : BitVec 6) (t : BitVec 3)
  /-- VWADD, R227: Writes exact widened lane sums into a register pair. -/
  | vwadd (d : BitVec 6) (a : BitVec 6) (b : BitVec 6) (t : BitVec 3)
  /-- VWMUL, R227: Writes exact widened lane products into a register pair. -/
  | vwmul (d : BitVec 6) (a : BitVec 6) (b : BitVec 6) (t : BitVec 3)
  /-- VFADD, R228: Adds float lanes. -/
  | vfadd (d : BitVec 6) (a : BitVec 6) (b : BitVec 6) (t : BitVec 3)
  /-- VFSUB, R228: Subtracts float lanes. -/
  | vfsub (d : BitVec 6) (a : BitVec 6) (b : BitVec 6) (t : BitVec 3)
  /-- VFMUL, R228: Multiplies float lanes. -/
  | vfmul (d : BitVec 6) (a : BitVec 6) (b : BitVec 6) (t : BitVec 3)
  /-- VFDIV, R228: Divides float lanes. -/
  | vfdiv (d : BitVec 6) (a : BitVec 6) (b : BitVec 6) (t : BitVec 3)
  /-- VFMAC, R228: Adds lane products to the destination with one rounding. -/
  | vfmac (d : BitVec 6) (a : BitVec 6) (b : BitVec 6) (t : BitVec 3)
  /-- VFMIN, R228: Writes the lesser float lane operand. -/
  | vfmin (d : BitVec 6) (a : BitVec 6) (b : BitVec 6) (t : BitVec 3)
  /-- VFMAX, R228: Writes the greater float lane operand. -/
  | vfmax (d : BitVec 6) (a : BitVec 6) (b : BitVec 6) (t : BitVec 3)
  /-- VFABS, R228: Clears the sign bit of float lanes. -/
  | vfabs (d : BitVec 6) (a : BitVec 6) (t : BitVec 3)
  /-- VFNEG, R228: Inverts the sign bit of float lanes. -/
  | vfneg (d : BitVec 6) (a : BitVec 6) (t : BitVec 3)
  /-- VFSQRT, R228: Writes the rounded square root of float lanes. -/
  | vfsqrt (d : BitVec 6) (a : BitVec 6) (t : BitVec 3)
  /-- VFSCL, R229: Scales lanes by block scale bytes and accumulates. -/
  | vfscl (d : BitVec 6) (a : BitVec 6) (b : BitVec 6) (t : BitVec 3)
  /-- VCEQ, R230: Writes all ones in lanes where a equals b. -/
  | vceq (d : BitVec 6) (a : BitVec 6) (b : BitVec 6) (t : BitVec 3)
  /-- VCLT, R230: Writes all ones in lanes where a is less than b. -/
  | vclt (d : BitVec 6) (a : BitVec 6) (b : BitVec 6) (t : BitVec 3)
  /-- VCLE, R230: Writes all ones in lanes where a is at most b. -/
  | vcle (d : BitVec 6) (a : BitVec 6) (b : BitVec 6) (t : BitVec 3)
  /-- VCLTN, R230: Writes all ones in lanes where a is less than b as naturals. -/
  | vcltn (d : BitVec 6) (a : BitVec 6) (b : BitVec 6) (t : BitVec 3)
  /-- VAND, R230: Writes the bitwise AND of two vectors. -/
  | vand (d : BitVec 6) (a : BitVec 6) (b : BitVec 6)
  /-- VOR, R230: Writes the bitwise OR of two vectors. -/
  | vor (d : BitVec 6) (a : BitVec 6) (b : BitVec 6)
  /-- VXOR, R230: Writes the bitwise XOR of two vectors. -/
  | vxor (d : BitVec 6) (a : BitVec 6) (b : BitVec 6)
  /-- VANDN, R230: Writes a AND NOT b. -/
  | vandn (d : BitVec 6) (a : BitVec 6) (b : BitVec 6)
  /-- VSEL, R230: Selects bits of a or b under the old destination as mask. -/
  | vsel (d : BitVec 6) (a : BitVec 6) (b : BitVec 6)
  /-- VCVT, R234: Converts lanes between vector types into a signed or float destination. -/
  | vcvt (d : BitVec 6) (a : BitVec 6) (n : BitVec 1) (p : BitVec 2) (s : BitVec 3) (t : BitVec 3)
  /-- VCVTN, R234: Converts lanes into a natural integer destination. -/
  | vcvtn (d : BitVec 6) (a : BitVec 6) (n : BitVec 1) (p : BitVec 2) (s : BitVec 3) (t : BitVec 3)
  /-- VCVT4, R235: Converts between i4 elements and lanes of type t. -/
  | vcvt4 (d : BitVec 6) (a : BitVec 6) (r : BitVec 1) (p : BitVec 3) (t : BitVec 3)
  /-- VPACK4, R236: Packs i8 lanes into q4x quads by a shift-in write. -/
  | vpack4 (d : BitVec 6) (a : BitVec 6) (b : BitVec 6)
  /-- VUNPK4, R235: Decodes q4x quads into lanes of type t. -/
  | vunpk4 (d : BitVec 6) (a : BitVec 6) (p : BitVec 3) (t : BitVec 3)
  /-- VQUANT, R237: Quantises float lanes in blocks of 32 into codes and scale bytes. -/
  | vquant (g : BitVec 1) (d : BitVec 5) (a : BitVec 6) (gx : BitVec 1) (b : BitVec 5) (t : BitVec 3)
  /-- VPRUNE24, R238: Keeps the two largest lanes of each group of four, with metadata. -/
  | vprune24 (d : BitVec 5) (a : BitVec 6) (b : BitVec 5) (t : BitVec 3)
  /-- VPRUNE48, R238: Keeps the four largest lanes of each group of eight, with metadata. -/
  | vprune48 (d : BitVec 5) (a : BitVec 6) (b : BitVec 5) (t : BitVec 3)
  /-- VRADD, R239: Sums all lanes and old lane 0 into lane 0. -/
  | vradd (d : BitVec 6) (a : BitVec 6) (t : BitVec 3)
  /-- VRMAX, R239: Writes the greatest of all lanes and old lane 0 into lane 0. -/
  | vrmax (d : BitVec 6) (a : BitVec 6) (t : BitVec 3)
  /-- VRMIN, R239: Writes the least of all lanes and old lane 0 into lane 0. -/
  | vrmin (d : BitVec 6) (a : BitVec 6) (t : BitVec 3)
  /-- VPERM, R240: Permutes lanes of va by indices in vb. -/
  | vperm (d : BitVec 6) (a : BitVec 6) (b : BitVec 6) (t : BitVec 3)
  /-- VROT, R240: Rotates lanes of va by a count in vb. -/
  | vrot (d : BitVec 6) (a : BitVec 6) (b : BitVec 6) (t : BitVec 3)
  /-- VTLD, R241: Writes the transpose of a row-major source matrix. -/
  | vtld (d : BitVec 6) (a : BitVec 6) (b : BitVec 6) (t : BitVec 3)
  /-- VSWAP, R242: Exchanges 512 bytes with the mirrored partner core. -/
  | vswap (d : BitVec 6) (a : BitVec 6)
  /-- VLD, R243: Loads 512 bytes from any device address into a vector operand. -/
  | vld (d : BitVec 6) (g : BitVec 7)
  /-- VST, R243: Stores 512 bytes of a vector operand at any device address. -/
  | vst (d : BitVec 6) (g : BitVec 7)
  /-- VMOVG, R244: Reads one vector lane into a general register. -/
  | vmovg (d : BitVec 7) (a : BitVec 6) (i : BitVec 5) (t : BitVec 3)
  /-- VMOVV, R244: Writes one vector lane from a general register. -/
  | vmovv (d : BitVec 6) (g : BitVec 7) (i : BitVec 5) (t : BitVec 3)
  /-- VMOVX, R245: Writes a whole pointer register from ga. -/
  | vmovx (x : BitVec 3) (g : BitVec 7)
  /-- VMOVFX, R245: Reads a whole pointer register into gd. -/
  | vmovfx (d : BitVec 7) (x : BitVec 3)
  /-- DADD, R131: Adds two distribution registers, paired or independent by tags. -/
  | dadd (d : BitVec 3) (a : BitVec 3) (b : BitVec 3) (k : BitVec 4)
  /-- DSUB, R131: Subtracts two distribution registers, paired or independent by tags. -/
  | dsub (d : BitVec 3) (a : BitVec 3) (b : BitVec 3) (k : BitVec 4)
  /-- DMUL, R131: Multiplies two distribution registers, paired or independent by tags. -/
  | dmul (d : BitVec 3) (a : BitVec 3) (b : BitVec 3) (k : BitVec 4)
  /-- DMAX, R131: Takes the pointwise maximum of two distributions. -/
  | dmax (d : BitVec 3) (a : BitVec 3) (b : BitVec 3) (k : BitVec 4)
  /-- DMIN, R131: Takes the pointwise minimum of two distributions. -/
  | dmin (d : BitVec 3) (a : BitVec 3) (b : BitVec 3) (k : BitVec 4)
  /-- DNEG, R141: Inverts the sign of every point value. -/
  | dneg (d : BitVec 3) (a : BitVec 3) (k : BitVec 4)
  /-- DLD, R143: Loads 512 bytes into a distribution register with a fresh tag. -/
  | dld (d : BitVec 3) (g : BitVec 7) (k : BitVec 4)
  /-- DST, R144: Stores the 512 bytes of a distribution register. -/
  | dst (a : BitVec 3) (g : BitVec 7)
  /-- DMK, R145: Builds a distribution register from 64 f32 samples. -/
  | dmk (d : BitVec 3) (g : BitVec 7) (k : BitVec 4)
  /-- DTAG, R146: Copies a distribution register and sets its tag. -/
  | dtag (d : BitVec 3) (a : BitVec 3) (g : BitVec 7) (k : BitVec 4)
  /-- DSPLAT, R147: Sets every point to one value with a fresh tag. -/
  | dsplat (d : BitVec 3) (g : BitVec 7) (k : BitVec 4)
  /-- DMOM_V, R156: Writes a moment of each element into vector lanes. -/
  | dmomV (v : BitVec 3) (a : BitVec 3) (k : BitVec 4) (n : BitVec 2)
  /-- DMOM_G, R156: Writes a moment of the selected element into gs. -/
  | dmomG (a : BitVec 3) (g : BitVec 7) (k : BitVec 4) (n : BitVec 2)
  /-- DQNT_V, R157: Writes a quantile of each element into vector lanes. -/
  | dqntV (v : BitVec 3) (a : BitVec 3) (g : BitVec 7) (k : BitVec 4)
  /-- DQNT_G, R157: Writes a quantile of the selected element into gs. -/
  | dqntG (a : BitVec 3) (g : BitVec 7) (k : BitVec 4)
  /-- CP_START, R288: Reads a copy control block and starts a channel. -/
  | cpStart (a : BitVec 7) (b : BitVec 7)
  /-- CP_ABORT, R297: Stops a channel after its next chunk boundary. -/
  | cpAbort (b : BitVec 7)
  /-- CP_WAIT, R297: Waits until a channel is idle. -/
  | cpWait (b : BitVec 7)
  /-- CP_STAT_ST, R298: Reads a channel's iteration and state. -/
  | cpStatSt (d : BitVec 7) (b : BitVec 7)
  /-- CP_STAT_WM, R298: Reads a channel's watermark. -/
  | cpStatWm (d : BitVec 7) (b : BitVec 7)
  /-- CP_STAT_BC, R298: Reads a channel's bank-conflict counter. -/
  | cpStatBc (d : BitVec 7) (b : BitVec 7)
  /-- CP_STAT_NB, R298: Reads the bytes landed by a channel's command. -/
  | cpStatNb (d : BitVec 7) (b : BitVec 7)
  /-- CP_MBOX, R296: Pops one mailbox request into a register pair. -/
  | cpMbox (d : BitVec 7) (p : BitVec 5)
  /-- CP_EV, R296: Pops one event record into a register pair. -/
  | cpEv (d : BitVec 7) (p : BitVec 5)
  /-- CP_HALT, R299: Waits for all channels idle and halts the escapement processor. -/
  | cpHalt
  /-- IMM_HI, R88: Supplies bits 33:12 of the immediate of the governed word. -/
  | immHi (p : BitVec 22)
  /-- RLX, R182: Makes the governed access relaxed. -/
  | rlx
  /-- REP, R90: Repeats the governed word with stepped fields under a count register. -/
  | rep (n : BitVec 6) (c : BitVec 7) (m : BitVec 3)
  /-- CKPT, R88: Requests a lock-step checkpoint at the hint's issue. -/
  | ckpt
  /-- VALUE_ARRIVAL, R82: A long-latency value arrives and a strand stalled for it becomes ready. -/
  | valueArrival (n : Nat)
  /-- STORE_ACKNOWLEDGE, R179: A store is performed and acknowledged, lowering the unacknowledged-store count. -/
  | storeAcknowledge (n : Nat)
  /-- REMOTE_REQUEST, R305: A request arriving at a core is served by that core's bank. -/
  | remoteRequest (n : Nat)
  /-- HBM_ACCESS, R413: A base die serves an access to its stack through the cistern. -/
  | hbmAccess (n : Nat)
  /-- ATOMIC_PERFORM, R184: An atomic, barrier arrival or exit decrement is performed at the word's bank. -/
  | atomicPerform (n : Nat)
  /-- FE_WAITER_RETRY, R172: Waiters on a word retry their full/empty test after a matching change. -/
  | feWaiterRetry (addr : Nat)
  /-- WAIT_TABLE_RETRY, R172: A test refused by a full wait table is repeated after 256 cycles. -/
  | waitTableRetry (n : Nat)
  /-- STRAND_ADMISSION, R207: The core admits one candidate strand whose runs can be carved. -/
  | strandAdmission (g : Nat)
  /-- FRAME_SPILL, R208: The oldest window-stack frame is moved to bank 2. -/
  | frameSpill (g : Nat)
  /-- FRAME_REFILL, R208: A spilled frame is brought back for a leave and lands 3 cycles later. -/
  | frameRefill (g sid : Nat)
  /-- DISTRIBUTION_ENGINE_RELEASE, R136: The distribution engine frees 16 cycles after a word's issue. -/
  | distributionEngineRelease (g : Nat)
  /-- VECTOR_START, R219: The vector engine starts the entry at the head of its queue. -/
  | vectorStart (g : Nat)
  /-- VECTOR_COMPLETE, R220: A vector instruction completes, writing results and merging flags. -/
  | vectorComplete (g : Nat)
  /-- CHANNEL_VECTOR_ARRIVAL, R218: A whole 512-byte vector lands in an incoming network channel. -/
  | channelVectorArrival (g ch : Nat)
  /-- VSWAP_VECTOR_ARRIVAL, R315: The partner's vswap vector arrives at the core. -/
  | vswapVectorArrival (g : Nat)
  /-- MATRIX_HEAD_CHECK, R265: A command at the queue head has its gate and done fields checked. -/
  | matrixHeadCheck (g : Nat)
  /-- MATRIX_GATE_TEST, R262: The sequencer tests the gate word until it is full. -/
  | matrixGateTest (g : Nat)
  /-- MMA, R258: Starts a dense matrix product. -/
  | mma (g : Nat)
  /-- MMAS, R258: Starts a scaled dense matrix product. -/
  | mmas (g : Nat)
  /-- TZERO, R261: Sets the block's tile elements to +0. -/
  | tzero (g : Nat)
  /-- TLOAD, R261: Loads f32 rows into tile elements. -/
  | tload (g : Nat)
  /-- TSTORE, R261: Converts tile elements and stores them as rows. -/
  | tstore (g : Nat)
  /-- TSCALE, R261: Scales tile elements by a power of two. -/
  | tscale (g : Nat)
  /-- SMMA24, R271: Starts a 2:4 structured-sparse product. -/
  | smma24 (g : Nat)
  /-- SMMA48, R271: Starts a 4:8 structured-sparse product. -/
  | smma48 (g : Nat)
  /-- GATHER, R273: Starts a row gather by an index vector. -/
  | gather (g : Nat)
  /-- GMMA, R276: Starts a ragged grouped product. -/
  | gmma (g : Nat)
  /-- REMOTE_OPERAND_CHUNK_ARRIVAL, R512: A remote operand chunk arrives at the matrix unit. -/
  | remoteOperandChunkArrival (g : Nat)
  /-- GATHER_CHUNK_LANDING, R274: A fetched gather chunk lands in the destination. -/
  | gatherChunkLanding (g i : Nat)
  /-- MATRIX_COMMAND_COMPLETE, R248: A matrix command finishes its tile updates and memory writes. -/
  | matrixCommandComplete (g : Nat)
  /-- COPY_CHUNK_ISSUE, R291: The copy engine issues one chunk of an active channel. -/
  | copyChunkIssue (g : Nat)
  /-- COPY_CHUNK_LANDING, R292: A copy chunk lands, setting its words full. -/
  | copyChunkLanding (g ch i : Nat)
  /-- COPY_STAGE_RELEASED, R290: A stage's release word becomes empty and the channel proceeds. -/
  | copyStageReleased (g ch : Nat)
  /-- COPY_ITERATION_LANDED, R290: An iteration's release word is set full and its kind 1 record enters. -/
  | copyIterationLanded (g ch : Nat)
  /-- COPY_COMMAND_COMPLETE, R290: The kind 2 record enters the event queue and the channel becomes idle. -/
  | copyCommandComplete (g ch : Nat)
  /-- COPY_ABORT_COMPLETE, R297: An aborted channel writes a kind 3 record and becomes idle. -/
  | copyAbortComplete (g ch : Nat)
  /-- STREAM_BLOCK_READ, R311: The distributor reads a ring block once its release word is full. -/
  | streamBlockRead (cl st : Nat)
  /-- STREAM_BLOCK_DELIVER, R311: The distributor delivers a block to a subscriber within its window. -/
  | streamBlockDeliver (cl st k : Nat)
  /-- STREAM_BLOCK_RELEASE, R311: The distributor empties a block's release word after all subscribers consumed it. -/
  | streamBlockRelease (cl st : Nat)
  /-- RILL_VALUE_LANDING, R320: A pushed value lands in the receiver's rill slot. -/
  | rillValueLanding (g : Nat)
  /-- RILL_CREDIT_RETURN, R319: A credit returned by a pop reaches the sender. -/
  | rillCreditReturn (g : Nat)
  /-- RILL_CLOSE_NOTICE, R324: The sender learns that its outgoing rill is closed. -/
  | rillCloseNotice (g : Nat)
  /-- CASCADE_CHECKPOINT, R326: A stage writes a checkpoint record and passes the marker on. -/
  | cascadeCheckpoint (g : Nat)
  /-- LOCKSTEP_CHECKPOINT, R212: A lock-step pair saves its state and drains the release buffer. -/
  | lockstepCheckpoint (g : Nat)
  /-- LOCKSTEP_MISMATCH, R213: A compared write differs and both cores roll back. -/
  | lockstepMismatch (g : Nat)
  /-- STEAL_REQUEST, R369: A thief core sends a steal request to a victim. -/
  | stealRequest (g : Nat)
  /-- STEAL_REPLY, R370: A steal reply arrives with an entry or empty. -/
  | stealReply (g : Nat)
  /-- STEAL_BACKOFF_EXPIRY, R369: A thief resumes asking 256 cycles after a full cycle of empty answers. -/
  | stealBackoffExpiry (g : Nat)
  /-- MIGRATION_DEPARTURE, R373: A drained roaming strand sends its context message to the target. -/
  | migrationDeparture (g sid : Nat)
  /-- CONTEXT_MESSAGE, R373: A context message reaches the target, which accepts or refuses it. -/
  | contextMessage (n : Nat)
  /-- MIGRATION_REFUSAL, R373: A refusal reaches the old core. -/
  | migrationRefusal (n : Nat)
  /-- MIGRATION_RESEND, R373: The old core resends a refused context 256 cycles later. -/
  | migrationResend (n : Nat)
  /-- MIGRATION_ACCEPTANCE, R373: An acceptance reaches the old core, which frees the strand and enters a forwarding entry. -/
  | migrationAcceptance (n : Nat)
  /-- CONTEXT_SPILL, R375: An unadmitted arrival is written to the spill area. -/
  | contextSpill (g : Nat)
  /-- CONTEXT_REFILL, R375: A spilled context is read back for admission. -/
  | contextRefill (g : Nat)
  /-- FORWARDING_ENTRY_EXPIRY, R378: A forwarding entry lapses after 1,024 cycles. -/
  | forwardingEntryExpiry (g : Nat)
  /-- FORWARDED_MESSAGE, R378: A reply or wake for a departed strand is redirected or dropped. -/
  | forwardedMessage (g n : Nat)
  /-- TSPAWN_REQUEST, R347: A spawn request reaches the regulator and is accepted or refused. -/
  | tspawnRequest (n : Nat)
  /-- TSTAT_REQUEST, R348: A state request reaches the regulator. -/
  | tstatRequest (n : Nat)
  /-- REGULATOR_ANSWER, R347: A tspawn or tstat answer returns to the strand. -/
  | regulatorAnswer (n : Nat)
  /-- DOORBELL, R477: A doorbell carrying a new launch ring tail arrives. -/
  | doorbell (h : HostHdr) (q tail : Nat)
  /-- LAUNCH_RECORD_READ, R477: The regulator reads the next launch record and applies the refusal checks. -/
  | launchRecordRead (tenant q : Nat)
  /-- TASK_RELEASE, R355: A held task is released from conflicts and predecessors. -/
  | taskRelease (slot : Nat)
  /-- GANG_PLACEMENT, R350: The regulator places a gang on free cores. -/
  | gangPlacement (slot : Nat) (cores : List Nat)
  /-- START_MESSAGE, R353: The start message reaches the root core's stub. -/
  | startMessage (slot : Nat)
  /-- SPAWN_MESSAGE, R353: A spawn message reaches a member and enters its start queue. -/
  | spawnMessage (slot member : Nat)
  /-- TASK_COMPLETION, R357: A task enters state 3 when all strands, channels and engines are done. -/
  | taskCompletion (slot : Nat)
  /-- GRANULE_STEP, R361: A write-set granule's write-backs are acknowledged and the cursor advances. -/
  | granuleStep (slot : Nat)
  /-- CISTERN_COMMIT, R362: All HBM-bound writes of the task are performed at package scope. -/
  | cisternCommit (slot : Nat)
  /-- COMPLETION_RECORD, R364: The regulator writes the completion record and advances the fence. -/
  | completionRecord (slot : Nat)
  /-- COMPLETION_HEAD, R478: A completion-head message frees completion ring slots. -/
  | completionHead (h : HostHdr) (q head : Nat)
  /-- FENCE_WAIT, R478: A fence wait is answered when the fence reaches its value. -/
  | fenceWait (h : HostHdr) (fence v timeout : Nat)
  /-- FENCE_WAIT_TIMEOUT, R478: A fence wait expires with a timeout reply. -/
  | fenceWaitTimeout (n : Nat)
  /-- TASK_RETIREMENT, R338: A finished task's slot is retired once its conditions hold. -/
  | taskRetirement (slot : Nat)
  /-- TASK_STOP, R122: A fault stops the task's strands, engines and escapement processors. -/
  | taskStop (slot : Nat)
  /-- FAULT_RECORD_WRITE, R126: After all accesses land and ring slots fit, the fault record is written. -/
  | faultRecordWrite (slot : Nat)
  /-- SLICE_EXPIRY, R453: A task's slice expires and it may be pre-empted. -/
  | sliceExpiry (slot : Nat)
  /-- QUIESCENCE_COMPLETE, R450: A gang reaches quiescence with replay entries recorded. -/
  | quiescenceComplete (slot : Nat)
  /-- QUIESCENCE_CANCEL, R451: Quiescence is cancelled 65,536 cycles after issue stopped. -/
  | quiescenceCancel (slot : Nat)
  /-- QUIESCENCE_RETRY, R451: A cancelled quiescence is retried after 2^20 cycles. -/
  | quiescenceRetry (slot : Nat)
  /-- TASK_RESUME, R455: A saved task is restored on its cores and resumes. -/
  | taskResume (slot : Nat)
  /-- COMPACTION_ENTRY_WRITE, R457: After the copy, the region entry gets its new base and generation. -/
  | compactionEntryWrite (r : Nat)
  /-- REKEY_SWEEP_STEP, R470: One line of a protected region is re-encrypted under the new version. -/
  | rekeySweepStep (r : Nat)
  /-- CLUSTER_RETIREMENT_EFFECT, R462: A cluster retirement takes effect once no task uses it. -/
  | clusterRetirementEffect (cl : Nat)
  /-- CHANNEL_RETIREMENT_EFFECT, R463: A channel retirement takes effect after compaction out of the withheld range. -/
  | channelRetirementEffect (stack ch : Nat)
  /-- HOST_TRANSFER_CHUNK, R421: A host transfer chunk is checked and transferred or refused. -/
  | hostTransferChunk (t : Transfer)
  /-- GROUP_SEND_SLOT_TAKE, R486: The port takes a submitted group send slot. -/
  | groupSendSlotTake (q : Nat)
  /-- COLLECTIVE_CHUNK_RECEIVE, R487: A receiving device checks and lands a collective chunk. -/
  | collectiveChunkReceive (p : GroupPacket)
  /-- COLLECTIVE_CHUNK_ACK, R487: A chunk acknowledgement arrives; the flag and done word follow the last. -/
  | collectiveChunkAck (q i : Nat) (ok : Bool)
  /-- PACKAGE_RESET, R502: The control complexes verify firmware and begin bring-up. -/
  | packageReset (fw : List Bool)
  /-- REDUCED_SERVICE_START, R502: Reduced service begins when basic training ends on all stacks. -/
  | reducedServiceStart
  /-- CLUSTER_SELF_TEST_RESULT, R503: A cluster passes or fails self-test. -/
  | clusterSelfTestResult (cl : Nat) (pass : Bool)
  /-- FULL_SERVICE_SWITCH, R506: All gangs are quiesced and clusters switch to 3.6 GHz. -/
  | fullServiceSwitch
  /-- THERMAL_THROTTLE, R508: Throttling begins when a die reaches 105 °C. -/
  | thermalThrottle (die : Nat)
  /-- THERMAL_TRIP, R508: The package trips at 115 °C and resets. -/
  | thermalTrip (die : Nat)
  /-- POWER_WINDOW_EXPIRY, R507: A 1 ms power window ends and throttling holds power under the cap. -/
  | powerWindowExpiry (watts : Nat)
  /-- REFRESH, R209: Memory refresh lengthens timing only. -/
  | refresh (cycles : Nat)
  /-- LINK_LAYER_RETRY, R209: A link-layer retry lengthens timing only. -/
  | linkLayerRetry (cycles : Nat)
  /-- LINK_TRAINING, R473: A port trains and any pending split takes effect. -/
  | linkTraining (port : Nat)
  /-- PATROL_SCRUB, R414: The base die reads every word of its stack at least daily. -/
  | patrolScrub (stack : Nat)
  /-- UNCORRECTABLE_DATA, R409: An uncorrectable ECC error poisons a word. -/
  | uncorrectableData (addr : Nat)
  /-- GANG_CORE_UNCORRECTABLE_ERROR, R408: An uncorrectable error in a gang core raises a machine fault for the task. -/
  | gangCoreUncorrectableError (g unit addr : Nat)
  /-- STATUS_READ, R510: Management read of status and the device descriptor. -/
  | statusRead (h : ReqHdr)
  /-- OWNERSHIP_CLAIM, R474: A master claims ownership. -/
  | ownershipClaim (h : ReqHdr)
  /-- OWNERSHIP_HANDOVER, R475: The owner names a master to take over. -/
  | ownershipHandover (h : ReqHdr) (dst : Nat)
  /-- HANDOVER_ACK, R475: The named master's acknowledgement makes it owner. -/
  | handoverAck (h : ReqHdr)
  /-- HANDOVER_LAPSE, R475: An unacknowledged handover lapses after 10 s. -/
  | handoverLapse
  /-- KEEPALIVE, R475: The owner's keepalive arrives. -/
  | keepalive (h : ReqHdr)
  /-- OWNERSHIP_LOSS, R475: Ownership becomes vacant after 30 s without keepalive. -/
  | ownershipLoss
  /-- TENANT_CREATE, R476: The owner creates a tenant and binds its endpoint. -/
  | tenantCreate (h : ReqHdr) (t endpoint handler : Nat)
  /-- LAUNCH_QUEUE_CREATE, R476: A launch queue is created for a tenant. -/
  | launchQueueCreate (h : ReqHdr) (t q : Nat) (rec : QueueDesc)
  /-- FENCE_CREATE, R478: A fence is created at value 0. -/
  | fenceCreate (h : ReqHdr) (t : Nat) (i : FenceDesc)
  /-- FAULT_RING_REGISTER, R126: A tenant's fault ring is registered. -/
  | faultRingRegister (h : ReqHdr) (t r : Nat)
  /-- FAULT_SLOT_FREE, R126: System software frees the slots of a record with no handler. -/
  | faultSlotFree (h : ReqHdr) (t slot : Nat)
  /-- REGION_CREATE, R417: A region is checked, scrubbed and made live. -/
  | regionCreate (h : ReqHdr) (d : RegionDesc)
  /-- REGION_FREE, R419: A region is freed once no task names it. -/
  | regionFree (h : ReqHdr) (r : Nat)
  /-- REGION_REVOKE, R460: A region is revoked and tasks naming it stop. -/
  | regionRevoke (h : ReqHdr) (r : Nat)
  /-- REGION_QUERY, R479: Returns words 1 and 2 of a region entry. -/
  | regionQuery (h : ReqHdr) (r : Nat)
  /-- REGION_COMPACT, R457: Begins moving a region and quiescing its holders. -/
  | regionCompact (h : ReqHdr) (r base : Nat)
  /-- REGION_REKEY, R470: Advances a protected region's write version and starts a sweep. -/
  | regionRekey (h : ReqHdr) (r : Nat)
  /-- INCOMPLETE_MARK_CLEAR, R406: System software clears a region's incomplete mark. -/
  | incompleteMarkClear (h : ReqHdr) (r : Nat)
  /-- MEMORY_WINDOW_INSTALL, R420: Installs a tenant memory window in the ports. -/
  | memoryWindowInstall (h : ReqHdr) (t i : Nat) (w : BitVec 128)
  /-- PARTITION_RECORD_INSTALL, R422: Installs a tenant partition record. -/
  | partitionRecordInstall (h : ReqHdr) (p : BitVec 256)
  /-- SLICE_SET, R453: Sets a tenant's slice. -/
  | sliceSet (h : ReqHdr) (t cycles : Nat)
  /-- POWER_CAP_SET, R507: Sets the package power cap. -/
  | powerCapSet (h : ReqHdr) (watts : Nat)
  /-- METHOD_ENTRY_INSTALL, R340: Installs a method table entry. -/
  | methodEntryInstall (h : ReqHdr) (i : Nat) (e : BitVec 512)
  /-- IMAGE_INSTALL, R435: Installs a sealed image after verifying its tag. -/
  | imageInstall (h : ReqHdr) (base : Nat) (img : List (BitVec 8))
  /-- TRANSLATION, R432: Glousk admits or refuses a Praow object and seals the image. -/
  | translation (o : PraowFile)
  /-- REVOCATION_LIST_INSTALL, R436: Installs a revocation list and stops tasks of revoked versions. -/
  | revocationListInstall (h : ReqHdr) (l : RevocationList)
  /-- LINK_DOMAIN_CREATE, R439: Creates a link domain. -/
  | linkDomainCreate (h : ReqHdr) (d : BitVec 1024)
  /-- LINK_DOMAIN_DELETE, R440: Deletes a link domain and unbinds its landings. -/
  | linkDomainDelete (h : ReqHdr) (dom : Nat)
  /-- LANDING_BIND, R441: Binds an export to a landing of a domain. -/
  | landingBind (h : ReqHdr) (dom i : Nat) (image : BitVec 64) (k : Nat)
  /-- KEY_INSTALL, R466: Installs an encapsulated tenant key into a key slot. -/
  | keyInstall (h : ReqHdr) (ct : List (BitVec 8)) (wrapped : List (BitVec 8))
  /-- KEY_DESTROY, R467: Erases a key slot and advances its generation. -/
  | keyDestroy (h : ReqHdr) (handle : BitVec 64)
  /-- CLUSTER_RETIRE, R462: Requests retirement of a cluster. -/
  | clusterRetire (h : ReqHdr) (cl : Nat)
  /-- CHANNEL_RETIRE, R463: Requests retirement of an HBM stack channel. -/
  | channelRetire (h : ReqHdr) (stack ch : Nat)
  /-- RETURN_TO_SERVICE, R408: Returns a withheld core to service. -/
  | returnToService (h : ReqHdr) (g : Nat)
  /-- PORT_SPLIT, R473: Splits a port into two 800 Gb/s ports. -/
  | portSplit (h : ReqHdr) (port : Nat)
  /-- VIEW_INSTALL, R484: Installs a new group membership view. -/
  | viewInstall (h : ReqHdr) (v : ViewRecord)
  /-- ROSTER_INSTALL, R485: Installs a signed roster for a large group. -/
  | rosterInstall (h : ReqHdr) (v : RosterRecord)
  /-- GROUP_SEND_QUEUE_BIND, R486: Binds a group send queue to a port and group. -/
  | groupSendQueueBind (h : ReqHdr) (q r port group : Nat)
  /-- MIGRATION_ROUND, R481: Starts a pre-copy round with write logging. -/
  | migrationRound (h : ReqHdr) (t : Nat)
  /-- MIGRATION_FINAL_ROUND, R482: Drains the tenant's tasks for the final round. -/
  | migrationFinalRound (h : ReqHdr) (t : Nat)
  /-- ATTESTATION_REPORT, R472: Returns a signed attestation report. -/
  | attestationReport (h : ReqHdr) (nonce : BitVec 512) (key : BitVec 64) (image : BitVec 64)
  /-- TAG_FILL_LANDING, R189: The 256-byte chunk of a tfill lands in the local line, setting each word full, or fails its chunk check and raises engine fault 0x0010. -/
  | tagFillLanding (n : Nat)
  /-- THROTTLING_END, R508: Thermal throttling stops when the die temperature falls back below the throttle point. -/
  | throttlingEnd (die : Nat)
  deriving DecidableEq, Repr

end Sys2Proof
end

