-- ==== Sys2Proof/Decode.lean ====
section
/-! DEFINITION. From words to instructions and back: the decoder of R73 to R79 and R88, total on any word and rejecting by
name, and the encoder written from the same tables (spec/04 and the rows of spec/opcode_table.json). Words are read as
numbers with bit 0 least significant, so that a field is a quotient and a remainder. -/

namespace Sys2Proof

/-- Why a word is no instruction (R77): its major, its selector or a reserved field; or it is shorter than a word. -/
inductive DecodeError where
  | reservedMajor
  | reservedSelector
  | reservedField
  | shortWord
  deriving DecidableEq, Repr

/-- Bits lo+len-1 : lo of a word. -/
def fld (w lo len : Nat) : Nat := w / 2 ^ lo % 2 ^ len

/-- The same bits as a bit vector. -/
def fldB (w lo len : Nat) : BitVec len := BitVec.ofNat len (fld w lo len)

/-- Major 1, integer arithmetic and logic (R95). -/
def decodeMajor1 (w : Nat) : Except DecodeError Instr :=
  match fld w 0 5 with
  | 0 => .ok (.add (fldB w 19 7) (fldB w 12 7) (fldB w 5 7))
  | 1 => .ok (.sub (fldB w 19 7) (fldB w 12 7) (fldB w 5 7))
  | 2 => .ok (.and (fldB w 19 7) (fldB w 12 7) (fldB w 5 7))
  | 3 => .ok (.or (fldB w 19 7) (fldB w 12 7) (fldB w 5 7))
  | 4 => .ok (.xor (fldB w 19 7) (fldB w 12 7) (fldB w 5 7))
  | 5 => .ok (.andn (fldB w 19 7) (fldB w 12 7) (fldB w 5 7))
  | 6 => .ok (.orn (fldB w 19 7) (fldB w 12 7) (fldB w 5 7))
  | 7 => .ok (.sll (fldB w 19 7) (fldB w 12 7) (fldB w 5 7))
  | 8 => .ok (.srl (fldB w 19 7) (fldB w 12 7) (fldB w 5 7))
  | 9 => .ok (.sra (fldB w 19 7) (fldB w 12 7) (fldB w 5 7))
  | 10 => .ok (.slt (fldB w 19 7) (fldB w 12 7) (fldB w 5 7))
  | 11 => .ok (.sltn (fldB w 19 7) (fldB w 12 7) (fldB w 5 7))
  | 12 => .ok (.min (fldB w 19 7) (fldB w 12 7) (fldB w 5 7))
  | 13 => .ok (.max (fldB w 19 7) (fldB w 12 7) (fldB w 5 7))
  | 14 => .ok (.minn (fldB w 19 7) (fldB w 12 7) (fldB w 5 7))
  | 15 => .ok (.maxn (fldB w 19 7) (fldB w 12 7) (fldB w 5 7))
  | 16 => .ok (.adds (fldB w 19 7) (fldB w 12 7) (fldB w 5 7))
  | 17 => .ok (.subs (fldB w 19 7) (fldB w 12 7) (fldB w 5 7))
  | 18 => .ok (.addsn (fldB w 19 7) (fldB w 12 7) (fldB w 5 7))
  | 19 => .ok (.subsn (fldB w 19 7) (fldB w 12 7) (fldB w 5 7))
  | _ => .error .reservedSelector

/-- Major 2, bit manipulation (R96). -/
def decodeMajor2 (w : Nat) : Except DecodeError Instr :=
  match fld w 0 5 with
  | 0 => if fld w 5 7 = 0 then .ok (.clz (fldB w 19 7) (fldB w 12 7)) else .error .reservedField
  | 1 => if fld w 5 7 = 0 then .ok (.ctz (fldB w 19 7) (fldB w 12 7)) else .error .reservedField
  | 2 => if fld w 5 7 = 0 then .ok (.popc (fldB w 19 7) (fldB w 12 7)) else .error .reservedField
  | 3 => if fld w 5 7 = 0 then .ok (.brev (fldB w 19 7) (fldB w 12 7)) else .error .reservedField
  | 4 => if fld w 5 7 = 0 then .ok (.bswap (fldB w 19 7) (fldB w 12 7)) else .error .reservedField
  | 5 => .ok (.rol (fldB w 19 7) (fldB w 12 7) (fldB w 5 7))
  | 6 => .ok (.ror (fldB w 19 7) (fldB w 12 7) (fldB w 5 7))
  | 7 => .ok (.sext (fldB w 19 7) (fldB w 12 7) (fldB w 5 7))
  | 8 => .ok (.zext (fldB w 19 7) (fldB w 12 7) (fldB w 5 7))
  | _ => .error .reservedSelector

/-- Major 3, multiply and divide (R99). -/
def decodeMajor3 (w : Nat) : Except DecodeError Instr :=
  match fld w 0 1 with
  | 0 => .ok (.mul (fldB w 19 7) (fldB w 12 7) (fldB w 5 7) (fldB w 1 4))
  | _ => .ok (.div (fldB w 19 7) (fldB w 12 7) (fldB w 5 7) (fldB w 1 4))

/-- Major 8, immediate shifts (R98). -/
def decodeMajor8 (w : Nat) : Except DecodeError Instr :=
  match fld w 6 2 with
  | 0 => if fld w 8 4 = 0 then .ok (.slli (fldB w 19 7) (fldB w 12 7) (fldB w 0 6)) else .error .reservedField
  | 1 => if fld w 8 4 = 0 then .ok (.srli (fldB w 19 7) (fldB w 12 7) (fldB w 0 6)) else .error .reservedField
  | 2 => if fld w 8 4 = 0 then .ok (.srai (fldB w 19 7) (fldB w 12 7) (fldB w 0 6)) else .error .reservedField
  | _ => if fld w 8 4 = 0 then .ok (.rori (fldB w 19 7) (fldB w 12 7) (fldB w 0 6)) else .error .reservedField

/-- Major 13, predicates and select (R104). -/
def decodeMajor13 (w : Nat) : Except DecodeError Instr :=
  if fld w 4 1 = 1 then .ok (.sel (fldB w 19 7) (fldB w 12 7) (fldB w 5 7) (fldB w 0 4)) else
  match fld w 0 4 with
  | 0 => if fld w 24 2 = 0 ∧ fld w 17 2 = 0 ∧ fld w 10 2 = 0 then .ok (.pand (fldB w 19 5) (fldB w 12 5) (fldB w 5 5)) else .error .reservedField
  | 1 => if fld w 24 2 = 0 ∧ fld w 17 2 = 0 ∧ fld w 10 2 = 0 then .ok (.por (fldB w 19 5) (fldB w 12 5) (fldB w 5 5)) else .error .reservedField
  | 2 => if fld w 24 2 = 0 ∧ fld w 17 2 = 0 ∧ fld w 10 2 = 0 then .ok (.pxor (fldB w 19 5) (fldB w 12 5) (fldB w 5 5)) else .error .reservedField
  | 3 => if fld w 24 2 = 0 ∧ fld w 17 2 = 0 ∧ fld w 10 2 = 0 then .ok (.pandn (fldB w 19 5) (fldB w 12 5) (fldB w 5 5)) else .error .reservedField
  | 4 => if fld w 24 2 = 0 ∧ fld w 17 2 = 0 ∧ fld w 10 2 = 0 then .ok (.porn (fldB w 19 5) (fldB w 12 5) (fldB w 5 5)) else .error .reservedField
  | 5 => if fld w 24 2 = 0 ∧ fld w 17 2 = 0 ∧ fld w 5 7 = 0 then .ok (.pnot (fldB w 19 5) (fldB w 12 5)) else .error .reservedField
  | 6 => if fld w 5 14 = 0 then .ok (.mfp (fldB w 19 7)) else .error .reservedField
  | 7 => if fld w 19 7 = 0 then .ok (.mtp (fldB w 12 7) (fldB w 5 7)) else .error .reservedField
  | _ => .error .reservedSelector

/-- Major 14, scalar f32 (R107). -/
def decodeMajor14 (w : Nat) : Except DecodeError Instr :=
  match fld w 0 5 with
  | 0 => .ok (.fadd (fldB w 19 7) (fldB w 12 7) (fldB w 5 7))
  | 1 => .ok (.fsub (fldB w 19 7) (fldB w 12 7) (fldB w 5 7))
  | 2 => .ok (.fmul (fldB w 19 7) (fldB w 12 7) (fldB w 5 7))
  | 3 => .ok (.fdiv (fldB w 19 7) (fldB w 12 7) (fldB w 5 7))
  | 4 => .ok (.fmac (fldB w 19 7) (fldB w 12 7) (fldB w 5 7))
  | 5 => if fld w 5 7 = 0 then .ok (.fsqrt (fldB w 19 7) (fldB w 12 7)) else .error .reservedField
  | 6 => .ok (.fmin (fldB w 19 7) (fldB w 12 7) (fldB w 5 7))
  | 7 => .ok (.fmax (fldB w 19 7) (fldB w 12 7) (fldB w 5 7))
  | 8 => if fld w 5 7 = 0 then .ok (.fabs (fldB w 19 7) (fldB w 12 7)) else .error .reservedField
  | 9 => if fld w 5 7 = 0 then .ok (.fneg (fldB w 19 7) (fldB w 12 7)) else .error .reservedField
  | 10 => .ok (.feq (fldB w 19 7) (fldB w 12 7) (fldB w 5 7))
  | 11 => .ok (.flt (fldB w 19 7) (fldB w 12 7) (fldB w 5 7))
  | 12 => .ok (.fle (fldB w 19 7) (fldB w 12 7) (fldB w 5 7))
  | 13 => if fld w 5 7 = 0 then .ok (.fcvtI (fldB w 19 7) (fldB w 12 7)) else .error .reservedField
  | 14 => if fld w 5 7 = 0 then .ok (.fcvtN (fldB w 19 7) (fldB w 12 7)) else .error .reservedField
  | 15 => if fld w 5 7 = 0 then .ok (.icvtF (fldB w 19 7) (fldB w 12 7)) else .error .reservedField
  | 16 => if fld w 5 7 = 0 then .ok (.ncvtF (fldB w 19 7) (fldB w 12 7)) else .error .reservedField
  | _ => .error .reservedSelector

/-- Major 18, jumps and the window stack (R111, R113). -/
def decodeMajor18 (w : Nat) : Except DecodeError Instr :=
  match fld w 0 5 with
  | 0 => if fld w 19 7 = 0 ∧ fld w 5 7 = 0 then .ok (.jr (fldB w 12 7)) else .error .reservedField
  | 1 => if fld w 5 7 = 0 then .ok (.jalr (fldB w 19 7) (fldB w 12 7)) else .error .reservedField
  | 2 => if fld w 5 21 = 0 then .ok .ret else .error .reservedField
  | 4 => if fld w 5 21 = 0 then .ok (.enter (fldB w 0 2)) else .error .reservedField
  | 5 => if fld w 5 21 = 0 then .ok (.enter (fldB w 0 2)) else .error .reservedField
  | 6 => if fld w 5 21 = 0 then .ok (.enter (fldB w 0 2)) else .error .reservedField
  | 7 => if fld w 5 21 = 0 then .ok (.enter (fldB w 0 2)) else .error .reservedField
  | 8 => if fld w 5 21 = 0 then .ok (.leave (fldB w 0 2)) else .error .reservedField
  | 9 => if fld w 5 21 = 0 then .ok (.leave (fldB w 0 2)) else .error .reservedField
  | 10 => if fld w 5 21 = 0 then .ok (.leave (fldB w 0 2)) else .error .reservedField
  | 11 => if fld w 5 21 = 0 then .ok (.leave (fldB w 0 2)) else .error .reservedField
  | _ => .error .reservedSelector

/-- Major 19, strands (R116). -/
def decodeMajor19 (w : Nat) : Except DecodeError Instr :=
  match fld w 0 5 with
  | 0 => if fld w 24 2 = 0 then .ok (.fork (fldB w 19 5) (fldB w 12 7) (fldB w 5 7)) else .error .reservedField
  | 1 => if fld w 24 2 = 0 then .ok (.forkRCarry8 (fldB w 19 5) (fldB w 12 7) (fldB w 5 7)) else .error .reservedField
  | 2 => if fld w 24 2 = 0 then .ok (.forkRCarry16 (fldB w 19 5) (fldB w 12 7) (fldB w 5 7)) else .error .reservedField
  | 3 => if fld w 24 2 = 0 then .ok (.forkRCarry24 (fldB w 19 5) (fldB w 12 7) (fldB w 5 7)) else .error .reservedField
  | 4 => if fld w 19 7 = 0 ∧ fld w 5 7 = 0 then .ok (.join (fldB w 12 7)) else .error .reservedField
  | 5 => if fld w 19 7 = 0 ∧ fld w 5 7 = 0 then .ok (.exit (fldB w 12 7)) else .error .reservedField
  | 6 => if fld w 5 21 = 0 then .ok .yield else .error .reservedField
  | _ => .error .reservedSelector

/-- Major 23, full/empty loads (R183). -/
def decodeMajor23 (w : Nat) : Except DecodeError Instr :=
  match fld w 6 2 with
  | 0 => .ok (.ldf (fldB w 19 7) (fldB w 12 7) (fldB w 8 4) (fldB w 0 6))
  | 1 => .ok (.ldt (fldB w 19 7) (fldB w 12 7) (fldB w 8 4) (fldB w 0 6))
  | _ => .error .reservedSelector

/-- Major 24, full/empty stores (R183). -/
def decodeMajor24 (w : Nat) : Except DecodeError Instr :=
  match fld w 6 2 with
  | 0 => if fld w 8 4 = 0 then .ok (.stf (fldB w 19 7) (fldB w 12 7) (fldB w 0 6)) else .error .reservedField
  | 1 => if fld w 8 4 = 0 then .ok (.stp (fldB w 19 7) (fldB w 12 7) (fldB w 0 6)) else .error .reservedField
  | 2 => if fld w 19 7 = 0 ∧ fld w 8 4 = 0 then .ok (.stempty (fldB w 12 7) (fldB w 0 6)) else .error .reservedField
  | _ => .error .reservedSelector

/-- Major 25, atomics (R184). -/
def decodeMajor25 (w : Nat) : Except DecodeError Instr :=
  match fld w 0 1 with
  | 0 => .ok (.cas (fldB w 19 7) (fldB w 12 7) (fldB w 5 7) (fldB w 1 4))
  | _ => .ok (.xadd (fldB w 19 7) (fldB w 12 7) (fldB w 5 7) (fldB w 1 4))

/-- Major 26, tag table (R186). -/
def decodeMajor26 (w : Nat) : Except DecodeError Instr :=
  match fld w 0 5 with
  | 0 => if fld w 5 7 = 0 then .ok (.tlk (fldB w 19 7) (fldB w 12 7)) else .error .reservedField
  | 1 => if fld w 23 3 = 0 then .ok (.tfill (fldB w 19 4) (fldB w 12 7) (fldB w 5 7)) else .error .reservedField
  | 2 => if fld w 19 7 = 0 ∧ fld w 5 7 = 0 then .ok (.tevict (fldB w 12 7)) else .error .reservedField
  | 3 => if fld w 19 7 = 0 ∧ fld w 5 7 = 0 then .ok (.tinval (fldB w 12 7)) else .error .reservedField
  | _ => .error .reservedSelector

/-- Major 27, windows (R192). -/
def decodeMajor27 (w : Nat) : Except DecodeError Instr :=
  match fld w 0 5 with
  | 0 => if fld w 16 3 = 0 then .ok (.wba (fldB w 19 7) (fldB w 12 4) (fldB w 5 7)) else .error .reservedField
  | 1 => if fld w 16 3 = 0 then .ok (.wrd (fldB w 19 7) (fldB w 12 4) (fldB w 5 7)) else .error .reservedField
  | 2 =>
    match fld w 23 2 with
    | 1 => if fld w 25 1 = 0 ∧ fld w 9 3 = 0 then .ok (.chkR (fldB w 19 4) (fldB w 12 7) (fldB w 5 4)) else .error .reservedField
    | 2 => if fld w 25 1 = 0 ∧ fld w 9 3 = 0 then .ok (.chkW (fldB w 19 4) (fldB w 12 7) (fldB w 5 4)) else .error .reservedField
    | 3 => if fld w 25 1 = 0 ∧ fld w 9 3 = 0 then .ok (.chkRw (fldB w 19 4) (fldB w 12 7) (fldB w 5 4)) else .error .reservedField
    | _ => .error .reservedSelector
  | _ => .error .reservedSelector

/-- Major 28, fences and barriers (R196). -/
def decodeMajor28 (w : Nat) : Except DecodeError Instr :=
  match fld w 0 5 with
  | 0 => if fld w 5 21 = 0 then .ok .fenceCore else .error .reservedField
  | 1 => if fld w 5 21 = 0 then .ok .fenceCluster else .error .reservedField
  | 2 => if fld w 5 21 = 0 then .ok .fenceDie else .error .reservedField
  | 3 => if fld w 5 21 = 0 then .ok .fencePackage else .error .reservedField
  | 4 => if fld w 5 21 = 0 then .ok .fenceGroup else .error .reservedField
  | 5 => if fld w 5 7 = 0 then .ok (.barArrive (fldB w 19 7) (fldB w 12 7)) else .error .reservedField
  | 6 => if fld w 19 7 = 0 then .ok (.barWait (fldB w 12 7) (fldB w 5 7)) else .error .reservedField
  | _ => .error .reservedSelector

/-- Major 29, rills (R322). -/
def decodeMajor29 (w : Nat) : Except DecodeError Instr :=
  match fld w 0 5 with
  | 0 => if fld w 5 14 = 0 then .ok (.rcnt (fldB w 19 7)) else .error .reservedField
  | 1 => if fld w 5 14 = 0 then .ok (.rfree (fldB w 19 7)) else .error .reservedField
  | 2 =>
    match fld w 5 7 with
    | 0 => if fld w 12 14 = 0 then .ok .reosDn else .error .reservedField
    | 1 => if fld w 12 14 = 0 then .ok .reosUp else .error .reservedField
    | _ => .error .reservedSelector
  | _ => .error .reservedSelector

/-- Major 30, engine requests (R223, R249, R283). -/
def decodeMajor30 (w : Nat) : Except DecodeError Instr :=
  match fld w 0 5 with
  | 0 =>
    if fld w 11 1 = 0 then (if fld w 19 7 = 0 ∧ fld w 5 6 = 0 then .ok (.mxIssue (fldB w 12 7)) else .error .reservedField)
    else if fld w 19 7 = 0 ∧ fld w 10 1 = 0 then .ok (.mxIssueMeta (fldB w 12 7) (fldB w 5 5)) else .error .reservedField
  | 1 => if fld w 5 21 = 0 then .ok .mxWait else .error .reservedField
  | 2 => if fld w 5 21 = 0 then .ok .vxSync else .error .reservedField
  | 3 => if fld w 19 7 = 0 then .ok (.cpReq (fldB w 12 7) (fldB w 5 7)) else .error .reservedField
  | _ => .error .reservedSelector

/-- Major 31, tasks (R346). -/
def decodeMajor31 (w : Nat) : Except DecodeError Instr :=
  match fld w 0 5 with
  | 0 => if fld w 9 3 = 0 then .ok (.tspawn (fldB w 19 7) (fldB w 12 7) (fldB w 5 4)) else .error .reservedField
  | 1 => if fld w 5 7 = 0 then .ok (.tstat (fldB w 19 7) (fldB w 12 7)) else .error .reservedField
  | _ => .error .reservedSelector

/-- Major 32, system (R121). -/
def decodeMajor32 (w : Nat) : Except DecodeError Instr :=
  match fld w 0 5 with
  | 0 => if fld w 5 21 = 0 then .ok .nop else .error .reservedField
  | 1 => if fld w 19 7 = 0 then .ok (.trap (fldB w 12 7) (fldB w 5 7)) else .error .reservedField
  | 2 => if fld w 5 21 = 0 then .ok .brk else .error .reservedField
  | 3 => if fld w 12 7 = 0 then .ok (.mfs (fldB w 19 7) (fldB w 5 7)) else .error .reservedField
  | 4 => if fld w 19 7 = 0 then .ok (.mts (fldB w 12 7) (fldB w 5 7)) else .error .reservedField
  | _ => .error .reservedSelector

/-- Major 33, vector integers (R226). -/
def decodeMajor33 (w : Nat) : Except DecodeError Instr :=
  match fld w 3 5 with
  | 0 => .ok (.vadd (fldB w 20 6) (fldB w 14 6) (fldB w 8 6) (fldB w 0 3))
  | 1 => .ok (.vsub (fldB w 20 6) (fldB w 14 6) (fldB w 8 6) (fldB w 0 3))
  | 2 => .ok (.vmul (fldB w 20 6) (fldB w 14 6) (fldB w 8 6) (fldB w 0 3))
  | 3 => .ok (.vmulh (fldB w 20 6) (fldB w 14 6) (fldB w 8 6) (fldB w 0 3))
  | 4 => .ok (.vmin (fldB w 20 6) (fldB w 14 6) (fldB w 8 6) (fldB w 0 3))
  | 5 => .ok (.vmax (fldB w 20 6) (fldB w 14 6) (fldB w 8 6) (fldB w 0 3))
  | 6 => .ok (.vminn (fldB w 20 6) (fldB w 14 6) (fldB w 8 6) (fldB w 0 3))
  | 7 => .ok (.vmaxn (fldB w 20 6) (fldB w 14 6) (fldB w 8 6) (fldB w 0 3))
  | 8 => .ok (.vadds (fldB w 20 6) (fldB w 14 6) (fldB w 8 6) (fldB w 0 3))
  | 9 => .ok (.vsubs (fldB w 20 6) (fldB w 14 6) (fldB w 8 6) (fldB w 0 3))
  | 10 => .ok (.vaddsn (fldB w 20 6) (fldB w 14 6) (fldB w 8 6) (fldB w 0 3))
  | 11 => .ok (.vsubsn (fldB w 20 6) (fldB w 14 6) (fldB w 8 6) (fldB w 0 3))
  | 12 => if fld w 8 6 = 0 then .ok (.vabs (fldB w 20 6) (fldB w 14 6) (fldB w 0 3)) else .error .reservedField
  | 13 => if fld w 8 6 = 0 then .ok (.vneg (fldB w 20 6) (fldB w 14 6) (fldB w 0 3)) else .error .reservedField
  | 14 => .ok (.vshl (fldB w 20 6) (fldB w 14 6) (fldB w 8 6) (fldB w 0 3))
  | 15 => .ok (.vshr (fldB w 20 6) (fldB w 14 6) (fldB w 8 6) (fldB w 0 3))
  | 16 => .ok (.vsra (fldB w 20 6) (fldB w 14 6) (fldB w 8 6) (fldB w 0 3))
  | 17 => .ok (.vdot (fldB w 20 6) (fldB w 14 6) (fldB w 8 6) (fldB w 0 3))
  | 18 => .ok (.vwadd (fldB w 20 6) (fldB w 14 6) (fldB w 8 6) (fldB w 0 3))
  | 19 => .ok (.vwmul (fldB w 20 6) (fldB w 14 6) (fldB w 8 6) (fldB w 0 3))
  | _ => .error .reservedSelector

/-- Major 34, vector floats (R228). -/
def decodeMajor34 (w : Nat) : Except DecodeError Instr :=
  match fld w 3 5 with
  | 0 => .ok (.vfadd (fldB w 20 6) (fldB w 14 6) (fldB w 8 6) (fldB w 0 3))
  | 1 => .ok (.vfsub (fldB w 20 6) (fldB w 14 6) (fldB w 8 6) (fldB w 0 3))
  | 2 => .ok (.vfmul (fldB w 20 6) (fldB w 14 6) (fldB w 8 6) (fldB w 0 3))
  | 3 => .ok (.vfdiv (fldB w 20 6) (fldB w 14 6) (fldB w 8 6) (fldB w 0 3))
  | 4 => .ok (.vfmac (fldB w 20 6) (fldB w 14 6) (fldB w 8 6) (fldB w 0 3))
  | 5 => .ok (.vfmin (fldB w 20 6) (fldB w 14 6) (fldB w 8 6) (fldB w 0 3))
  | 6 => .ok (.vfmax (fldB w 20 6) (fldB w 14 6) (fldB w 8 6) (fldB w 0 3))
  | 7 => if fld w 8 6 = 0 then .ok (.vfabs (fldB w 20 6) (fldB w 14 6) (fldB w 0 3)) else .error .reservedField
  | 8 => if fld w 8 6 = 0 then .ok (.vfneg (fldB w 20 6) (fldB w 14 6) (fldB w 0 3)) else .error .reservedField
  | 9 => if fld w 8 6 = 0 then .ok (.vfsqrt (fldB w 20 6) (fldB w 14 6) (fldB w 0 3)) else .error .reservedField
  | 10 => .ok (.vfscl (fldB w 20 6) (fldB w 14 6) (fldB w 8 6) (fldB w 0 3))
  | _ => .error .reservedSelector

/-- Major 35, vector compare and logic (R230). -/
def decodeMajor35 (w : Nat) : Except DecodeError Instr :=
  match fld w 3 5 with
  | 0 => .ok (.vceq (fldB w 20 6) (fldB w 14 6) (fldB w 8 6) (fldB w 0 3))
  | 1 => .ok (.vclt (fldB w 20 6) (fldB w 14 6) (fldB w 8 6) (fldB w 0 3))
  | 2 => .ok (.vcle (fldB w 20 6) (fldB w 14 6) (fldB w 8 6) (fldB w 0 3))
  | 3 => .ok (.vcltn (fldB w 20 6) (fldB w 14 6) (fldB w 8 6) (fldB w 0 3))
  | 4 => if fld w 0 3 = 0 then .ok (.vand (fldB w 20 6) (fldB w 14 6) (fldB w 8 6)) else .error .reservedField
  | 5 => if fld w 0 3 = 0 then .ok (.vor (fldB w 20 6) (fldB w 14 6) (fldB w 8 6)) else .error .reservedField
  | 6 => if fld w 0 3 = 0 then .ok (.vxor (fldB w 20 6) (fldB w 14 6) (fldB w 8 6)) else .error .reservedField
  | 7 => if fld w 0 3 = 0 then .ok (.vandn (fldB w 20 6) (fldB w 14 6) (fldB w 8 6)) else .error .reservedField
  | 8 => if fld w 0 3 = 0 then .ok (.vsel (fldB w 20 6) (fldB w 14 6) (fldB w 8 6)) else .error .reservedField
  | _ => .error .reservedSelector

/-- Major 36, vector conversion (R232 to R238). -/
def decodeMajor36 (w : Nat) : Except DecodeError Instr :=
  match fld w 3 5 with
  | 0 => .ok (.vcvt (fldB w 20 6) (fldB w 14 6) (fldB w 13 1) (fldB w 11 2) (fldB w 8 3) (fldB w 0 3))
  | 1 => .ok (.vcvtn (fldB w 20 6) (fldB w 14 6) (fldB w 13 1) (fldB w 11 2) (fldB w 8 3) (fldB w 0 3))
  | 2 => if fld w 11 2 = 0 then .ok (.vcvt4 (fldB w 20 6) (fldB w 14 6) (fldB w 13 1) (fldB w 8 3) (fldB w 0 3)) else .error .reservedField
  | 3 => if fld w 0 3 = 0 then .ok (.vpack4 (fldB w 20 6) (fldB w 14 6) (fldB w 8 6)) else .error .reservedField
  | 4 => if fld w 11 3 = 0 then .ok (.vunpk4 (fldB w 20 6) (fldB w 14 6) (fldB w 8 3) (fldB w 0 3)) else .error .reservedField
  | 5 => .ok (.vquant (fldB w 25 1) (fldB w 20 5) (fldB w 14 6) (fldB w 13 1) (fldB w 8 5) (fldB w 0 3))
  | 6 => if fld w 25 1 = 0 ∧ fld w 13 1 = 0 then .ok (.vprune24 (fldB w 20 5) (fldB w 14 6) (fldB w 8 5) (fldB w 0 3)) else .error .reservedField
  | 7 => if fld w 25 1 = 0 ∧ fld w 13 1 = 0 then .ok (.vprune48 (fldB w 20 5) (fldB w 14 6) (fldB w 8 5) (fldB w 0 3)) else .error .reservedField
  | _ => .error .reservedSelector

/-- Major 37, reductions and permutes (R239 to R242). -/
def decodeMajor37 (w : Nat) : Except DecodeError Instr :=
  match fld w 3 5 with
  | 0 => if fld w 8 6 = 0 then .ok (.vradd (fldB w 20 6) (fldB w 14 6) (fldB w 0 3)) else .error .reservedField
  | 1 => if fld w 8 6 = 0 then .ok (.vrmax (fldB w 20 6) (fldB w 14 6) (fldB w 0 3)) else .error .reservedField
  | 2 => if fld w 8 6 = 0 then .ok (.vrmin (fldB w 20 6) (fldB w 14 6) (fldB w 0 3)) else .error .reservedField
  | 3 => .ok (.vperm (fldB w 20 6) (fldB w 14 6) (fldB w 8 6) (fldB w 0 3))
  | 4 => .ok (.vrot (fldB w 20 6) (fldB w 14 6) (fldB w 8 6) (fldB w 0 3))
  | 5 => .ok (.vtld (fldB w 20 6) (fldB w 14 6) (fldB w 8 6) (fldB w 0 3))
  | 6 => if fld w 8 6 = 0 ∧ fld w 0 3 = 0 then .ok (.vswap (fldB w 20 6) (fldB w 14 6)) else .error .reservedField
  | _ => .error .reservedSelector

/-- Major 38, vector memory and moves (R243 to R245). -/
def decodeMajor38 (w : Nat) : Except DecodeError Instr :=
  match fld w 3 5 with
  | 0 => if fld w 8 5 = 0 ∧ fld w 0 3 = 0 then .ok (.vld (fldB w 20 6) (fldB w 13 7)) else .error .reservedField
  | 1 => if fld w 8 5 = 0 ∧ fld w 0 3 = 0 then .ok (.vst (fldB w 20 6) (fldB w 13 7)) else .error .reservedField
  | 2 => .ok (.vmovg (fldB w 19 7) (fldB w 13 6) (fldB w 8 5) (fldB w 0 3))
  | 3 => .ok (.vmovv (fldB w 20 6) (fldB w 13 7) (fldB w 8 5) (fldB w 0 3))
  | 4 => if fld w 20 3 = 0 ∧ fld w 8 5 = 0 ∧ fld w 0 3 = 0 then .ok (.vmovx (fldB w 23 3) (fldB w 13 7)) else .error .reservedField
  | 5 => if fld w 8 8 = 0 ∧ fld w 0 3 = 0 then .ok (.vmovfx (fldB w 19 7) (fldB w 16 3)) else .error .reservedField
  | _ => .error .reservedSelector

/-- Major 39, distribution arithmetic (R140). -/
def decodeMajor39 (w : Nat) : Except DecodeError Instr :=
  match fld w 0 6 with
  | 0 => if fld w 10 7 = 0 then .ok (.dadd (fldB w 23 3) (fldB w 20 3) (fldB w 17 3) (fldB w 6 4)) else .error .reservedField
  | 1 => if fld w 10 7 = 0 then .ok (.dsub (fldB w 23 3) (fldB w 20 3) (fldB w 17 3) (fldB w 6 4)) else .error .reservedField
  | 2 => if fld w 10 7 = 0 then .ok (.dmul (fldB w 23 3) (fldB w 20 3) (fldB w 17 3) (fldB w 6 4)) else .error .reservedField
  | 3 => if fld w 10 7 = 0 then .ok (.dmax (fldB w 23 3) (fldB w 20 3) (fldB w 17 3) (fldB w 6 4)) else .error .reservedField
  | 4 => if fld w 10 7 = 0 then .ok (.dmin (fldB w 23 3) (fldB w 20 3) (fldB w 17 3) (fldB w 6 4)) else .error .reservedField
  | 5 => if fld w 10 10 = 0 then .ok (.dneg (fldB w 23 3) (fldB w 20 3) (fldB w 6 4)) else .error .reservedField
  | _ => .error .reservedSelector

/-- Major 40, distribution load and store (R142). -/
def decodeMajor40 (w : Nat) : Except DecodeError Instr :=
  match fld w 0 6 with
  | 0 => if fld w 17 6 = 0 then .ok (.dld (fldB w 23 3) (fldB w 10 7) (fldB w 6 4)) else .error .reservedField
  | 1 => if fld w 23 3 = 0 ∧ fld w 17 3 = 0 ∧ fld w 6 4 = 0 then .ok (.dst (fldB w 20 3) (fldB w 10 7)) else .error .reservedField
  | 2 => if fld w 17 6 = 0 then .ok (.dmk (fldB w 23 3) (fldB w 10 7) (fldB w 6 4)) else .error .reservedField
  | 3 => if fld w 17 3 = 0 then .ok (.dtag (fldB w 23 3) (fldB w 20 3) (fldB w 10 7) (fldB w 6 4)) else .error .reservedField
  | 4 => if fld w 17 6 = 0 then .ok (.dsplat (fldB w 23 3) (fldB w 10 7) (fldB w 6 4)) else .error .reservedField
  | _ => .error .reservedSelector

/-- Major 41, extraction (R153). -/
def decodeMajor41 (w : Nat) : Except DecodeError Instr :=
  match fld w 0 6 with
  | 0 => if fld w 10 10 = 0 then .ok (.dmomV (fldB w 23 3) (fldB w 20 3) (fldB w 6 4) (fldB w 0 2)) else .error .reservedField
  | 1 => if fld w 10 10 = 0 then .ok (.dmomV (fldB w 23 3) (fldB w 20 3) (fldB w 6 4) (fldB w 0 2)) else .error .reservedField
  | 2 => if fld w 10 10 = 0 then .ok (.dmomV (fldB w 23 3) (fldB w 20 3) (fldB w 6 4) (fldB w 0 2)) else .error .reservedField
  | 3 => if fld w 10 10 = 0 then .ok (.dmomV (fldB w 23 3) (fldB w 20 3) (fldB w 6 4) (fldB w 0 2)) else .error .reservedField
  | 4 => if fld w 23 3 = 0 ∧ fld w 17 3 = 0 then .ok (.dmomG (fldB w 20 3) (fldB w 10 7) (fldB w 6 4) (fldB w 0 2)) else .error .reservedField
  | 5 => if fld w 23 3 = 0 ∧ fld w 17 3 = 0 then .ok (.dmomG (fldB w 20 3) (fldB w 10 7) (fldB w 6 4) (fldB w 0 2)) else .error .reservedField
  | 6 => if fld w 23 3 = 0 ∧ fld w 17 3 = 0 then .ok (.dmomG (fldB w 20 3) (fldB w 10 7) (fldB w 6 4) (fldB w 0 2)) else .error .reservedField
  | 7 => if fld w 23 3 = 0 ∧ fld w 17 3 = 0 then .ok (.dmomG (fldB w 20 3) (fldB w 10 7) (fldB w 6 4) (fldB w 0 2)) else .error .reservedField
  | 8 => if fld w 17 3 = 0 then .ok (.dqntV (fldB w 23 3) (fldB w 20 3) (fldB w 10 7) (fldB w 6 4)) else .error .reservedField
  | 9 => if fld w 23 3 = 0 ∧ fld w 17 3 = 0 then .ok (.dqntG (fldB w 20 3) (fldB w 10 7) (fldB w 6 4)) else .error .reservedField
  | _ => .error .reservedSelector

/-- Major 42, copy channels (R287). -/
def decodeMajor42 (w : Nat) : Except DecodeError Instr :=
  match fld w 0 5 with
  | 0 => if fld w 19 7 = 0 then .ok (.cpStart (fldB w 12 7) (fldB w 5 7)) else .error .reservedField
  | 1 => if fld w 12 14 = 0 then .ok (.cpAbort (fldB w 5 7)) else .error .reservedField
  | 2 => if fld w 12 14 = 0 then .ok (.cpWait (fldB w 5 7)) else .error .reservedField
  | _ => .error .reservedSelector

/-- Major 43, copy status (R287). -/
def decodeMajor43 (w : Nat) : Except DecodeError Instr :=
  match fld w 0 5 with
  | 0 => if fld w 12 7 = 0 then .ok (.cpStatSt (fldB w 19 7) (fldB w 5 7)) else .error .reservedField
  | 1 => if fld w 12 7 = 0 then .ok (.cpStatWm (fldB w 19 7) (fldB w 5 7)) else .error .reservedField
  | 2 => if fld w 12 7 = 0 then .ok (.cpStatBc (fldB w 19 7) (fldB w 5 7)) else .error .reservedField
  | 3 => if fld w 12 7 = 0 then .ok (.cpStatNb (fldB w 19 7) (fldB w 5 7)) else .error .reservedField
  | _ => .error .reservedSelector

/-- Major 44, events and mailbox (R287). -/
def decodeMajor44 (w : Nat) : Except DecodeError Instr :=
  match fld w 0 5 with
  | 0 => if fld w 17 2 = 0 ∧ fld w 5 7 = 0 then .ok (.cpMbox (fldB w 19 7) (fldB w 12 5)) else .error .reservedField
  | 1 => if fld w 17 2 = 0 ∧ fld w 5 7 = 0 then .ok (.cpEv (fldB w 19 7) (fldB w 12 5)) else .error .reservedField
  | _ => .error .reservedSelector

/-- Major 45, halt (R287). -/
def decodeMajor45 (w : Nat) : Except DecodeError Instr :=
  match fld w 0 5 with
  | 0 => if fld w 5 21 = 0 then .ok .cpHalt else .error .reservedField
  | _ => .error .reservedSelector

/-- Major 62, hint words (R88). -/
def decodeMajor62 (w : Nat) : Except DecodeError Instr :=
  match fld w 22 4 with
  | 1 => .ok (.immHi (fldB w 0 22))
  | 2 => if fld w 0 22 = 0 then .ok .rlx else .error .reservedField
  | 3 => if fld w 0 6 = 0 then .ok (.rep (fldB w 16 6) (fldB w 9 7) (fldB w 6 3)) else .error .reservedField
  | 5 => if fld w 0 22 = 0 then .ok .ckpt else .error .reservedField
  | _ => .error .reservedSelector

/-- The decoder of one word (R73 to R77, R88): the instruction, or why the word is none. -/
def decodeWord (w : Nat) : Except DecodeError Instr :=
  match fld w 26 6 with
  | 1 => decodeMajor1 w
  | 2 => decodeMajor2 w
  | 3 => decodeMajor3 w
  | 4 => .ok (.addi (fldB w 19 7) (fldB w 12 7) (fldB w 0 12))
  | 5 => .ok (.andi (fldB w 19 7) (fldB w 12 7) (fldB w 0 12))
  | 6 => .ok (.ori (fldB w 19 7) (fldB w 12 7) (fldB w 0 12))
  | 7 => .ok (.xori (fldB w 19 7) (fldB w 12 7) (fldB w 0 12))
  | 8 => decodeMajor8 w
  | 9 => .ok (.slti (fldB w 19 7) (fldB w 12 7) (fldB w 0 12))
  | 10 => .ok (.sltni (fldB w 19 7) (fldB w 12 7) (fldB w 0 12))
  | 11 => .ok (.cmp (fldB w 19 7) (fldB w 12 7) (fldB w 8 4) (fldB w 3 5) (fldB w 1 2) (fldB w 0 1))
  | 12 => .ok (.cmpi (fldB w 19 7) (fldB w 12 7) (fldB w 8 4) (fldB w 3 5) (fldB w 1 2) (fldB w 0 1))
  | 13 => decodeMajor13 w
  | 14 => decodeMajor14 w
  | 15 => .ok (.br (fldB w 0 26))
  | 16 => .ok (.call (fldB w 0 26))
  | 17 => if fld w 20 1 = 1 then .ok (.bp (fldB w 21 5) (fldB w 0 20)) else .ok (.bpn (fldB w 21 5) (fldB w 0 20))
  | 18 => decodeMajor18 w
  | 19 => decodeMajor19 w
  | 20 => .ok (.ld (fldB w 19 7) (fldB w 12 7) (fldB w 8 4) (fldB w 6 2) (fldB w 0 6))
  | 21 => .ok (.lds (fldB w 19 7) (fldB w 12 7) (fldB w 8 4) (fldB w 6 2) (fldB w 0 6))
  | 22 => if fld w 8 4 = 0 then .ok (.st (fldB w 19 7) (fldB w 12 7) (fldB w 6 2) (fldB w 0 6)) else .error .reservedField
  | 23 => decodeMajor23 w
  | 24 => decodeMajor24 w
  | 25 => decodeMajor25 w
  | 26 => decodeMajor26 w
  | 27 => decodeMajor27 w
  | 28 => decodeMajor28 w
  | 29 => decodeMajor29 w
  | 30 => decodeMajor30 w
  | 31 => decodeMajor31 w
  | 32 => decodeMajor32 w
  | 33 => decodeMajor33 w
  | 34 => decodeMajor34 w
  | 35 => decodeMajor35 w
  | 36 => decodeMajor36 w
  | 37 => decodeMajor37 w
  | 38 => decodeMajor38 w
  | 39 => decodeMajor39 w
  | 40 => decodeMajor40 w
  | 41 => decodeMajor41 w
  | 42 => decodeMajor42 w
  | 43 => decodeMajor43 w
  | 44 => decodeMajor44 w
  | 45 => decodeMajor45 w
  | 62 => decodeMajor62 w
  | _ => .error .reservedMajor

/-- A word from its fixed bits and its fields, each with the position of its low bit. -/
def encF (base : Nat) : List (Nat × Nat) → Nat
  | [] => base
  | (lo, x) :: r => x * 2 ^ lo + encF base r

/-- The encoder: the word of an instruction, from the same tables (R74, R76); none for a step that has no word. -/
def encode : Instr → Option Nat
  | .add d a b => some (encF 0x4000000 [(19, d.toNat), (12, a.toNat), (5, b.toNat)])
  | .sub d a b => some (encF 0x4000001 [(19, d.toNat), (12, a.toNat), (5, b.toNat)])
  | .and d a b => some (encF 0x4000002 [(19, d.toNat), (12, a.toNat), (5, b.toNat)])
  | .or d a b => some (encF 0x4000003 [(19, d.toNat), (12, a.toNat), (5, b.toNat)])
  | .xor d a b => some (encF 0x4000004 [(19, d.toNat), (12, a.toNat), (5, b.toNat)])
  | .andn d a b => some (encF 0x4000005 [(19, d.toNat), (12, a.toNat), (5, b.toNat)])
  | .orn d a b => some (encF 0x4000006 [(19, d.toNat), (12, a.toNat), (5, b.toNat)])
  | .sll d a b => some (encF 0x4000007 [(19, d.toNat), (12, a.toNat), (5, b.toNat)])
  | .srl d a b => some (encF 0x4000008 [(19, d.toNat), (12, a.toNat), (5, b.toNat)])
  | .sra d a b => some (encF 0x4000009 [(19, d.toNat), (12, a.toNat), (5, b.toNat)])
  | .slt d a b => some (encF 0x400000a [(19, d.toNat), (12, a.toNat), (5, b.toNat)])
  | .sltn d a b => some (encF 0x400000b [(19, d.toNat), (12, a.toNat), (5, b.toNat)])
  | .min d a b => some (encF 0x400000c [(19, d.toNat), (12, a.toNat), (5, b.toNat)])
  | .max d a b => some (encF 0x400000d [(19, d.toNat), (12, a.toNat), (5, b.toNat)])
  | .minn d a b => some (encF 0x400000e [(19, d.toNat), (12, a.toNat), (5, b.toNat)])
  | .maxn d a b => some (encF 0x400000f [(19, d.toNat), (12, a.toNat), (5, b.toNat)])
  | .adds d a b => some (encF 0x4000010 [(19, d.toNat), (12, a.toNat), (5, b.toNat)])
  | .subs d a b => some (encF 0x4000011 [(19, d.toNat), (12, a.toNat), (5, b.toNat)])
  | .addsn d a b => some (encF 0x4000012 [(19, d.toNat), (12, a.toNat), (5, b.toNat)])
  | .subsn d a b => some (encF 0x4000013 [(19, d.toNat), (12, a.toNat), (5, b.toNat)])
  | .clz d a => some (encF 0x8000000 [(19, d.toNat), (12, a.toNat)])
  | .ctz d a => some (encF 0x8000001 [(19, d.toNat), (12, a.toNat)])
  | .popc d a => some (encF 0x8000002 [(19, d.toNat), (12, a.toNat)])
  | .brev d a => some (encF 0x8000003 [(19, d.toNat), (12, a.toNat)])
  | .bswap d a => some (encF 0x8000004 [(19, d.toNat), (12, a.toNat)])
  | .rol d a b => some (encF 0x8000005 [(19, d.toNat), (12, a.toNat), (5, b.toNat)])
  | .ror d a b => some (encF 0x8000006 [(19, d.toNat), (12, a.toNat), (5, b.toNat)])
  | .sext d a w => some (encF 0x8000007 [(19, d.toNat), (12, a.toNat), (5, w.toNat)])
  | .zext d a w => some (encF 0x8000008 [(19, d.toNat), (12, a.toNat), (5, w.toNat)])
  | .mul d a b k => some (encF 0xc000000 [(19, d.toNat), (12, a.toNat), (5, b.toNat), (1, k.toNat)])
  | .div d a b k => some (encF 0xc000001 [(19, d.toNat), (12, a.toNat), (5, b.toNat), (1, k.toNat)])
  | .addi d a i => some (encF 0x10000000 [(19, d.toNat), (12, a.toNat), (0, i.toNat)])
  | .andi d a i => some (encF 0x14000000 [(19, d.toNat), (12, a.toNat), (0, i.toNat)])
  | .ori d a i => some (encF 0x18000000 [(19, d.toNat), (12, a.toNat), (0, i.toNat)])
  | .xori d a i => some (encF 0x1c000000 [(19, d.toNat), (12, a.toNat), (0, i.toNat)])
  | .slli d a n => some (encF 0x20000000 [(19, d.toNat), (12, a.toNat), (0, n.toNat)])
  | .srli d a n => some (encF 0x20000040 [(19, d.toNat), (12, a.toNat), (0, n.toNat)])
  | .srai d a n => some (encF 0x20000080 [(19, d.toNat), (12, a.toNat), (0, n.toNat)])
  | .rori d a n => some (encF 0x200000c0 [(19, d.toNat), (12, a.toNat), (0, n.toNat)])
  | .slti d a i => some (encF 0x24000000 [(19, d.toNat), (12, a.toNat), (0, i.toNat)])
  | .sltni d a i => some (encF 0x28000000 [(19, d.toNat), (12, a.toNat), (0, i.toNat)])
  | .cmp a b c p s e => some (encF 0x2c000000 [(19, a.toNat), (12, b.toNat), (8, c.toNat), (3, p.toNat), (1, s.toNat), (0, e.toNat)])
  | .cmpi a i c p s e => some (encF 0x30000000 [(19, a.toNat), (12, i.toNat), (8, c.toNat), (3, p.toNat), (1, s.toNat), (0, e.toNat)])
  | .pand d a b => some (encF 0x34000000 [(19, d.toNat), (12, a.toNat), (5, b.toNat)])
  | .por d a b => some (encF 0x34000001 [(19, d.toNat), (12, a.toNat), (5, b.toNat)])
  | .pxor d a b => some (encF 0x34000002 [(19, d.toNat), (12, a.toNat), (5, b.toNat)])
  | .pandn d a b => some (encF 0x34000003 [(19, d.toNat), (12, a.toNat), (5, b.toNat)])
  | .porn d a b => some (encF 0x34000004 [(19, d.toNat), (12, a.toNat), (5, b.toNat)])
  | .pnot d a => some (encF 0x34000005 [(19, d.toNat), (12, a.toNat)])
  | .mfp d => some (encF 0x34000006 [(19, d.toNat)])
  | .mtp a b => some (encF 0x34000007 [(12, a.toNat), (5, b.toNat)])
  | .sel d a b n => some (encF 0x34000010 [(19, d.toNat), (12, a.toNat), (5, b.toNat), (0, n.toNat)])
  | .fadd d a b => some (encF 0x38000000 [(19, d.toNat), (12, a.toNat), (5, b.toNat)])
  | .fsub d a b => some (encF 0x38000001 [(19, d.toNat), (12, a.toNat), (5, b.toNat)])
  | .fmul d a b => some (encF 0x38000002 [(19, d.toNat), (12, a.toNat), (5, b.toNat)])
  | .fdiv d a b => some (encF 0x38000003 [(19, d.toNat), (12, a.toNat), (5, b.toNat)])
  | .fmac d a b => some (encF 0x38000004 [(19, d.toNat), (12, a.toNat), (5, b.toNat)])
  | .fsqrt d a => some (encF 0x38000005 [(19, d.toNat), (12, a.toNat)])
  | .fmin d a b => some (encF 0x38000006 [(19, d.toNat), (12, a.toNat), (5, b.toNat)])
  | .fmax d a b => some (encF 0x38000007 [(19, d.toNat), (12, a.toNat), (5, b.toNat)])
  | .fabs d a => some (encF 0x38000008 [(19, d.toNat), (12, a.toNat)])
  | .fneg d a => some (encF 0x38000009 [(19, d.toNat), (12, a.toNat)])
  | .feq d a b => some (encF 0x3800000a [(19, d.toNat), (12, a.toNat), (5, b.toNat)])
  | .flt d a b => some (encF 0x3800000b [(19, d.toNat), (12, a.toNat), (5, b.toNat)])
  | .fle d a b => some (encF 0x3800000c [(19, d.toNat), (12, a.toNat), (5, b.toNat)])
  | .fcvtI d a => some (encF 0x3800000d [(19, d.toNat), (12, a.toNat)])
  | .fcvtN d a => some (encF 0x3800000e [(19, d.toNat), (12, a.toNat)])
  | .icvtF d a => some (encF 0x3800000f [(19, d.toNat), (12, a.toNat)])
  | .ncvtF d a => some (encF 0x38000010 [(19, d.toNat), (12, a.toNat)])
  | .br o => some (encF 0x3c000000 [(0, o.toNat)])
  | .call o => some (encF 0x40000000 [(0, o.toNat)])
  | .bp p o => some (encF 0x44100000 [(21, p.toNat), (0, o.toNat)])
  | .bpn p o => some (encF 0x44000000 [(21, p.toNat), (0, o.toNat)])
  | .jr a => some (encF 0x48000000 [(12, a.toNat)])
  | .jalr d a => some (encF 0x48000001 [(19, d.toNat), (12, a.toNat)])
  | .ret => some (encF 0x48000002 [])
  | .enter k => some (encF 0x48000004 [(0, k.toNat)])
  | .leave k => some (encF 0x48000008 [(0, k.toNat)])
  | .fork p a o => some (encF 0x4c000000 [(19, p.toNat), (12, a.toNat), (5, o.toNat)])
  | .forkRCarry8 p a o => some (encF 0x4c000001 [(19, p.toNat), (12, a.toNat), (5, o.toNat)])
  | .forkRCarry16 p a o => some (encF 0x4c000002 [(19, p.toNat), (12, a.toNat), (5, o.toNat)])
  | .forkRCarry24 p a o => some (encF 0x4c000003 [(19, p.toNat), (12, a.toNat), (5, o.toNat)])
  | .join a => some (encF 0x4c000004 [(12, a.toNat)])
  | .exit a => some (encF 0x4c000005 [(12, a.toNat)])
  | .yield => some (encF 0x4c000006 [])
  | .ld d b k z o => some (encF 0x50000000 [(19, d.toNat), (12, b.toNat), (8, k.toNat), (6, z.toNat), (0, o.toNat)])
  | .lds d b k z o => some (encF 0x54000000 [(19, d.toNat), (12, b.toNat), (8, k.toNat), (6, z.toNat), (0, o.toNat)])
  | .st s b z o => some (encF 0x58000000 [(19, s.toNat), (12, b.toNat), (6, z.toNat), (0, o.toNat)])
  | .ldf d b k o => some (encF 0x5c000000 [(19, d.toNat), (12, b.toNat), (8, k.toNat), (0, o.toNat)])
  | .ldt d b k o => some (encF 0x5c000040 [(19, d.toNat), (12, b.toNat), (8, k.toNat), (0, o.toNat)])
  | .stf s b o => some (encF 0x60000000 [(19, s.toNat), (12, b.toNat), (0, o.toNat)])
  | .stp s b o => some (encF 0x60000040 [(19, s.toNat), (12, b.toNat), (0, o.toNat)])
  | .stempty b o => some (encF 0x60000080 [(12, b.toNat), (0, o.toNat)])
  | .cas d a b k => some (encF 0x64000000 [(19, d.toNat), (12, a.toNat), (5, b.toNat), (1, k.toNat)])
  | .xadd d a b k => some (encF 0x64000001 [(19, d.toNat), (12, a.toNat), (5, b.toNat), (1, k.toNat)])
  | .tlk d a => some (encF 0x68000000 [(19, d.toNat), (12, a.toNat)])
  | .tfill n a b => some (encF 0x68000001 [(19, n.toNat), (12, a.toNat), (5, b.toNat)])
  | .tevict a => some (encF 0x68000002 [(12, a.toNat)])
  | .tinval a => some (encF 0x68000003 [(12, a.toNat)])
  | .wba d n b => some (encF 0x6c000000 [(19, d.toNat), (12, n.toNat), (5, b.toNat)])
  | .wrd d n s => some (encF 0x6c000001 [(19, d.toNat), (12, n.toNat), (5, s.toNat)])
  | .chkR n a c => some (encF 0x6c800002 [(19, n.toNat), (12, a.toNat), (5, c.toNat)])
  | .chkW n a c => some (encF 0x6d000002 [(19, n.toNat), (12, a.toNat), (5, c.toNat)])
  | .chkRw n a c => some (encF 0x6d800002 [(19, n.toNat), (12, a.toNat), (5, c.toNat)])
  | .fenceCore => some (encF 0x70000000 [])
  | .fenceCluster => some (encF 0x70000001 [])
  | .fenceDie => some (encF 0x70000002 [])
  | .fencePackage => some (encF 0x70000003 [])
  | .fenceGroup => some (encF 0x70000004 [])
  | .barArrive d a => some (encF 0x70000005 [(19, d.toNat), (12, a.toNat)])
  | .barWait a b => some (encF 0x70000006 [(12, a.toNat), (5, b.toNat)])
  | .rcnt d => some (encF 0x74000000 [(19, d.toNat)])
  | .rfree d => some (encF 0x74000001 [(19, d.toNat)])
  | .reosDn => some (encF 0x74000002 [])
  | .reosUp => some (encF 0x74000022 [])
  | .mxIssue a => some (encF 0x78000000 [(12, a.toNat)])
  | .mxIssueMeta a v => some (encF 0x78000800 [(12, a.toNat), (5, v.toNat)])
  | .mxWait => some (encF 0x78000001 [])
  | .vxSync => some (encF 0x78000002 [])
  | .cpReq a b => some (encF 0x78000003 [(12, a.toNat), (5, b.toNat)])
  | .tspawn d a n => some (encF 0x7c000000 [(19, d.toNat), (12, a.toNat), (5, n.toNat)])
  | .tstat d a => some (encF 0x7c000001 [(19, d.toNat), (12, a.toNat)])
  | .nop => some (encF 0x80000000 [])
  | .trap a c => some (encF 0x80000001 [(12, a.toNat), (5, c.toNat)])
  | .brk => some (encF 0x80000002 [])
  | .mfs d n => some (encF 0x80000003 [(19, d.toNat), (5, n.toNat)])
  | .mts a n => some (encF 0x80000004 [(12, a.toNat), (5, n.toNat)])
  | .vadd d a b t => some (encF 0x84000000 [(20, d.toNat), (14, a.toNat), (8, b.toNat), (0, t.toNat)])
  | .vsub d a b t => some (encF 0x84000008 [(20, d.toNat), (14, a.toNat), (8, b.toNat), (0, t.toNat)])
  | .vmul d a b t => some (encF 0x84000010 [(20, d.toNat), (14, a.toNat), (8, b.toNat), (0, t.toNat)])
  | .vmulh d a b t => some (encF 0x84000018 [(20, d.toNat), (14, a.toNat), (8, b.toNat), (0, t.toNat)])
  | .vmin d a b t => some (encF 0x84000020 [(20, d.toNat), (14, a.toNat), (8, b.toNat), (0, t.toNat)])
  | .vmax d a b t => some (encF 0x84000028 [(20, d.toNat), (14, a.toNat), (8, b.toNat), (0, t.toNat)])
  | .vminn d a b t => some (encF 0x84000030 [(20, d.toNat), (14, a.toNat), (8, b.toNat), (0, t.toNat)])
  | .vmaxn d a b t => some (encF 0x84000038 [(20, d.toNat), (14, a.toNat), (8, b.toNat), (0, t.toNat)])
  | .vadds d a b t => some (encF 0x84000040 [(20, d.toNat), (14, a.toNat), (8, b.toNat), (0, t.toNat)])
  | .vsubs d a b t => some (encF 0x84000048 [(20, d.toNat), (14, a.toNat), (8, b.toNat), (0, t.toNat)])
  | .vaddsn d a b t => some (encF 0x84000050 [(20, d.toNat), (14, a.toNat), (8, b.toNat), (0, t.toNat)])
  | .vsubsn d a b t => some (encF 0x84000058 [(20, d.toNat), (14, a.toNat), (8, b.toNat), (0, t.toNat)])
  | .vabs d a t => some (encF 0x84000060 [(20, d.toNat), (14, a.toNat), (0, t.toNat)])
  | .vneg d a t => some (encF 0x84000068 [(20, d.toNat), (14, a.toNat), (0, t.toNat)])
  | .vshl d a b t => some (encF 0x84000070 [(20, d.toNat), (14, a.toNat), (8, b.toNat), (0, t.toNat)])
  | .vshr d a b t => some (encF 0x84000078 [(20, d.toNat), (14, a.toNat), (8, b.toNat), (0, t.toNat)])
  | .vsra d a b t => some (encF 0x84000080 [(20, d.toNat), (14, a.toNat), (8, b.toNat), (0, t.toNat)])
  | .vdot d a b t => some (encF 0x84000088 [(20, d.toNat), (14, a.toNat), (8, b.toNat), (0, t.toNat)])
  | .vwadd d a b t => some (encF 0x84000090 [(20, d.toNat), (14, a.toNat), (8, b.toNat), (0, t.toNat)])
  | .vwmul d a b t => some (encF 0x84000098 [(20, d.toNat), (14, a.toNat), (8, b.toNat), (0, t.toNat)])
  | .vfadd d a b t => some (encF 0x88000000 [(20, d.toNat), (14, a.toNat), (8, b.toNat), (0, t.toNat)])
  | .vfsub d a b t => some (encF 0x88000008 [(20, d.toNat), (14, a.toNat), (8, b.toNat), (0, t.toNat)])
  | .vfmul d a b t => some (encF 0x88000010 [(20, d.toNat), (14, a.toNat), (8, b.toNat), (0, t.toNat)])
  | .vfdiv d a b t => some (encF 0x88000018 [(20, d.toNat), (14, a.toNat), (8, b.toNat), (0, t.toNat)])
  | .vfmac d a b t => some (encF 0x88000020 [(20, d.toNat), (14, a.toNat), (8, b.toNat), (0, t.toNat)])
  | .vfmin d a b t => some (encF 0x88000028 [(20, d.toNat), (14, a.toNat), (8, b.toNat), (0, t.toNat)])
  | .vfmax d a b t => some (encF 0x88000030 [(20, d.toNat), (14, a.toNat), (8, b.toNat), (0, t.toNat)])
  | .vfabs d a t => some (encF 0x88000038 [(20, d.toNat), (14, a.toNat), (0, t.toNat)])
  | .vfneg d a t => some (encF 0x88000040 [(20, d.toNat), (14, a.toNat), (0, t.toNat)])
  | .vfsqrt d a t => some (encF 0x88000048 [(20, d.toNat), (14, a.toNat), (0, t.toNat)])
  | .vfscl d a b t => some (encF 0x88000050 [(20, d.toNat), (14, a.toNat), (8, b.toNat), (0, t.toNat)])
  | .vceq d a b t => some (encF 0x8c000000 [(20, d.toNat), (14, a.toNat), (8, b.toNat), (0, t.toNat)])
  | .vclt d a b t => some (encF 0x8c000008 [(20, d.toNat), (14, a.toNat), (8, b.toNat), (0, t.toNat)])
  | .vcle d a b t => some (encF 0x8c000010 [(20, d.toNat), (14, a.toNat), (8, b.toNat), (0, t.toNat)])
  | .vcltn d a b t => some (encF 0x8c000018 [(20, d.toNat), (14, a.toNat), (8, b.toNat), (0, t.toNat)])
  | .vand d a b => some (encF 0x8c000020 [(20, d.toNat), (14, a.toNat), (8, b.toNat)])
  | .vor d a b => some (encF 0x8c000028 [(20, d.toNat), (14, a.toNat), (8, b.toNat)])
  | .vxor d a b => some (encF 0x8c000030 [(20, d.toNat), (14, a.toNat), (8, b.toNat)])
  | .vandn d a b => some (encF 0x8c000038 [(20, d.toNat), (14, a.toNat), (8, b.toNat)])
  | .vsel d a b => some (encF 0x8c000040 [(20, d.toNat), (14, a.toNat), (8, b.toNat)])
  | .vcvt d a n p s t => some (encF 0x90000000 [(20, d.toNat), (14, a.toNat), (13, n.toNat), (11, p.toNat), (8, s.toNat), (0, t.toNat)])
  | .vcvtn d a n p s t => some (encF 0x90000008 [(20, d.toNat), (14, a.toNat), (13, n.toNat), (11, p.toNat), (8, s.toNat), (0, t.toNat)])
  | .vcvt4 d a r p t => some (encF 0x90000010 [(20, d.toNat), (14, a.toNat), (13, r.toNat), (8, p.toNat), (0, t.toNat)])
  | .vpack4 d a b => some (encF 0x90000018 [(20, d.toNat), (14, a.toNat), (8, b.toNat)])
  | .vunpk4 d a p t => some (encF 0x90000020 [(20, d.toNat), (14, a.toNat), (8, p.toNat), (0, t.toNat)])
  | .vquant g d a gx b t => some (encF 0x90000028 [(25, g.toNat), (20, d.toNat), (14, a.toNat), (13, gx.toNat), (8, b.toNat), (0, t.toNat)])
  | .vprune24 d a b t => some (encF 0x90000030 [(20, d.toNat), (14, a.toNat), (8, b.toNat), (0, t.toNat)])
  | .vprune48 d a b t => some (encF 0x90000038 [(20, d.toNat), (14, a.toNat), (8, b.toNat), (0, t.toNat)])
  | .vradd d a t => some (encF 0x94000000 [(20, d.toNat), (14, a.toNat), (0, t.toNat)])
  | .vrmax d a t => some (encF 0x94000008 [(20, d.toNat), (14, a.toNat), (0, t.toNat)])
  | .vrmin d a t => some (encF 0x94000010 [(20, d.toNat), (14, a.toNat), (0, t.toNat)])
  | .vperm d a b t => some (encF 0x94000018 [(20, d.toNat), (14, a.toNat), (8, b.toNat), (0, t.toNat)])
  | .vrot d a b t => some (encF 0x94000020 [(20, d.toNat), (14, a.toNat), (8, b.toNat), (0, t.toNat)])
  | .vtld d a b t => some (encF 0x94000028 [(20, d.toNat), (14, a.toNat), (8, b.toNat), (0, t.toNat)])
  | .vswap d a => some (encF 0x94000030 [(20, d.toNat), (14, a.toNat)])
  | .vld d g => some (encF 0x98000000 [(20, d.toNat), (13, g.toNat)])
  | .vst d g => some (encF 0x98000008 [(20, d.toNat), (13, g.toNat)])
  | .vmovg d a i t => some (encF 0x98000010 [(19, d.toNat), (13, a.toNat), (8, i.toNat), (0, t.toNat)])
  | .vmovv d g i t => some (encF 0x98000018 [(20, d.toNat), (13, g.toNat), (8, i.toNat), (0, t.toNat)])
  | .vmovx x g => some (encF 0x98000020 [(23, x.toNat), (13, g.toNat)])
  | .vmovfx d x => some (encF 0x98000028 [(19, d.toNat), (16, x.toNat)])
  | .dadd d a b k => some (encF 0x9c000000 [(23, d.toNat), (20, a.toNat), (17, b.toNat), (6, k.toNat)])
  | .dsub d a b k => some (encF 0x9c000001 [(23, d.toNat), (20, a.toNat), (17, b.toNat), (6, k.toNat)])
  | .dmul d a b k => some (encF 0x9c000002 [(23, d.toNat), (20, a.toNat), (17, b.toNat), (6, k.toNat)])
  | .dmax d a b k => some (encF 0x9c000003 [(23, d.toNat), (20, a.toNat), (17, b.toNat), (6, k.toNat)])
  | .dmin d a b k => some (encF 0x9c000004 [(23, d.toNat), (20, a.toNat), (17, b.toNat), (6, k.toNat)])
  | .dneg d a k => some (encF 0x9c000005 [(23, d.toNat), (20, a.toNat), (6, k.toNat)])
  | .dld d g k => some (encF 0xa0000000 [(23, d.toNat), (10, g.toNat), (6, k.toNat)])
  | .dst a g => some (encF 0xa0000001 [(20, a.toNat), (10, g.toNat)])
  | .dmk d g k => some (encF 0xa0000002 [(23, d.toNat), (10, g.toNat), (6, k.toNat)])
  | .dtag d a g k => some (encF 0xa0000003 [(23, d.toNat), (20, a.toNat), (10, g.toNat), (6, k.toNat)])
  | .dsplat d g k => some (encF 0xa0000004 [(23, d.toNat), (10, g.toNat), (6, k.toNat)])
  | .dmomV v a k n => some (encF 0xa4000000 [(23, v.toNat), (20, a.toNat), (6, k.toNat), (0, n.toNat)])
  | .dmomG a g k n => some (encF 0xa4000004 [(20, a.toNat), (10, g.toNat), (6, k.toNat), (0, n.toNat)])
  | .dqntV v a g k => some (encF 0xa4000008 [(23, v.toNat), (20, a.toNat), (10, g.toNat), (6, k.toNat)])
  | .dqntG a g k => some (encF 0xa4000009 [(20, a.toNat), (10, g.toNat), (6, k.toNat)])
  | .cpStart a b => some (encF 0xa8000000 [(12, a.toNat), (5, b.toNat)])
  | .cpAbort b => some (encF 0xa8000001 [(5, b.toNat)])
  | .cpWait b => some (encF 0xa8000002 [(5, b.toNat)])
  | .cpStatSt d b => some (encF 0xac000000 [(19, d.toNat), (5, b.toNat)])
  | .cpStatWm d b => some (encF 0xac000001 [(19, d.toNat), (5, b.toNat)])
  | .cpStatBc d b => some (encF 0xac000002 [(19, d.toNat), (5, b.toNat)])
  | .cpStatNb d b => some (encF 0xac000003 [(19, d.toNat), (5, b.toNat)])
  | .cpMbox d p => some (encF 0xb0000000 [(19, d.toNat), (12, p.toNat)])
  | .cpEv d p => some (encF 0xb0000001 [(19, d.toNat), (12, p.toNat)])
  | .cpHalt => some (encF 0xb4000000 [])
  | .immHi p => some (encF 0xf8400000 [(0, p.toNat)])
  | .rlx => some (encF 0xf8800000 [])
  | .rep n c m => some (encF 0xf8c00000 [(16, n.toNat), (9, c.toNat), (6, m.toNat)])
  | .ckpt => some (encF 0xf9400000 [])
  | .valueArrival _ => none
  | .storeAcknowledge _ => none
  | .remoteRequest _ => none
  | .hbmAccess _ => none
  | .atomicPerform _ => none
  | .feWaiterRetry _ => none
  | .waitTableRetry _ => none
  | .strandAdmission _ => none
  | .frameSpill _ => none
  | .frameRefill _ _ => none
  | .distributionEngineRelease _ => none
  | .vectorStart _ => none
  | .vectorComplete _ => none
  | .channelVectorArrival _ _ => none
  | .vswapVectorArrival _ => none
  | .matrixHeadCheck _ => none
  | .matrixGateTest _ => none
  | .mma _ => none
  | .mmas _ => none
  | .tzero _ => none
  | .tload _ => none
  | .tstore _ => none
  | .tscale _ => none
  | .smma24 _ => none
  | .smma48 _ => none
  | .gather _ => none
  | .gmma _ => none
  | .remoteOperandChunkArrival _ => none
  | .gatherChunkLanding _ _ => none
  | .matrixCommandComplete _ => none
  | .copyChunkIssue _ => none
  | .copyChunkLanding _ _ _ => none
  | .copyStageReleased _ _ => none
  | .copyIterationLanded _ _ => none
  | .copyCommandComplete _ _ => none
  | .copyAbortComplete _ _ => none
  | .streamBlockRead _ _ => none
  | .streamBlockDeliver _ _ _ => none
  | .streamBlockRelease _ _ => none
  | .rillValueLanding _ => none
  | .rillCreditReturn _ => none
  | .rillCloseNotice _ => none
  | .cascadeCheckpoint _ => none
  | .lockstepCheckpoint _ => none
  | .lockstepMismatch _ => none
  | .stealRequest _ => none
  | .stealReply _ => none
  | .stealBackoffExpiry _ => none
  | .migrationDeparture _ _ => none
  | .contextMessage _ => none
  | .migrationRefusal _ => none
  | .migrationResend _ => none
  | .migrationAcceptance _ => none
  | .contextSpill _ => none
  | .contextRefill _ => none
  | .forwardingEntryExpiry _ => none
  | .forwardedMessage _ _ => none
  | .tspawnRequest _ => none
  | .tstatRequest _ => none
  | .regulatorAnswer _ => none
  | .doorbell _ _ _ => none
  | .launchRecordRead _ _ => none
  | .taskRelease _ => none
  | .gangPlacement _ _ => none
  | .startMessage _ => none
  | .spawnMessage _ _ => none
  | .taskCompletion _ => none
  | .granuleStep _ => none
  | .cisternCommit _ => none
  | .completionRecord _ => none
  | .completionHead _ _ _ => none
  | .fenceWait _ _ _ _ => none
  | .fenceWaitTimeout _ => none
  | .taskRetirement _ => none
  | .taskStop _ => none
  | .faultRecordWrite _ => none
  | .sliceExpiry _ => none
  | .quiescenceComplete _ => none
  | .quiescenceCancel _ => none
  | .quiescenceRetry _ => none
  | .taskResume _ => none
  | .compactionEntryWrite _ => none
  | .rekeySweepStep _ => none
  | .clusterRetirementEffect _ => none
  | .channelRetirementEffect _ _ => none
  | .hostTransferChunk _ => none
  | .groupSendSlotTake _ => none
  | .collectiveChunkReceive _ => none
  | .collectiveChunkAck _ _ _ => none
  | .packageReset _ => none
  | .reducedServiceStart => none
  | .clusterSelfTestResult _ _ => none
  | .fullServiceSwitch => none
  | .thermalThrottle _ => none
  | .thermalTrip _ => none
  | .powerWindowExpiry _ => none
  | .refresh _ => none
  | .linkLayerRetry _ => none
  | .linkTraining _ => none
  | .patrolScrub _ => none
  | .uncorrectableData _ => none
  | .gangCoreUncorrectableError _ _ _ => none
  | .statusRead _ => none
  | .ownershipClaim _ => none
  | .ownershipHandover _ _ => none
  | .handoverAck _ => none
  | .handoverLapse => none
  | .keepalive _ => none
  | .ownershipLoss => none
  | .tenantCreate _ _ _ _ => none
  | .launchQueueCreate _ _ _ _ => none
  | .fenceCreate _ _ _ => none
  | .faultRingRegister _ _ _ => none
  | .faultSlotFree _ _ _ => none
  | .regionCreate _ _ => none
  | .regionFree _ _ => none
  | .regionRevoke _ _ => none
  | .regionQuery _ _ => none
  | .regionCompact _ _ _ => none
  | .regionRekey _ _ => none
  | .incompleteMarkClear _ _ => none
  | .memoryWindowInstall _ _ _ _ => none
  | .partitionRecordInstall _ _ => none
  | .sliceSet _ _ _ => none
  | .powerCapSet _ _ => none
  | .methodEntryInstall _ _ _ => none
  | .imageInstall _ _ _ => none
  | .translation _ => none
  | .revocationListInstall _ _ => none
  | .linkDomainCreate _ _ => none
  | .linkDomainDelete _ _ => none
  | .landingBind _ _ _ _ _ => none
  | .keyInstall _ _ _ => none
  | .keyDestroy _ _ => none
  | .clusterRetire _ _ => none
  | .channelRetire _ _ _ => none
  | .returnToService _ _ => none
  | .portSplit _ _ => none
  | .viewInstall _ _ => none
  | .rosterInstall _ _ => none
  | .groupSendQueueBind _ _ _ _ _ => none
  | .migrationRound _ _ => none
  | .migrationFinalRound _ _ => none
  | .attestationReport _ _ _ _ => none
  | .tagFillLanding _ => none
  | .throttlingEnd _ => none

/-- The little-endian value of four bytes (R8, R73). -/
def wordOfBytes (b0 b1 b2 b3 : Byte) : Nat :=
  b0.toNat + b1.toNat * 2 ^ 8 + b2.toNat * 2 ^ 16 + b3.toNat * 2 ^ 24

/-- Decoding a list of bytes: the instruction of its first word and the bytes after it. -/
def decodeBytes : List Byte → Except DecodeError (Instr × List Byte)
  | b0 :: b1 :: b2 :: b3 :: rest =>
    match decodeWord (wordOfBytes b0 b1 b2 b3) with
    | .ok i => .ok (i, rest)
    | .error e => .error e
  | _ => .error .shortWord

/-- The bytes of a word as memory holds them, lowest address first (R8, R73). -/
def bytesOfWord (w : Nat) : List Byte :=
  [BitVec.ofNat 8 w, BitVec.ofNat 8 (w / 2 ^ 8), BitVec.ofNat 8 (w / 2 ^ 16), BitVec.ofNat 8 (w / 2 ^ 24)]

/-- The instruction this decoder reads from a word numbered as the opcode table numbers it (every word of the ZN9 is 32
bits, R73; bits above nbits are 0). -/
def decodeTableWord (nbits w : Nat) : Option Instr :=
  match decodeBytes (bytesOfWord (w % 2 ^ nbits)) with
  | .ok (i, _) => some i
  | .error _ => none

end Sys2Proof
end

