-- ==== Sys2Proof/Machine/Maps.lean ====
section
/-! DEFINITION. Finite maps as lists of pairs: lookup, update, removal; sorted sets of numbers. State holds its sparse data
in these forms. -/

namespace Sys2Proof.Machine

/-- A finite map from numbers: pairs of key and value. Updates keep rising keys. -/
abbrev KMap (α : Type) := List (Nat × α)

/-- The value held at a key. -/
def kget? {α : Type} : KMap α → Nat → Option α
  | [], _ => none
  | (k', v) :: r, k => if k = k' then some v else kget? r k

/-- The value held at a key, or a default. -/
def kget {α : Type} (m : KMap α) (k : Nat) (dflt : α) : α :=
  (kget? m k).getD dflt

/-- The map with one key set. -/
def kset {α : Type} : KMap α → Nat → α → KMap α
  | [], k, v => [(k, v)]
  | (k', v') :: r, k, v =>
    if k < k' then (k, v) :: (k', v') :: r
    else if k = k' then (k, v) :: r
    else (k', v') :: kset r k v

/-- The map without one key. -/
def kdel {α : Type} : KMap α → Nat → KMap α
  | [], _ => []
  | (k', v) :: r, k => if k = k' then kdel r k else (k', v) :: kdel r k

/-- A number put into a rising list. -/
def sinsert : List Nat → Nat → List Nat
  | [], a => [a]
  | b :: r, a => if a < b then a :: b :: r else if a = b then b :: r else b :: sinsert r a

/-- A number taken out of a list. -/
def sdel : List Nat → Nat → List Nat
  | [], _ => []
  | b :: r, a => if a = b then sdel r a else b :: sdel r a

end Sys2Proof.Machine
end

