-- ==== Sys2Proof/Machine/State.lean ====
section
/-! DEFINITION. The state of a ZN9 package as plain data: strands (spec/02), cores (spec/09, 11 to 18), tasks and the
regulator (spec/19 to 23), package memory and tables (spec/24 to 28), fabric (spec/29) and service (spec/31); the reasons
a step can stop; and the state after reset. -/

namespace Sys2Proof.Machine

/-- Why a step stops with a fault of the model. The ZN9's own faults are no such stop: they end in a next state (R122). -/
inductive Fault where
  /-- Raised by `step` when the package is halted because firmware failed verification (R502): no service is offered. Safe. -/
  | packageHalted
  deriving DecidableEq, Repr

/-- Why a step is refused. -/
inductive Refusal where
  /-- Raised by no meaning of this model; it stands for an instruction without a meaning. Safe. -/
  | notModelled (mnemonic : String)
  /-- Raised by a meaning when `cur` names no resident strand and no running escapement processor: nothing issues. Safe. -/
  | noIssuer
  /-- Raised by a device step whose conditions do not hold in the state, so that it cannot happen there. Safe. -/
  | notEnabled (row : String)
  deriving DecidableEq, Repr

/-- Memory: (address, byte) pairs with rising addresses and no zero byte; an unlisted address reads 0. -/
abbrev Memory := List Host.Cell

/-- An issuing agent: a core by gcn and a slot, 0 to 63 a strand, 64 the escapement processor (R279, R40). -/
structure Agent where
  gcn : Nat
  slot : Nat
  deriving DecidableEq, Repr, Inhabited

/-- What is to move next: a device step, or the issue of an agent's next word. -/
inductive Move where
  | event (i : Instr)
  | issue (a : Agent)
  deriving DecidableEq, Repr

/-- What a fault record says of one raised fault (R123, R124). -/
structure FaultInfo where
  cls : Nat
  code : Nat
  aux : Word
  addr : Word
  word : BitVec 32
  pcoff : BitVec 32
  image : Word
  time : BitVec 64
  gcn : Nat
  sid : Nat
  win : Nat
  eng : Bool
  gang : Bool
  deriving DecidableEq, Repr, Inhabited

/-- A window register (R39). -/
structure Window where
  gen : BitVec 16
  region : BitVec 20
  access : BitVec 2
  limit : Addr
  base : Addr
  deriving DecidableEq, Repr, Inhabited

/-- A distribution register (R129): 512 bytes and the dependence tag. -/
structure DReg where
  bits : Vec
  tag : BitVec 16
  deriving DecidableEq, Repr

/-- The destination of a pending entry (R82). -/
inductive Dst where
  | gen (r : RCode)
  | pair (r : RCode)
  | vec (r : Nat)
  | dist (r : Nat)
  deriving DecidableEq, Repr

/-- The value of a pending entry. -/
inductive PVal where
  | word (w : Word)
  | pair (lo hi : Word)
  | vec (v : Vec)
  | dist (d : DReg)
  deriving DecidableEq, Repr

/-- A pending entry of R82: `value` once it is bound, `arrived` once it is at the strand, `pc` the address of the
instruction (R83), `remaining` the words still to count. -/
structure Pending where
  id : Nat
  dst : Dst
  remaining : Nat
  value : Option PVal
  arrived : Bool
  flags : BitVec 9
  fault : Option FaultInfo
  pc : Addr
  deriving DecidableEq, Repr

/-- The hint that governs the next word (R88), with the hint's address (R89). -/
inductive Hint where
  | none
  | immHi (pc : Addr) (payload : BitVec 22)
  | rlx (pc : Addr)
  | rep (pc : Addr) (relaxed : Bool) (n : Nat) (c : RCode) (m : BitVec 3)
  | ckpt (pc : Addr)
  deriving DecidableEq, Repr

/-- Why a strand is out of the rotation (R204). -/
inductive Wait where
  | window
  | access
  | parked (id : Nat)
  | request (id : Nat)
  | fence
  | queue
  | distEngine
  | rill
  | guard
  | frame
  | yielding
  | engine
  | migrate (target : Nat)
  | checkpoint
  | mailbox
  | event
  | channel
  | halt
  deriving DecidableEq, Repr

/-- A frame of the register-window stack (R113, R115): size k, lr and g8 to g(8+k-1); whether it is in the register file; the number
it took when it was pushed, by which the oldest of a core is known (R208). -/
structure Frame where
  k : Nat
  age : Nat
  lr : Word
  regs : List Word
  resident : Bool
  deriving DecidableEq, Repr

/-- A strand, or the escapement processor (R29, R279), with its registers (R33 to R45) and its place in the issue. -/
structure Strand where
  roaming : Bool
  shapeW : Nat
  shapeV : Nat
  shapeD : Nat
  carry : Nat
  gRun : Nat × Nat
  vRun : Nat × Nat
  dRun : Nat × Nat
  tid : Word
  pc : Addr
  regs : KMap Word
  lr : Word
  pred : BitVec 32
  xptr : KMap Word
  wins : KMap Window
  flags : BitVec 9
  rnd : BitVec 2
  tagc : BitVec 16
  vregs : KMap Vec
  dregs : KMap DReg
  pending : List Pending
  annul : Nat
  hint : Hint
  counted : Bool
  frames : List Frame
  wait : Option Wait
  yieldSet : List Nat
  lastIssue : Option (BitVec 64)
  moves : BitVec 16
  mxFlags : BitVec 9
  stopped : Bool
  deriving DecidableEq, Repr

/-- A child record of the deque, or a spawn message of the start queue (R117, R353). -/
structure Child where
  pc : Addr
  g0 : Word
  g1 : Word
  g2 : Word
  roaming : Bool
  shapeW : Nat
  shapeV : Nat
  shapeD : Nat
  carry : Nat
  tid : Word
  deriving DecidableEq, Repr

/-- A migration context (R374). -/
structure Ctx where
  regs : List Word
  tid : Word
  lr : Word
  pred : BitVec 32
  tagc : BitVec 16
  origin : Nat
  flags : BitVec 9
  rnd : BitVec 2
  carry : Nat
  moves : BitVec 16
  pc : Addr
  deriving DecidableEq, Repr

/-- Where a context message is (R373). -/
inductive FlightPhase where
  | sent
  | refused
  | backoff
  | accepted
  deriving DecidableEq, Repr

/-- A context in flight between two cores (R373), and the cycle at which the old core learnt of its last refusal. -/
structure Flight where
  id : Nat
  src : Nat
  sid : Nat
  dst : Nat
  ctx : Ctx
  phase : FlightPhase
  since : BitVec 64 := 0
  deriving DecidableEq, Repr

/-- A forwarding entry (R378). -/
structure Fwd where
  tid : Word
  sid : Nat
  dst : Nat
  since : BitVec 64
  deriving DecidableEq, Repr

/-- What an access does at its word or bytes (R177, R183, R184, R200, R118, R119, R143 to R145, R189, R191, R221, R243). -/
inductive AccKind where
  | load (width : Nat) (signed : Bool)
  | store (width : Nat)
  | ldf
  | ldt
  | stf
  | stp
  | stempty
  | cas (expected : Word)
  | xadd
  | barArrive (d : RCode)
  | barWait (phase : BitVec 16)
  | join
  | exitDec
  | dld (tag : BitVec 16)
  | dmk (tag : BitVec 16)
  | dst
  | vst
  | fill (slot : Nat) (win : Nat)
  | writeBack (slot : Nat) (entry : Word)
  | vector
  deriving DecidableEq, Repr

/-- An access in flight (R179): its issuer, what it does, where, with which data; `performed` once bound or written,
`parked` while it stands in a wait list and `refused` while a full wait table turns it away (R172). `fenced` holds the scopes
of fences that it has passed as entered on its path, each with the first access number after that fence (R384). `done`: the bytes
of a `dld`, `dmk` or `dst` that are read or written so far (R148); `bad`: the first poisoned word met (R409); `popped`: the values that its
word took from `qin`, which go back if the access faults at its bank (R122, R331); `xr`: the byte ranges of a vector word's operands;
`sent`: the number at which it entered its path, by which it stands behind fences (R384); `since`: the cycle at which a full wait table last
turned it away (R172). -/
structure Access where
  id : Nat
  gcn : Nat
  sid : Nat
  kind : AccKind
  addr : Nat
  data : Word
  vdata : Vec
  relaxed : Bool
  performed : Bool
  parked : Bool
  refused : Bool
  pc : Addr
  word : BitVec 32
  fenced : List (Nat × Nat)
  done : Nat
  bad : Option Nat
  popped : List Word := []
  xr : List (Nat × Nat) := []
  sent : Nat := 0
  since : BitVec 64 := 0
  deriving DecidableEq, Repr

/-- A message on its way from one core to another core of its cluster, by what it is (R305): a request or the answer to one, by access
number; a context or the answer to one, by flight number; a rill's next value, credit or close notice; a `vswap` vector; a steal request or
its answer. -/
inductive Post where
  | request (n : Nat)
  | answer (n : Nat)
  | context (n : Nat)
  | contextAnswer (n : Nat)
  | value
  | credit
  | notice
  | swap
  | steal
  | stolen
  deriving DecidableEq, Repr

/-- A queued vector word (R219): the instruction, the pointer addresses and `rnd` captured at its issue, the address of a
`vld` or `vst`, and the access it is (R221). -/
structure VEntry where
  instr : Instr
  sid : Nat
  xs : List (Nat × Addr)
  rnd : BitVec 2
  ea : Nat
  acc : Option Nat
  pc : Addr
  word : BitVec 32
  deriving DecidableEq, Repr

/-- A write of a started vector instruction. -/
inductive VWrite where
  | reg (n : Nat) (v : Vec)
  | mem (addr : Nat) (v : Vec)
  deriving DecidableEq, Repr

/-- The started vector instruction (R220): what it will write, its flags, and whether it still waits for its partner. -/
structure VRun where
  entry : VEntry
  writes : List VWrite
  flags : BitVec 9
  hole : Bool
  partner : Bool
  deriving DecidableEq, Repr

/-- A queued matrix command (R250): record, metadata copy, issuer, record address, address of the mx.issue word. -/
structure MCmd where
  record : BitVec 512
  meta? : Option Vec
  sid : Nat
  addr : Nat
  pc : Addr
  headOk : Bool
  gateOk : Bool
  deriving DecidableEq, Repr

/-- A chunk that an engine fetches: device address and length, and the operand's window number (R26). -/
structure Chunk where
  src : Nat
  dst : Nat
  len : Nat
  iter : Nat
  zero : Bool
  deriving DecidableEq, Repr

/-- One landed range of an engine of a core, for the landed list (R407): of a copy channel by number, or of a matrix command. -/
structure Landed where
  gcn : Nat
  chan : Option Nat
  region : BitVec 20
  lo : Nat
  hi : Nat
  deriving DecidableEq, Repr

/-- The started matrix command: captured windows, chunks not yet arrived, bytes fetched, bytes landed, flags, whether
its effect is done; the number at which its chunks entered their paths (R384). -/
structure MRun where
  cmd : MCmd
  awin : Window
  bwin : Window
  chunks : List Chunk
  buf : KMap Byte
  flags : BitVec 9
  effectDone : Bool
  landed : List Landed
  sent : Nat := 0
  deriving DecidableEq, Repr

/-- A copy chunk that has issued and not landed, with the bytes it read (R292) and its number, by which it stands in the release
buffer of a lock-step pair (R281). -/
structure CopyFlight where
  id : Nat
  chunk : Chunk
  bytes : List Byte
  hole : Bool
  deriving DecidableEq, Repr

/-- A copy channel (R288 to R298): captured block and windows, state 0 idle, 1 active or 4 aborting, iteration being issued, its chunks not yet
issued, chunks in flight, the first iteration that has not ended, later ones that have, ended ones whose record waits for room (R290,
R295), destination envelope (R289), watermark, counters, what landed by region (R407), address of the cp.start word; the chunks that were
refused as they came to land, which never land (R173, R409). -/
structure Channel where
  st : Nat
  block : BitVec 1024
  blockAddr : Nat
  sw : Window
  dw : Window
  iter : Nat
  begun : Bool
  todo : List Chunk
  flight : List CopyFlight
  iterDone : Nat
  early : List Nat
  owed : List Nat
  env : Nat × Nat
  wm : Nat
  bc : Nat
  nb : Nat
  landed : Option Landed
  pc : Addr
  lost : List CopyFlight := []
  deriving DecidableEq, Repr

/-- What travels through a rill: a value, or a checkpoint marker (R326). -/
inductive RItem where
  | val (w : Word)
  | marker
  deriving DecidableEq, Repr

/-- Both ends of rills at a core: the incoming rill (waiting items, items in flight towards it, closed) and the sender's
view of the outgoing one (credits, credits in flight, close notice in flight, closed) (R318 to R324). `slot` is the slot of
the cascade area in which the next value lands. -/
structure Rill where
  slot : Nat
  inq : List RItem
  flight : List RItem
  closed : Bool
  credits : Nat
  creditFlight : Nat
  noticeFlight : Bool
  outClosed : Bool
  deriving DecidableEq, Repr

/-- A core's part in a cascade (R316, R317, R326): stage, number of stages, the cores of the stages before and after it,
period, pushes counted, checkpoints taken, whether a checkpoint is due before the next word, the two records. -/
structure Stage where
  stage : Nat
  stages : Nat
  up : Option Nat
  down : Option Nat
  period : Nat
  pushes : Nat
  taken : Nat
  due : Bool
  recs : KMap Strand
  deriving DecidableEq, Repr

/-- The lock-step state of a pair, held by its leader (R210 to R213): the accesses and copy chunks in the release buffer by number,
those that a checkpoint let go and that drain in this order, the strands whose word a checkpoint has let pass, the undo log, the cycle of the last checkpoint, the strands and tiles it saved, the number of
the checkpoint to which a mismatch was last rolled back, the checkpoints taken since placement, the first access number after the checkpoint and the parked accesses of then; the
deque, the start queue, the shared registers, the tag table, the mailbox, the copy channels and whether the escapement processor was halted then; the
event queue, the words in the engines' queues and the count of started `vswap` words of then, and the vectors that `vswap` words have
taken since; the vectors that commands have taken since from channels and, by stream, from stream buffers; the full/empty bits of words changed since, as they were (empty or not); what
the core's engines had landed then (R407); the words that stood poisoned in each granule of the undo log as it entered; the number of the task's faults
at the core then. -/
structure Lock where
  release : List Nat
  drain : List Nat
  granted : List Nat
  undo : List (Nat × List Byte)
  lastCkpt : BitVec 64
  strands : KMap Strand
  tiles : KMap (BitVec 32)
  missed : Option Nat
  count : Nat
  mark : Nat
  parked : List Access
  deque : List Child
  startQ : List Child
  kregs : KMap Word
  kpend : List (BitVec 64 × Nat × Word)
  tagTab : KMap Word
  victims : KMap (BitVec 2)
  mailbox : List (Word × Word)
  epHalted : Bool
  channels : KMap Channel
  bits : List (Nat × Bool)
  events : List (BitVec 128)
  vq : List VEntry
  mq : List MCmd
  swapped : Nat
  swaps : List (Nat × Vec)
  chUsed : List (Nat × Vec) := []
  bufUsed : List (Nat × Vec) := []
  landed : List Landed := []
  bad : List Nat := []
  faults : Nat := 0
  deriving DecidableEq, Repr

/-- A thief's state (R369): request outstanding and to whom, the last victim asked, empty answers in this cycle, and since which cycle it waits
after a full cycle of them. -/
structure Steal where
  asked : Option Nat
  answer : Option (Option Child)
  last : Option Nat
  empties : Nat
  backoff : Option (BitVec 64)
  deriving DecidableEq, Repr

/-- A core (spec/09 to spec/18). `spilled`: the slots of the spill area that hold contexts, first in first out (R375, R377);
`refilled`: a context read back for admission. `vswapStarted` counts the `vswap` words started since placement; the vectors sent and
landed carry their numbers (R242). `distQ`: the strands that wait for the distribution engine, in order (R136). `reached`: the images
that linkage calls have reached here since placement (R438). -/
structure Core where
  task : Option Nat
  member : Nat
  withheld : Bool
  strands : KMap Strand
  rot : Nat
  kregs : KMap Word
  kpend : List (BitVec 64 × Nat × Word)
  deque : List Child
  startQ : List Child
  arrivals : List Ctx
  spilled : List Nat
  refilled : Option Ctx
  stolen : List Child
  steal : Steal
  fwds : List Fwd
  tagTab : KMap Word
  victims : KMap (BitVec 2)
  vq : List VEntry
  vrun : Option VRun
  chans : KMap (List Vec)
  chanFlight : List (Nat × Vec)
  vswapStarted : Nat
  vswapSent : List (Nat × Vec)
  vswapIn : List (Nat × Vec)
  tiles : KMap (BitVec 32)
  mq : List MCmd
  mrun : Option MRun
  streamBufs : KMap (List Vec)
  distBusy : Bool
  distQ : List Nat
  epHalted : Bool
  channels : KMap Channel
  rr : Nat
  events : List (BitVec 128)
  mailbox : List (Word × Word)
  rill : Rill
  stage : Option Stage
  lock : Option Lock
  landed : List Landed
  reached : List Nat
  deriving DecidableEq, Repr

/-- A region entry (R416). -/
structure Region where
  base : Nat
  extent : Nat
  gen : BitVec 16
  tag : BitVec 16
  owner : Nat
  state : BitVec 2
  prot : Bool
  inc : Bool
  rekey : Bool
  tensor : BitVec 32
  wver : BitVec 32
  sweep : Nat
  moveTo : Option Nat
  deriving DecidableEq, Repr

/-- What the address map of R458 says of one sealed word: at the word's offset, for a kind of strand (0 anchored, 1 escapement processor,
else a roaming strand's carry), file 0 general, 1 pointer, 2 frame slot from the top of the stack, 3 from its bottom, the register's index and the window of the address it holds. -/
structure AMapEntry where
  off : Nat
  kind : Nat
  file : Nat
  idx : Nat
  win : Nat
  deriving DecidableEq, Repr

/-- A sealed image (R425): header, the address of its body's first byte, and its address map (R458). -/
structure Image where
  header : BitVec 2048
  base : Nat
  amap : List AMapEntry
  deriving DecidableEq, Repr

/-- What Glousk answers: a sealed image, header and body, or a refusal code with the Praow offset (R425, R432). -/
inductive Sealed where
  | image (bytes : List Byte)
  | refused (code : Nat) (poff : Nat)
  deriving DecidableEq, Repr

/-- A launch queue (R476). -/
structure Queue where
  fence : Nat
  tail : Nat
  head : Nat
  cring : Nat
  cslots : Nat
  lring : Nat
  lslots : Nat
  cseq : Nat
  cfreed : Nat
  deriving DecidableEq, Repr

/-- A fault ring (R126): its region, its slots, the next slot, the next sequence number, each slot in use with the first slot
of its run. -/
structure FaultRing where
  region : Nat
  slots : Nat
  next : Nat
  seq : Nat
  used : KMap Nat
  deriving DecidableEq, Repr

/-- A tenant's migration to another device (R481, R482): round, the 64 KiB granules written in it, whether it is final, and for
the final round the ranges, by region and offsets, that the tasks of the round declare with write access. -/
structure Migr where
  round : Nat
  log : List Nat
  final : Bool
  ran : List (Nat × Nat × Nat)
  deriving DecidableEq, Repr

/-- A tenant (R476) with its windows (R420), partition (R422), slice (R453), queues, fences, fault ring. -/
structure Tenant where
  endpoint : Nat
  handler : BitVec 32
  wins : KMap (BitVec 128)
  part : Option (BitVec 256)
  degraded : Bool
  effMin : Nat × Nat
  slice : Nat
  queues : KMap Queue
  fences : KMap Nat
  ring : Option FaultRing
  nextLaunch : Nat
  dropped : Nat
  migr : Option Migr
  chainFailed : Bool
  deriving DecidableEq, Repr

/-- What kind of task a slot holds: submitted, inserted conversion (R343) for a slot, handler (R127) of a task's handle. -/
inductive TaskKind where
  | user
  | conversion (served : Nat)
  | handler (faulted : Word)
  deriving DecidableEq, Repr

/-- Why a task is being quiesced (R450): not; for pre-emption (R453); for compaction (R457); for full service (R506). -/
inductive Quiesce where
  | no
  | slice
  | compact (r : Nat)
  | service
  deriving DecidableEq, Repr

/-- A task (R336 to R338): the submitted record, the regulator's fields, and how far its end has come. `order` and `time` place
it under R355; `deps` are the conversion slots it waits for; `members` its cores by member number; `spawnsLeft` its spawn
messages not yet received (R353); `stopped`: step 2 of R122 done, `quiet`: steps 4 and 5 done; `recorded`, `completed`: the
fault record and the completion record are written; `reached`: the images that linkage calls have reached on cores that the task has left (R438); `confined`: the core of a confined stage fault (R331); `bound`: the core
that a handler of such a fault is bound to, with the number of its stage and of the stages (R332); `consumer` and `producer` of a forward with its carried lines by region
and offset (R358 to R360); `quiesce`, `stopAt`, `held`, `retry`: R450 and R451; `saved`: R454; `slotHeld`: the completion
slot by queue and number (R338). -/
structure Task where
  record : BitVec 2048
  tenant : Nat
  queue : Nat
  kind : TaskKind
  launch : BitVec 32
  handle : Word
  state : Nat
  method : Option Nat
  image : Word
  cursor : Word
  order : Nat
  time : BitVec 64
  deps : List Nat
  members : List Nat
  started : Bool
  placedAt : BitVec 64
  spawnsLeft : List (Nat × Child)
  faults : List FaultInfo
  stopped : Bool
  quiet : Bool
  recorded : Bool
  completed : Bool
  waitersFree : Bool
  confined : Option Nat
  bound : Option Nat
  stageOf : Option (Nat × Nat) := none
  ringSlots : List Nat
  landed : List Landed
  reached : List Nat := []
  consumer : Option Nat
  producer : Option Nat
  candidates : List (Nat × Nat)
  carried : List (Nat × Nat)
  quiesce : Quiesce
  stopAt : BitVec 64
  held : Bool
  retry : Option (Quiesce × BitVec 64)
  saved : Bool
  slotHeld : Option (Nat × Nat)
  deriving DecidableEq, Repr

/-- One operand stream as a cluster's distributor holds it (R309 to R314). -/
structure Stream where
  entry : BitVec 256
  valid : Bool
  read : Nat
  held : KMap Vec
  delivered : KMap Nat
  taken : KMap Nat
  released : Nat
  deriving DecidableEq, Repr

/-- A saved member (R454): the core's record, its scratchpad bytes, empty bits and poison marks, its parked accesses, the
streams whose rings it holds, and the key handle that its save key is bound to. -/
structure Save where
  slot : Nat
  member : Nat
  gcn : Nat
  core : Core
  bytes : Memory
  empties : List Nat
  poison : List Nat
  accs : List Access
  streams : KMap Stream
  key : Word
  deriving DecidableEq, Repr

/-- A tspawn or tstat request (R347, R348) and its answer. -/
structure Req where
  id : Nat
  gcn : Nat
  sid : Nat
  d : RCode
  spawn : Bool
  win : Window
  arg : Word
  answer : Option Word
  deriving DecidableEq, Repr

/-- A fence wait (R478): the endpoint that is answered, and the cycle at which it came. -/
structure FenceWait where
  id : Nat
  endpoint : Nat
  tenant : Nat
  fence : Nat
  value : Nat
  timeout : Nat
  start : BitVec 64
  deriving DecidableEq, Repr

/-- The ordering code of the device (R2). -/
inductive OrderCode where
  | zn9p2560
  | zn9p2304
  | zn9m2560L
  deriving DecidableEq, Repr

/-- A key slot (R465): its generation, and the tenant and wrapped key it holds. -/
structure KeySlot where
  gen : BitVec 16
  held : Option (Nat × BitVec 512)
  deriving DecidableEq, Repr

/-- A link domain (R439): its record and its bound landings, landing to image id (R441). -/
structure Domain where
  record : BitVec 1024
  bound : KMap Word
  deriving DecidableEq, Repr

/-- A group's installed view or roster, a view with its transport key (R484, R485). -/
structure Group where
  number : BitVec 32
  members : List Nat
  roster : Bool
  tenant : Nat
  key : Option (BitVec 512)
  deriving DecidableEq, Repr

/-- A slot of a group send queue in transit (R486, R487): slot number, record, chunks unacknowledged
(by number, with data), whether the flag word is on its way. -/
structure SendRun where
  slot : Nat
  record : BitVec 512
  unacked : List (Nat × List Byte)
  flagSent : Bool
  deriving DecidableEq, Repr

/-- A group send queue (R486). -/
structure SendQ where
  region : Nat
  port : Nat
  group : Nat
  next : Nat
  run : Option SendRun
  deriving DecidableEq, Repr

/-- How far service has come (R502 to R506). -/
inductive Service where
  | halted
  | bringUp
  | reduced
  | full
  deriving DecidableEq, Repr

/-- A message that leaves the package (R479, R480, R509): an event by kind, a management reply with its header, a host reply, a group
packet with what protects it (R484) or its acknowledgement. `dst` of an event, a host reply and a fence answer is the endpoint it goes to. -/
inductive Msg where
  | event (kind dst tenant : Nat) (clk : BitVec 64) (data : List Word)
  | reply (master : Nat) (header : List Byte) (data : List Word)
  | host (dst tenant code : Nat) (bytes : List Byte)
  | fence (dst tenant fence value : Nat) (timedOut : Bool)
  | chunk (group : Nat) (view : BitVec 32) (dst dreg : Nat) (dgen : BitVec 16) (doff : Nat) (flag : Bool) (bytes : List Byte) (tss : Word)
  | chunkAck (group member : Nat) (ok : Bool)
  | handover (master : Nat)
  deriving DecidableEq, Repr

/-- The whole machine. Of the device descriptor: `order`, the ordering code (R2), `mgmt`, the endpoint by which each master attaches (R474),
and `disabled` (R3). `eventSeq` counts the events sent or dropped (R480), `chanTold` the pending channel retirements of which the owner has
been told (R463), `net` the messages between cores of a cluster in the order of sending, by sender and receiver (R305), `reqWait` the request,
by master and number, that each master waits for (R509), `fabricKey` the fabric manager's public key (R485); `dieLinks`, `stacksBasic` and
`stacksFine`: the dies whose links are trained and the HBM stacks that have ended basic and fine training (R502, R506); `unreported`: the retired tasks whose fault records still wait for
room (R126, R338). -/
structure State where
  clk : BitVec 64
  mem : Memory
  empties : List Nat
  poison : List Nat
  waiters : List Nat
  accs : List Access
  cores : KMap Core
  flights : List Flight
  regions : KMap Region
  regionSize : Nat
  burnt : List Nat
  methods : KMap (BitVec 512)
  images : KMap Image
  sealed : List Sealed
  transCount : Nat
  domains : KMap Domain
  revSeq : Nat
  revVers : List (BitVec 32)
  tenants : KMap Tenant
  partOrder : List Nat
  fenceWaits : List FenceWait
  tasks : KMap Task
  slotUse : KMap Nat
  accepted : Nat
  reqs : List Req
  saves : List Save
  keys : KMap KeySlot
  owner : Option Nat
  handover : Option (Nat × BitVec 64)
  ownerSeen : BitVec 64
  service : Service
  dieOk : List Nat
  tested : KMap Bool
  switching : Bool
  disabled : List Nat
  retired : List Nat
  retiring : List Nat
  chanRetired : List (Nat × Nat)
  chanPending : List (Nat × Nat)
  chanTold : List (Nat × Nat)
  order : OrderCode
  mgmt : KMap Nat
  eventSeq : Nat
  powerCap : Nat
  powerLast : Nat
  throttled : List Nat
  split : List Nat
  splitPending : List Nat
  trained : List Nat
  groups : KMap Group
  sendqs : KMap SendQ
  streams : KMap Stream
  attestUsed : Nat
  ownerRing : List (BitVec 512)
  outbox : List Msg
  cur : Agent
  sched : List Move
  nextId : Nat
  net : List (Nat × Nat × Post)
  reqWait : List (Nat × Nat)
  fabricKey : Option (List Byte)
  dieLinks : List Nat
  stacksBasic : List Nat
  stacksFine : List Nat
  unreported : List Task
  deriving DecidableEq, Repr

/-- A core to which nothing has been placed (R247, R318, R356): every engine idle, the escapement processor halted. -/
def Core.idle : Core :=
  { task := none, member := 0, withheld := false, strands := [], rot := 0, kregs := [], kpend := [], deque := [],
    startQ := [], arrivals := [], spilled := [], refilled := none, stolen := [],
    steal := { asked := none, answer := none, last := none, empties := 0, backoff := none },
    fwds := [], tagTab := [], victims := [], vq := [], vrun := none, chans := [], chanFlight := [], vswapStarted := 0,
    vswapSent := [], vswapIn := [], tiles := [], mq := [], mrun := none, streamBufs := [], distBusy := false, distQ := [],
    epHalted := true, channels := [], rr := 0, events := [], mailbox := [],
    rill := { slot := 0, inq := [], flight := [], closed := false, credits := 8, creditFlight := 0, noticeFlight := false, outClosed := false },
    stage := none, lock := none, landed := [], reached := [] }

/-- The machine right after package reset (R40, R170, R337, R502): nothing placed, no table entry used, service not begun. -/
def State.reset : State :=
  { clk := 0, mem := [], empties := [], poison := [], waiters := [], accs := [], cores := [], flights := [], regions := [],
    regionSize := 1048576, burnt := [], methods := [], images := [], sealed := [], transCount := 0, domains := [],
    revSeq := 0, revVers := [], tenants := [], partOrder := [], fenceWaits := [], tasks := [], slotUse := [],
    accepted := 0, reqs := [], saves := [], keys := [], owner := none, handover := none, ownerSeen := 0,
    service := .bringUp, dieOk := [], tested := [], switching := false, disabled := [], retired := [],
    retiring := [], chanRetired := [], chanPending := [], chanTold := [],
    order := .zn9p2560, mgmt := (List.range 8).map fun m => (m, m), eventSeq := 0, powerCap := 3300, powerLast := 0, throttled := [],
    split := [], splitPending := [], trained := [], groups := [], sendqs := [], streams := [], attestUsed := 0,
    ownerRing := [], outbox := [], cur := { gcn := 0, slot := 0 }, sched := [], nextId := 0,
    net := [], reqWait := [], fabricKey := none, dieLinks := [], stacksBasic := [], stacksFine := [], unreported := [] }

end Sys2Proof.Machine
end

