-- ==== Sys2Proof/Machine/Flags.lean ====
section
/-! DEFINITION. Flags (R41) and the number formats of spec/03: decoding of f8e4, f8e5, f16, b16 and f32 (R54 to R58),
rounding once under R60 to R63, arithmetic on exact values, conversions (R67 to R70), saturation (R48, R70), q4x quads
(R49 to R51). A finite value is exact: (-1)^neg * m * 2^e. -/

namespace Sys2Proof.Machine

/-- The flags word of a strand (R41). -/
abbrev Flags := BitVec 9

/-- `nx`, inexact (R41). -/
abbrev fNx : Flags := 1
/-- `uf`, underflow (R41). -/
abbrev fUf : Flags := 2
/-- `of`, overflow (R41). -/
abbrev fOf : Flags := 4
/-- `dz`, divide by zero (R41). -/
abbrev fDz : Flags := 8
/-- `nv`, invalid operation (R41). -/
abbrev fNv : Flags := 16
/-- `sat`, saturated (R41). -/
abbrev fSat : Flags := 32
/-- `fmt`, malformed quad (R41). -/
abbrev fFmt : Flags := 64
/-- `wmm`, weight mismatch (R41). -/
abbrev fWmm : Flags := 128
/-- `hole`, unpopulated or unmapped address (R41). -/
abbrev fHole : Flags := 256

/-- A flag set under a condition. -/
def flagIf (b : Bool) (f : Flags) : Flags := if b then f else 0

/-- A float format: exponent bits, fraction bits, bias, whether it has infinities and signalling NaNs (R54 to R58). -/
structure FFmt where
  eb : Nat
  mb : Nat
  bias : Nat
  inf : Bool
  snan : Bool
  deriving DecidableEq, Repr

/-- f8e4 (R54). -/
def f8e4 : FFmt := ⟨4, 3, 7, false, false⟩
/-- f8e5 (R55). -/
def f8e5 : FFmt := ⟨5, 2, 15, true, false⟩
/-- f16 (R56). -/
def f16 : FFmt := ⟨5, 10, 15, true, true⟩
/-- b16 (R56). -/
def b16 : FFmt := ⟨8, 7, 127, true, true⟩
/-- f32 (R56). -/
def f32 : FFmt := ⟨8, 23, 127, true, true⟩

/-- The width of a format in bits. -/
def FFmt.width (F : FFmt) : Nat := 1 + F.eb + F.mb

/-- The sign bit's weight. -/
def FFmt.signBit (F : FFmt) : Nat := 2 ^ (F.eb + F.mb)

/-- The canonical NaN (R57). -/
def FFmt.cnan (F : FFmt) : Nat :=
  if F.inf then (2 ^ F.eb - 1) * 2 ^ F.mb + 2 ^ (F.mb - 1) else 2 ^ (F.eb + F.mb) - 1

/-- The largest finite encoding, sign 0 (R54, R55). -/
def FFmt.maxFin (F : FFmt) : Nat :=
  if F.inf then (2 ^ F.eb - 1) * 2 ^ F.mb - 1 else 2 ^ (F.eb + F.mb) - 2

/-- What an encoding stands for. -/
inductive FVal where
  | nan (signalling : Bool)
  | inf (neg : Bool)
  | fin (neg : Bool) (m : Nat) (e : Int)
  deriving DecidableEq, Repr

/-- Decoding an encoding (R54 to R58). -/
def FFmt.decode (F : FFmt) (x : Nat) : FVal :=
  let neg := x / F.signBit % 2 == 1
  let e := x / 2 ^ F.mb % 2 ^ F.eb
  let m := x % 2 ^ F.mb
  if e = 2 ^ F.eb - 1 ∧ F.inf then
    if m = 0 then .inf neg else .nan (F.snan && m / 2 ^ (F.mb - 1) == 0)
  else if !F.inf && e = 2 ^ F.eb - 1 && m = 2 ^ F.mb - 1 then .nan false
  else if e = 0 then .fin neg m (1 - (F.bias : Int) - F.mb)
  else .fin neg (2 ^ F.mb + m) ((e : Int) - F.bias - F.mb)

/-- Whether an encoding is a NaN. -/
def FVal.isNan : FVal → Bool
  | .nan _ => true
  | _ => false

/-- Whether an encoding is a signalling NaN (R58). -/
def FVal.isSnan : FVal → Bool
  | .nan b => b
  | _ => false

/-- `nv` for the signalling NaNs among the operands (R58). -/
def snanFlags (l : List FVal) : Flags := flagIf (l.any FVal.isSnan) fNv

/-- m * 2^e dropped to a multiple of 2^q under a rounding mode of R42: the multiple, and whether it is exact. -/
def roundAt (mode : BitVec 2) (neg : Bool) (m : Nat) (e q : Int) : Nat × Bool :=
  if q ≤ e then (m * 2 ^ (e - q).toNat, true) else
  let d := (q - e).toNat
  let n := m / 2 ^ d
  let r := m % 2 ^ d
  let up :=
    match mode.toNat with
    | 0 => decide (2 * r > 2 ^ d) || (decide (2 * r = 2 ^ d) && n % 2 == 1)
    | 1 => false
    | 2 => neg && decide (r > 0)
    | _ => !neg && decide (r > 0)
  (if up then n + 1 else n, decide (r = 0))

/-- What replaces a result that overflows (R61). -/
def FFmt.overflow (F : FFmt) (mode : BitVec 2) (neg : Bool) : Nat × Flags :=
  let s := if neg then F.signBit else 0
  if !F.inf then (s + F.maxFin, fOf ||| fSat ||| fNx)
  else
    let toInf := match mode.toNat with
      | 0 => true
      | 1 => false
      | 2 => neg
      | _ => !neg
    (s + (if toInf then F.maxFin + 1 else F.maxFin), fOf ||| fNx)

/-- An exact infinity in the format (R61). -/
def FFmt.infinity (F : FFmt) (neg : Bool) : Nat × Flags :=
  let s := if neg then F.signBit else 0
  if F.inf then (s + F.maxFin + 1, 0) else (s + F.maxFin, fOf ||| fSat)

/-- One rounding of (-1)^neg * m * 2^e into the format (R60 to R63). -/
def FFmt.round (F : FFmt) (mode : BitVec 2) (neg : Bool) (m : Nat) (e : Int) : Nat × Flags :=
  let s := if neg then F.signBit else 0
  if m = 0 then (s, 0) else
  let emin : Int := 1 - F.bias
  let E : Int := m.log2 + e
  let qU := E - F.mb
  let q := max qU (emin - F.mb)
  let (n, exact) := roundAt mode neg m e q
  let nU := (roundAt mode neg m e qU).1
  -- the value rounded with unbounded exponent lies below the smallest normal (R62)
  let tiny := decide ((nU.log2 : Int) + qU < emin) && decide (nU ≠ 0)
  let (n, q) := if n = 2 ^ (F.mb + 1) then (2 ^ F.mb, q + 1) else (n, q)
  let enc := if n < 2 ^ F.mb then n else (q - (emin - F.mb) + 1).toNat * 2 ^ F.mb + (n - 2 ^ F.mb)
  if enc > F.maxFin then F.overflow mode neg
  else (s + enc, flagIf (!exact) fNx ||| flagIf (!exact && tiny) fUf)

/-- The sign of an exact zero sum of two operands (R63). -/
def zeroSumSign (mode : BitVec 2) (na nb : Bool) : Bool :=
  if na = nb then na else mode.toNat == 2

/-- An exact signed sum of finite values: sign, magnitude, exponent. -/
def finAdd (mode : BitVec 2) (na : Bool) (ma : Nat) (ea : Int) (nb : Bool) (mb : Nat) (eb : Int) : Bool × Nat × Int :=
  let e := min ea eb
  let a : Int := ma * 2 ^ (ea - e).toNat
  let b : Int := mb * 2 ^ (eb - e).toNat
  let v := (if na then -a else a) + (if nb then -b else b)
  if v = 0 then (zeroSumSign mode na nb, 0, e) else (decide (v < 0), v.natAbs, e)

/-- The sum of two values in the format (R108, R228). -/
def FFmt.add (F : FFmt) (mode : BitVec 2) (x y : FVal) : Nat × Flags :=
  let sn := snanFlags [x, y]
  match x, y with
  | .nan _, _ => (F.cnan, sn)
  | _, .nan _ => (F.cnan, sn)
  | .inf a, .inf b => if a = b then F.infinity a else (F.cnan, fNv)
  | .inf a, _ => F.infinity a
  | _, .inf b => F.infinity b
  | .fin na ma ea, .fin nb mb eb =>
    let (n, m, e) := finAdd mode na ma ea nb mb eb
    F.round mode n m e

/-- A value with its sign inverted. -/
def FVal.neg : FVal → FVal
  | .nan b => .nan b
  | .inf n => .inf (!n)
  | .fin n m e => .fin (!n) m e

/-- The exact product of two values; none if it is invalid (0 × ∞). -/
def FVal.mul : FVal → FVal → Option FVal
  | .nan b, .nan c => some (.nan (b || c))
  | .nan b, _ => some (.nan b)
  | _, .nan b => some (.nan b)
  | .inf a, .inf b => some (.inf (a != b))
  | .inf a, .fin b m _ => if m = 0 then none else some (.inf (a != b))
  | .fin a m _, .inf b => if m = 0 then none else some (.inf (a != b))
  | .fin a m e, .fin b n f => some (.fin (a != b) (m * n) (e + f))

/-- A value rounded into the format: NaN canonical, infinities under R61 (R57, R67). -/
def FFmt.ofVal (F : FFmt) (mode : BitVec 2) (x : FVal) : Nat × Flags :=
  match x with
  | .nan b => (F.cnan, flagIf b fNv)
  | .inf n => F.infinity n
  | .fin n m e => F.round mode n m e

/-- The product of two values in the format (R108, R228). -/
def FFmt.mul (F : FFmt) (mode : BitVec 2) (x y : FVal) : Nat × Flags :=
  match x.mul y with
  | none => (F.cnan, fNv)
  | some p => F.ofVal mode p

/-- addend + x × y rounded once (R108): 0 × ∞ is invalid even with a NaN addend. -/
def FFmt.mac (F : FFmt) (mode : BitVec 2) (z x y : FVal) : Nat × Flags :=
  match x.mul y with
  | none => (F.cnan, fNv)
  | some p => F.add mode z p

/-- The quotient of two values in the format (R108, R228). -/
def FFmt.div (F : FFmt) (mode : BitVec 2) (x y : FVal) : Nat × Flags :=
  let sn := snanFlags [x, y]
  match x, y with
  | .nan _, _ => (F.cnan, sn)
  | _, .nan _ => (F.cnan, sn)
  | .inf _, .inf _ => (F.cnan, fNv)
  | .inf a, .fin b _ _ => F.infinity (a != b)
  | .fin a _ _, .inf b => (if a != b then F.signBit else 0, 0)
  | .fin a m e, .fin b n f =>
    if n = 0 then
      if m = 0 then (F.cnan, fNv)
      else let (r, fl) := F.infinity (a != b); (r, fl ||| fDz)
    else if m = 0 then (if a != b then F.signBit else 0, 0)
    else
      let k : Nat := 64
      let num := m * 2 ^ k
      let q := num / n
      -- a remainder is kept as one more low bit, below every rounding place
      F.round mode (a != b) (2 * q + (if num % n = 0 then 0 else 1)) (e - f - k - 1)

/-- The integer square root of n, bit by bit from bit k. -/
def isqrtFrom (n : Nat) : Nat → Nat → Nat
  | 0, r => r
  | k + 1, r => isqrtFrom n k (if (r + 2 ^ k) * (r + 2 ^ k) ≤ n then r + 2 ^ k else r)

/-- The integer square root. -/
def isqrt (n : Nat) : Nat := isqrtFrom n (n.log2 / 2 + 1) 0

/-- The square root of a value in the format (R108, R228). -/
def FFmt.sqrt (F : FFmt) (mode : BitVec 2) (x : FVal) : Nat × Flags :=
  match x with
  | .nan b => (F.cnan, flagIf b fNv)
  | .inf n => if n then (F.cnan, fNv) else F.infinity false
  | .fin n m e =>
    if m = 0 then (if n then F.signBit else 0, 0)
    else if n then (F.cnan, fNv)
    else
      let (m', e') := if e % 2 = 0 then (m, e) else (2 * m, e - 1)
      let k : Nat := 40
      let M := m' * 2 ^ (2 * k)
      let r := isqrt M
      F.round mode false (2 * r + (if r * r = M then 0 else 1)) (e' / 2 - k - 1)

/-- Comparison of two values that are no NaN. -/
def FVal.lt : FVal → FVal → Bool
  | .inf a, .inf b => a && !b
  | .inf a, .fin _ _ _ => a
  | .fin _ _ _, .inf b => !b
  | .fin na ma ea, .fin nb mb eb =>
    let e := min ea eb
    let a : Int := ma * 2 ^ (ea - e).toNat
    let b : Int := mb * 2 ^ (eb - e).toNat
    decide ((if na then -a else a) < (if nb then -b else b))
  | _, _ => false

/-- Whether a value is negative by its sign. -/
def FVal.sign : FVal → Bool
  | .nan _ => false
  | .inf n => n
  | .fin n _ _ => n

/-- The lesser (or greater) of two encodings, bit for bit (R109). -/
def FFmt.minmax (F : FFmt) (greater : Bool) (x y : Nat) : Nat × Flags :=
  let a := F.decode x
  let b := F.decode y
  let fl := snanFlags [a, b]
  if a.isNan && b.isNan then (F.cnan, fl)
  else if a.isNan then (y, fl)
  else if b.isNan then (x, fl)
  else
    let aLess := a.lt b || (!b.lt a && a.sign && !b.sign)
    (if aLess != greater then x else y, fl)

/-- Comparison flags: any NaN is invalid for an ordering; only a signalling one for equality (R108, R230). -/
def FFmt.cmpEq (F : FFmt) (x y : Nat) : Bool × Flags :=
  let a := F.decode x
  let b := F.decode y
  if a.isNan || b.isNan then (false, snanFlags [a, b]) else (!a.lt b && !b.lt a, 0)

/-- a < b, or a ≤ b, as floats; `quietNv`: a quiet NaN is invalid too (R108; not in an f8 lane, R230). -/
def FFmt.cmpLt (F : FFmt) (orEq : Bool) (x y : Nat) : Bool × Flags :=
  let a := F.decode x
  let b := F.decode y
  if a.isNan || b.isNan then (false, flagIf F.snan fNv)
  else (if orEq then !b.lt a else a.lt b, 0)

/-- A value rounded to an integer under a mode: the integer, and whether it is exact. -/
def toInteger (mode : BitVec 2) (neg : Bool) (m : Nat) (e : Int) : Int × Bool :=
  let (n, exact) := roundAt mode neg m e 0
  (if neg then -(n : Int) else n, exact)

/-- Conversion of a value to an integer between two bounds (R68). -/
def floatToInt (mode : BitVec 2) (lo hi : Int) (x : FVal) : Int × Flags :=
  match x with
  | .nan _ => (0, fNv)
  | .inf n => (if n then lo else hi, fNv)
  | .fin n m e =>
    let (v, exact) := toInteger mode n m e
    if v < lo then (lo, fNv) else if v > hi then (hi, fNv) else (v, flagIf (!exact) fNx)

/-- Conversion of an integer to the format (R69). -/
def FFmt.ofInt (F : FFmt) (mode : BitVec 2) (v : Int) : Nat × Flags :=
  F.round mode (decide (v < 0)) v.natAbs 0

/-- An integer clamped between two bounds; `sat` when clamped (R70, R95). -/
def saturate (lo hi v : Int) : Int × Flags :=
  if v < lo then (lo, fSat) else if v > hi then (hi, fSat) else (v, 0)

/-- The least and greatest value of a two's complement format of w bits (R47). -/
def iLo (w : Nat) : Int := -(2 ^ (w - 1) : Nat)
/-- The greatest value of a two's complement format. -/
def iHi (w : Nat) : Int := (2 ^ (w - 1) : Nat) - 1
/-- The greatest value of a natural format. -/
def nHi (w : Nat) : Int := (2 ^ w : Nat) - 1

/-- The low w bits as a two's complement value (R47). -/
def sval (w x : Nat) : Int := if x % 2 ^ w < 2 ^ (w - 1) then (x % 2 ^ w : Nat) else (x % 2 ^ w : Nat) - (2 ^ w : Nat)

/-- An integer as its low w bits. -/
def wrap (w : Nat) (v : Int) : Nat := (v % (2 ^ w : Nat)).toNat

/-- One element of a decoded q4x quad: an ordinary integer or an f8e4 outlier (R50). -/
inductive QElem where
  | int (v : Int)
  | out (enc : Nat)
  deriving DecidableEq, Repr

/-- Decoding a quad: its four elements, and whether it is malformed (R50). -/
def decodeQuad (q : Nat) : List QElem × Flags :=
  let e0 := q % 16
  let e1 := q / 16 % 16
  let e2 := q / 256 % 16
  let e3 := q / 4096 % 16
  let ord (e : Nat) : QElem := .int (if e = 8 then 0 else sval 4 e)
  if e0 = 8 ∧ e3 = 8 then ([.int 0, .int 0, .int 0, .int 0], fFmt)
  else if e0 = 8 then ([.out (e2 * 16 + e1), .int 0, .int 0, ord e3], 0)
  else if e3 = 8 then ([ord e0, .int 0, .int 0, .out (e2 * 16 + e1)], 0)
  else ([ord e0, ord e1, ord e2, ord e3], 0)

/-- The value of a quad's element (R50, R51). -/
def QElem.val : QElem → FVal
  | .int v => .fin (decide (v < 0)) v.natAbs 0
  | .out e => f8e4.decode e

end Sys2Proof.Machine
end

