-- ==== Sys2Proof/WellFormed.lean ====
section
/-! DEFINITION. Which words are instructions by their own fields, whoever issues them: register codes (R33, R99), widths
(R96), conditions (R86, R103), status numbers (R40), vector specifiers and types (R78, R79, R226 to R246), selectors
(R194, R195), tested one check each. What depends on the issuer (R34, R77, R282, R321) stands in Machine/Operands.lean. -/

namespace Sys2Proof

/-- A code that may be read: a g-code, `zr`, `qin` or `lr` (R33). -/
def genSrc (r : BitVec 7) : Bool := decide (r.toNat < 122) || r == 123

/-- A code that may be written: a g-code, `zr`, `qout` or `lr` (R33). -/
def genDst (r : BitVec 7) : Bool := decide (r.toNat < 121) || r == 122 || r == 123

/-- A code that may be both read and written: a g-code, `zr` or `lr` (R33, R90, R185). -/
def genRw (r : BitVec 7) : Bool := decide (r.toNat < 121) || r == 123

/-- A pair destination: even from 0 to 118, or `zr` (R99). -/
def pairDst (r : BitVec 7) : Bool := r == 120 || (r.toNat % 2 == 0 && decide (r.toNat ≤ 118))

/-- A number that `mfs` may name (R40). -/
def statusNo (n : BitVec 7) : Bool := decide (n.toNat < 10) || decide (16 ≤ n.toNat ∧ n.toNat < 32)

/-- A number that `mts` may name (R40). -/
def statusW (n : BitVec 7) : Bool := n == 4 || n == 5 || decide (16 ≤ n.toNat ∧ n.toNat < 32)

/-- A source specifier: v, x, c or the zero vector (R78). -/
def vSrc (s : BitVec 6) : Bool := decide (s.toNat < 45)

/-- A destination specifier: v or x (R78). -/
def vDst (s : BitVec 6) : Bool := decide (s.toNat < 40)

/-- A specifier that must be a v-code (R233, R244). -/
def vCode (s : BitVec 6) : Bool := decide (s.toNat < 32)

/-- The destination of a pair result: an even v-code, or x (R216). -/
def vPairDst (s : BitVec 6) : Bool := vDst s && (decide (32 ≤ s.toNat) || s.toNat % 2 == 0)

/-- An integer type code (R79). -/
def intTy (t : BitVec 3) : Bool := decide (t.toNat < 3)

/-- The lane width of a type in bytes (R215). -/
def laneBytes (t : BitVec 3) : Nat :=
  match t.toNat with
  | 0 => 1
  | 1 => 2
  | 2 => 4
  | 3 => 1
  | 4 => 1
  | 5 => 2
  | 6 => 2
  | _ => 4

/-- A part below the ratio of the two lane widths (R234). -/
def cvtPart (s t : BitVec 3) (p : BitVec 2) : Bool :=
  decide (p.toNat < max (laneBytes s) (laneBytes t) / min (laneBytes s) (laneBytes t))

/-- Whether a word's own fields make it an instruction; a step without a word has none to check. -/
def Instr.wf : Instr → Bool
  | .add d a b => genDst d && genSrc a && genSrc b
  | .sub d a b => genDst d && genSrc a && genSrc b
  | .and d a b => genDst d && genSrc a && genSrc b
  | .or d a b => genDst d && genSrc a && genSrc b
  | .xor d a b => genDst d && genSrc a && genSrc b
  | .andn d a b => genDst d && genSrc a && genSrc b
  | .orn d a b => genDst d && genSrc a && genSrc b
  | .sll d a b => genDst d && genSrc a && genSrc b
  | .srl d a b => genDst d && genSrc a && genSrc b
  | .sra d a b => genDst d && genSrc a && genSrc b
  | .slt d a b => genDst d && genSrc a && genSrc b
  | .sltn d a b => genDst d && genSrc a && genSrc b
  | .min d a b => genDst d && genSrc a && genSrc b
  | .max d a b => genDst d && genSrc a && genSrc b
  | .minn d a b => genDst d && genSrc a && genSrc b
  | .maxn d a b => genDst d && genSrc a && genSrc b
  | .adds d a b => genDst d && genSrc a && genSrc b
  | .subs d a b => genDst d && genSrc a && genSrc b
  | .addsn d a b => genDst d && genSrc a && genSrc b
  | .subsn d a b => genDst d && genSrc a && genSrc b
  | .clz d a => genDst d && genSrc a
  | .ctz d a => genDst d && genSrc a
  | .popc d a => genDst d && genSrc a
  | .brev d a => genDst d && genSrc a
  | .bswap d a => genDst d && genSrc a
  | .rol d a b => genDst d && genSrc a && genSrc b
  | .ror d a b => genDst d && genSrc a && genSrc b
  | .sext d a w => genDst d && genSrc a && decide (1 ≤ w.toNat ∧ w.toNat ≤ 63)
  | .zext d a w => genDst d && genSrc a && decide (1 ≤ w.toNat ∧ w.toNat ≤ 63)
  | .mul d a b _ => pairDst d && genSrc a && genSrc b
  | .div d a b _ => pairDst d && genSrc a && genSrc b
  | .addi d a _ => genDst d && genSrc a
  | .andi d a _ => genDst d && genSrc a
  | .ori d a _ => genDst d && genSrc a
  | .xori d a _ => genDst d && genSrc a
  | .slli d a _ => genDst d && genSrc a
  | .srli d a _ => genDst d && genSrc a
  | .srai d a _ => genDst d && genSrc a
  | .rori d a _ => genDst d && genSrc a
  | .slti d a _ => genDst d && genSrc a
  | .sltni d a _ => genDst d && genSrc a
  | .cmp a b c _ s e => genSrc a && genSrc b && decide (c.toNat < 8) && (s != 0 || e == 0)
  | .cmpi a _ c _ s e => genSrc a && decide (c.toNat < 8) && (s != 0 || e == 0)
  | .pand _ _ _ => true
  | .por _ _ _ => true
  | .pxor _ _ _ => true
  | .pandn _ _ _ => true
  | .porn _ _ _ => true
  | .pnot _ _ => true
  | .mfp d => genDst d
  | .mtp a b => genSrc a && genSrc b
  | .sel d a b _ => genDst d && genSrc a && genSrc b
  | .fadd d a b => genDst d && genSrc a && genSrc b
  | .fsub d a b => genDst d && genSrc a && genSrc b
  | .fmul d a b => genDst d && genSrc a && genSrc b
  | .fdiv d a b => genDst d && genSrc a && genSrc b
  | .fmac d a b => genRw d && genSrc a && genSrc b
  | .fsqrt d a => genDst d && genSrc a
  | .fmin d a b => genDst d && genSrc a && genSrc b
  | .fmax d a b => genDst d && genSrc a && genSrc b
  | .fabs d a => genDst d && genSrc a
  | .fneg d a => genDst d && genSrc a
  | .feq d a b => genDst d && genSrc a && genSrc b
  | .flt d a b => genDst d && genSrc a && genSrc b
  | .fle d a b => genDst d && genSrc a && genSrc b
  | .fcvtI d a => genDst d && genSrc a
  | .fcvtN d a => genDst d && genSrc a
  | .icvtF d a => genDst d && genSrc a
  | .ncvtF d a => genDst d && genSrc a
  | .br _ => true
  | .call _ => true
  | .bp _ _ => true
  | .bpn _ _ => true
  | .jr a => genSrc a
  | .jalr d a => genDst d && genSrc a
  | .ret => true
  | .enter _ => true
  | .leave _ => true
  | .fork _ a _ => genSrc a
  | .forkRCarry8 _ a _ => genSrc a
  | .forkRCarry16 _ a _ => genSrc a
  | .forkRCarry24 _ a _ => genSrc a
  | .join a => genSrc a
  | .exit a => genSrc a
  | .yield => true
  | .ld d b _ _ _ => genDst d && genSrc b
  | .lds d b _ z _ => genDst d && genSrc b && z != 3
  | .st s b _ _ => genSrc s && genSrc b
  | .ldf d b _ _ => genDst d && genSrc b
  | .ldt d b _ _ => genDst d && genSrc b
  | .stf s b _ => genSrc s && genSrc b
  | .stp s b _ => genSrc s && genSrc b
  | .stempty b _ => genSrc b
  | .cas d a b _ => genRw d && genSrc a && genSrc b
  | .xadd d a b _ => genRw d && genSrc a && genSrc b
  | .tlk d a => genDst d && genSrc a
  | .tfill _ a b => genSrc a && genSrc b
  | .tevict a => genSrc a
  | .tinval a => genSrc a
  | .wba d _ b => genDst d && genSrc b
  | .wrd d _ s => genDst d && decide (s.toNat < 4)
  | .chkR _ a c => genSrc a && decide (c.toNat ≤ 9)
  | .chkW _ a c => genSrc a && decide (c.toNat ≤ 9)
  | .chkRw _ a c => genSrc a && decide (c.toNat ≤ 9)
  | .fenceCore => true
  | .fenceCluster => true
  | .fenceDie => true
  | .fencePackage => true
  | .fenceGroup => true
  | .barArrive d a => genDst d && genSrc a
  | .barWait a b => genSrc a && genSrc b
  | .rcnt d => genDst d
  | .rfree d => genDst d
  | .reosDn => true
  | .reosUp => true
  | .mxIssue a => genSrc a
  | .mxIssueMeta a _ => genSrc a
  | .mxWait => true
  | .vxSync => true
  | .cpReq a b => genSrc a && genSrc b
  | .tspawn d a _ => genDst d && genSrc a
  | .tstat d a => genDst d && genSrc a
  | .nop => true
  | .trap a _ => genSrc a
  | .brk => true
  | .mfs d n => genDst d && statusNo n
  | .mts a n => genSrc a && statusW n
  | .vadd d a b t => vDst d && vSrc a && vSrc b && intTy t
  | .vsub d a b t => vDst d && vSrc a && vSrc b && intTy t
  | .vmul d a b t => vDst d && vSrc a && vSrc b && intTy t
  | .vmulh d a b t => vDst d && vSrc a && vSrc b && intTy t
  | .vmin d a b t => vDst d && vSrc a && vSrc b && intTy t
  | .vmax d a b t => vDst d && vSrc a && vSrc b && intTy t
  | .vminn d a b t => vDst d && vSrc a && vSrc b && intTy t
  | .vmaxn d a b t => vDst d && vSrc a && vSrc b && intTy t
  | .vadds d a b t => vDst d && vSrc a && vSrc b && intTy t
  | .vsubs d a b t => vDst d && vSrc a && vSrc b && intTy t
  | .vaddsn d a b t => vDst d && vSrc a && vSrc b && intTy t
  | .vsubsn d a b t => vDst d && vSrc a && vSrc b && intTy t
  | .vabs d a t => vDst d && vSrc a && intTy t
  | .vneg d a t => vDst d && vSrc a && intTy t
  | .vshl d a b t => vDst d && vSrc a && vSrc b && intTy t
  | .vshr d a b t => vDst d && vSrc a && vSrc b && intTy t
  | .vsra d a b t => vDst d && vSrc a && vSrc b && intTy t
  | .vdot d a b t => vDst d && vSrc a && vSrc b && decide (t.toNat < 2)
  | .vwadd d a b t => vPairDst d && vSrc a && vSrc b && decide (t.toNat < 2)
  | .vwmul d a b t => vPairDst d && vSrc a && vSrc b && decide (t.toNat < 2)
  | .vfadd d a b t => vDst d && vSrc a && vSrc b && !intTy t
  | .vfsub d a b t => vDst d && vSrc a && vSrc b && !intTy t
  | .vfmul d a b t => vDst d && vSrc a && vSrc b && !intTy t
  | .vfdiv d a b t => vDst d && vSrc a && vSrc b && !intTy t
  | .vfmac d a b t => vDst d && vSrc a && vSrc b && !intTy t
  | .vfmin d a b t => vDst d && vSrc a && vSrc b && !intTy t
  | .vfmax d a b t => vDst d && vSrc a && vSrc b && !intTy t
  | .vfabs d a t => vDst d && vSrc a && !intTy t
  | .vfneg d a t => vDst d && vSrc a && !intTy t
  | .vfsqrt d a t => vDst d && vSrc a && !intTy t
  | .vfscl d a b t => vDst d && vSrc a && vSrc b && !intTy t
  | .vceq d a b _ => vDst d && vSrc a && vSrc b
  | .vclt d a b _ => vDst d && vSrc a && vSrc b
  | .vcle d a b _ => vDst d && vSrc a && vSrc b
  | .vcltn d a b t => vDst d && vSrc a && vSrc b && intTy t
  | .vand d a b => vDst d && vSrc a && vSrc b
  | .vor d a b => vDst d && vSrc a && vSrc b
  | .vxor d a b => vDst d && vSrc a && vSrc b
  | .vandn d a b => vDst d && vSrc a && vSrc b
  | .vsel d a b => vDst d && vSrc a && vSrc b
  | .vcvt d a n p s t => vDst d && vSrc a && cvtPart s t p && (n == 0 || intTy s)
  | .vcvtn d a n p s t => vDst d && vSrc a && cvtPart s t p && (n == 0 || intTy s) && intTy t
  | .vcvt4 d a _ p t => vDst d && vSrc a && decide (p.toNat < 2 * laneBytes t)
  | .vpack4 d a b => vCode d && vSrc a && vSrc b
  | .vunpk4 d a p t => vDst d && vSrc a && decide (p.toNat < 2 * laneBytes t)
  | .vquant g d a gx b t => vSrc a && !intTy t && !(g == 1 && gx == 1) && d != b
  | .vprune24 d a b _ => vSrc a && d != b
  | .vprune48 d a b _ => vSrc a && d != b
  | .vradd d a _ => vDst d && vSrc a
  | .vrmax d a _ => vDst d && vSrc a
  | .vrmin d a _ => vDst d && vSrc a
  | .vperm d a b _ => vDst d && vSrc a && vSrc b
  | .vrot d a b _ => vDst d && vSrc a && vSrc b
  | .vtld d a b _ => vDst d && vSrc a && vSrc b
  | .vswap d a => vDst d && vSrc a
  | .vld d g => vDst d && genSrc g
  | .vst d g => vSrc d && genSrc g
  | .vmovg d a _ _ => genDst d && vCode a
  | .vmovv d g _ _ => vCode d && genSrc g
  | .vmovx _ g => genSrc g
  | .vmovfx d _ => genDst d
  | .dadd _ _ _ _ => true
  | .dsub _ _ _ _ => true
  | .dmul _ _ _ _ => true
  | .dmax _ _ _ _ => true
  | .dmin _ _ _ _ => true
  | .dneg _ _ _ => true
  | .dld _ g _ => genSrc g
  | .dst _ g => genSrc g
  | .dmk _ g _ => genSrc g
  | .dtag _ _ g _ => genSrc g
  | .dsplat _ g _ => genSrc g
  | .dmomV _ _ _ _ => true
  | .dmomG _ g _ _ => genRw g
  | .dqntV _ _ g _ => genSrc g
  | .dqntG _ g _ => genRw g
  | .cpStart a b => genSrc a && genSrc b
  | .cpAbort b => genSrc b
  | .cpWait b => genSrc b
  | .cpStatSt d b => genDst d && genSrc b
  | .cpStatWm d b => genDst d && genSrc b
  | .cpStatBc d b => genDst d && genSrc b
  | .cpStatNb d b => genDst d && genSrc b
  | .cpMbox d _ => pairDst d
  | .cpEv d _ => pairDst d
  | .cpHalt => true
  | .immHi _ => true
  | .rlx => true
  | .rep _ c _ => genRw c
  | .ckpt => true
  | .valueArrival _ => true
  | .storeAcknowledge _ => true
  | .remoteRequest _ => true
  | .hbmAccess _ => true
  | .atomicPerform _ => true
  | .feWaiterRetry _ => true
  | .waitTableRetry _ => true
  | .strandAdmission _ => true
  | .frameSpill _ => true
  | .frameRefill _ _ => true
  | .distributionEngineRelease _ => true
  | .vectorStart _ => true
  | .vectorComplete _ => true
  | .channelVectorArrival _ _ => true
  | .vswapVectorArrival _ => true
  | .matrixHeadCheck _ => true
  | .matrixGateTest _ => true
  | .mma _ => true
  | .mmas _ => true
  | .tzero _ => true
  | .tload _ => true
  | .tstore _ => true
  | .tscale _ => true
  | .smma24 _ => true
  | .smma48 _ => true
  | .gather _ => true
  | .gmma _ => true
  | .remoteOperandChunkArrival _ => true
  | .gatherChunkLanding _ _ => true
  | .matrixCommandComplete _ => true
  | .copyChunkIssue _ => true
  | .copyChunkLanding _ _ _ => true
  | .copyStageReleased _ _ => true
  | .copyIterationLanded _ _ => true
  | .copyCommandComplete _ _ => true
  | .copyAbortComplete _ _ => true
  | .streamBlockRead _ _ => true
  | .streamBlockDeliver _ _ _ => true
  | .streamBlockRelease _ _ => true
  | .rillValueLanding _ => true
  | .rillCreditReturn _ => true
  | .rillCloseNotice _ => true
  | .cascadeCheckpoint _ => true
  | .lockstepCheckpoint _ => true
  | .lockstepMismatch _ => true
  | .stealRequest _ => true
  | .stealReply _ => true
  | .stealBackoffExpiry _ => true
  | .migrationDeparture _ _ => true
  | .contextMessage _ => true
  | .migrationRefusal _ => true
  | .migrationResend _ => true
  | .migrationAcceptance _ => true
  | .contextSpill _ => true
  | .contextRefill _ => true
  | .forwardingEntryExpiry _ => true
  | .forwardedMessage _ _ => true
  | .tspawnRequest _ => true
  | .tstatRequest _ => true
  | .regulatorAnswer _ => true
  | .doorbell _ _ _ => true
  | .launchRecordRead _ _ => true
  | .taskRelease _ => true
  | .gangPlacement _ _ => true
  | .startMessage _ => true
  | .spawnMessage _ _ => true
  | .taskCompletion _ => true
  | .granuleStep _ => true
  | .cisternCommit _ => true
  | .completionRecord _ => true
  | .completionHead _ _ _ => true
  | .fenceWait _ _ _ _ => true
  | .fenceWaitTimeout _ => true
  | .taskRetirement _ => true
  | .taskStop _ => true
  | .faultRecordWrite _ => true
  | .sliceExpiry _ => true
  | .quiescenceComplete _ => true
  | .quiescenceCancel _ => true
  | .quiescenceRetry _ => true
  | .taskResume _ => true
  | .compactionEntryWrite _ => true
  | .rekeySweepStep _ => true
  | .clusterRetirementEffect _ => true
  | .channelRetirementEffect _ _ => true
  | .hostTransferChunk _ => true
  | .groupSendSlotTake _ => true
  | .collectiveChunkReceive _ => true
  | .collectiveChunkAck _ _ _ => true
  | .packageReset _ => true
  | .reducedServiceStart => true
  | .clusterSelfTestResult _ _ => true
  | .fullServiceSwitch => true
  | .thermalThrottle _ => true
  | .thermalTrip _ => true
  | .powerWindowExpiry _ => true
  | .refresh _ => true
  | .linkLayerRetry _ => true
  | .linkTraining _ => true
  | .patrolScrub _ => true
  | .uncorrectableData _ => true
  | .gangCoreUncorrectableError _ _ _ => true
  | .statusRead _ => true
  | .ownershipClaim _ => true
  | .ownershipHandover _ _ => true
  | .handoverAck _ => true
  | .handoverLapse => true
  | .keepalive _ => true
  | .ownershipLoss => true
  | .tenantCreate _ _ _ _ => true
  | .launchQueueCreate _ _ _ _ => true
  | .fenceCreate _ _ _ => true
  | .faultRingRegister _ _ _ => true
  | .faultSlotFree _ _ _ => true
  | .regionCreate _ _ => true
  | .regionFree _ _ => true
  | .regionRevoke _ _ => true
  | .regionQuery _ _ => true
  | .regionCompact _ _ _ => true
  | .regionRekey _ _ => true
  | .incompleteMarkClear _ _ => true
  | .memoryWindowInstall _ _ _ _ => true
  | .partitionRecordInstall _ _ => true
  | .sliceSet _ _ _ => true
  | .powerCapSet _ _ => true
  | .methodEntryInstall _ _ _ => true
  | .imageInstall _ _ _ => true
  | .translation _ => true
  | .revocationListInstall _ _ => true
  | .linkDomainCreate _ _ => true
  | .linkDomainDelete _ _ => true
  | .landingBind _ _ _ _ _ => true
  | .keyInstall _ _ _ => true
  | .keyDestroy _ _ => true
  | .clusterRetire _ _ => true
  | .channelRetire _ _ _ => true
  | .returnToService _ _ => true
  | .portSplit _ _ => true
  | .viewInstall _ _ => true
  | .rosterInstall _ _ => true
  | .groupSendQueueBind _ _ _ _ _ => true
  | .migrationRound _ _ => true
  | .migrationFinalRound _ _ => true
  | .attestationReport _ _ _ _ => true
  | .tagFillLanding _ => true
  | .throttlingEnd _ => true

end Sys2Proof
end

