-- ==== Sys2Proof/Machine/Ops.lean ====
section
/-! DEFINITION. The named operations of the machine: the address space (R14 to R20), bytes of memory and what a write does
beside them (R165, R170, R213, R409), full/empty bits (R170, R171), cores, strands and tasks, raising a fault (R122, R123),
ending a word (R81, R89, R90), pending entries (R82), accesses in flight (R179, R182, R384), chunk checks (R26). -/

namespace Sys2Proof.Machine

/-! ### Numbers and fields -/

/-- Bits lo+len-1 : lo of a bit vector, as a number. -/
def bits {w : Nat} (x : BitVec w) (lo len : Nat) : Nat := x.toNat / 2 ^ lo % 2 ^ len

/-- One bit of a bit vector. -/
def bit1 {w : Nat} (x : BitVec w) (lo : Nat) : Bool := bits x lo 1 == 1

/-- The least significant bits of a value as a signed number. -/
def sbits {w : Nat} (x : BitVec w) (lo len : Nat) : Int := sval len (bits x lo len)

/-- A field of `len` bits at `lo` set to a value. -/
def setBits {w : Nat} (x : BitVec w) (lo len v : Nat) : BitVec w :=
  BitVec.ofNat w (x.toNat - bits x lo len * 2 ^ lo + v % 2 ^ len * 2 ^ lo)

/-- The little-endian number of bytes (R8). -/
def leNat : List Byte → Nat
  | [] => 0
  | b :: r => b.toNat + 256 * leNat r

/-- The little-endian bytes of a number (R8). -/
def leBytes : Nat → Nat → List Byte
  | 0, _ => []
  | n + 1, v => BitVec.ofNat 8 v :: leBytes n (v / 256)

/-- An address sum modulo 2^48 (R14). -/
def addr48 (v : Int) : Nat := (v % (2 ^ 48 : Int)).toNat

/-- The address that a register value names: bits 47:0 (R14). -/
def addrOf (w : Word) : Nat := w.toNat % 2 ^ 48

/-- A word of 64 bits from a number. -/
def w64 (n : Nat) : Word := BitVec.ofNat 64 n

/-! ### The address space (R15 to R19) -/

/-- The first address of device-reserved HBM (R15). -/
def reservedBase : Nat := 0xFC00000000
/-- The first scratchpad slot (R15, R18). -/
def spadBase : Nat := 0x10000000000
/-- The first unmapped address (R15). -/
def spadEnd : Nat := 0x10140000000

/-- Whether an address lies in a scratchpad slot. -/
def isSpad (a : Nat) : Bool := decide (spadBase ≤ a) && decide (a < spadEnd)
/-- Whether an address lies in HBM. -/
def isHbm (a : Nat) : Bool := decide (a < spadBase)
/-- The core whose slot holds a scratchpad address (R18). -/
def slotOf (a : Nat) : Nat := (a - spadBase) / 2 ^ 21
/-- The slot offset of a scratchpad address (R18). -/
def offOf (a : Nat) : Nat := a % 2 ^ 21
/-- The first address of a core's slot (R18). -/
def slotBase (g : Nat) : Nat := spadBase + g * 2 ^ 21
/-- The stack that holds an HBM address (R17). -/
def stackOf (a : Nat) : Nat := a / 4096 % 16
/-- The bank that serves an address: an HBM stack, or a bank of a core's scratchpad (R160, R384). -/
def bankOf (a : Nat) : Nat := if isHbm a then stackOf a else 16 + slotOf a * 4 + offOf a / 2 ^ 19

/-- The die, the cluster 40d + c and the core number within the cluster of a gcn. -/
def dieOf (g : Nat) : Nat := g / 640
/-- The cluster of a core. -/
def clusterOf (g : Nat) : Nat := g / 16
/-- The core number within its cluster. -/
def kOf (g : Nat) : Nat := g % 16

/-- The core record of a gcn. -/
def coreAt (s : State) (g : Nat) : Core := kget s.cores g Core.idle

/-- A core's record replaced by a function of it. -/
def updCore (s : State) (g : Nat) (f : Core → Core) : State :=
  { s with cores := kset s.cores g (f (coreAt s g)) }

/-- A core of a disabled or retired cluster (R3, R462). -/
def coreDisabled (s : State) (g : Nat) : Bool :=
  s.disabled.contains (clusterOf g) || s.retired.contains (clusterOf g)

/-- Whether a lock-step task holds a core or, for an odd core, its leader (R210). -/
def lockHeld (s : State) (g : Nat) : Bool :=
  (coreAt s g).lock.isSome || (g % 2 == 1 && (coreAt s (g - 1)).lock.isSome)

/-- The greatest number of channels of a list, by stack and channel, in one stack (R463). -/
def mostChans (l : List (Nat × Nat)) : Nat :=
  (List.range 16).foldl (fun k st => max k (l.filter fun p => p.1 == st).length) 0

/-- The end of tenant-allocatable HBM: 32 GiB less for each retired channel of the stack with most (R15, R463). -/
def allocTop (s : State) : Nat := reservedBase - mostChans s.chanRetired * 2 ^ 35

/-- An address that behaves as a hole: unmapped, withheld, unpopulated, of a disabled core, in a window-stack area, in the
spill area of a core in use, or in the checkpoint area of a lock-step core (R19, R115, R212, R318, R377, R463). -/
def holeAt (s : State) (a : Nat) : Bool :=
  if a < spadBase then !s.chanRetired.isEmpty && decide (allocTop s ≤ a) && decide (a < reservedBase)
  else if spadEnd ≤ a then true
  else
    let g := slotOf a
    let o := offOf a
    decide (0x140000 ≤ o) || coreDisabled s g ||
    (decide (0x13C000 ≤ o) && (coreAt s g).task.isSome) ||
    (decide (0x100000 ≤ o) && lockHeld s g)

/-! ### Bytes of memory -/

/-- The byte at an address: what is listed, or 0. -/
def Memory.get : Memory → Nat → Byte
  | [], _ => 0
  | (k, b) :: r, a => if a = k then b else Memory.get r a

/-- The memory with one byte written; a zero byte is not listed. -/
def Memory.set : Memory → Nat → Byte → Memory
  | [], a, v => if v = 0 then [] else [(a, v)]
  | (k, b) :: r, a, v =>
    if a < k then (if v = 0 then (k, b) :: r else (a, v) :: (k, b) :: r)
    else if a = k then (if v = 0 then r else (a, v) :: r)
    else (k, b) :: Memory.set r a v

/-- All keys of a memory lie above a bound. -/
def Memory.above (n : Nat) : Memory → Bool
  | [] => true
  | (k, _) :: r => decide (n < k) && Memory.above n r

/-- The canonical form: addresses strictly rising, no zero byte listed. -/
def Memory.wf : Memory → Bool
  | [] => true
  | (k, b) :: r => decide (b ≠ 0) && Memory.above k r && Memory.wf r

/-- Consecutive bytes written into a memory. -/
def Memory.setBytes (m : Memory) (a : Nat) : List Byte → Memory
  | [] => m
  | b :: r => Memory.setBytes (Memory.set m a b) (a + 1) r

/-- n bytes from an address that a function gives, in place of what a memory holds there. -/
def Memory.fill (m : Memory) (a n : Nat) (f : Nat → Byte) : Memory :=
  m.filter (fun p => decide (p.1 < a)) ++
  (((List.range n).map fun i => (a + i, f (a + i))).filter fun p => p.2 != 0) ++ m.filter fun p => decide (a + n ≤ p.1)

/-- A byte as an access reads it: 0 in a hole (R19). -/
def readByte (s : State) (a : Nat) : Byte :=
  let a := a % 2 ^ 48
  if holeAt s a then 0 else Memory.get s.mem a

/-- n bytes from an address, modulo 2^48 (R14, R19). -/
def readBytes (s : State) (a : Nat) : Nat → List Byte
  | 0 => []
  | n + 1 => readByte s a :: readBytes s (a + 1) n

/-- An n-byte little-endian value (R8). -/
def readVal (s : State) (a n : Nat) : Nat := leNat (readBytes s a n)

/-- A 512-byte operand. -/
def readVec (s : State) (a : Nat) : Vec := BitVec.ofNat 4096 (readVal s a 512)

/-- Whether some of n bytes lies in a hole. -/
def anyHole (s : State) (a : Nat) : Nat → Bool
  | 0 => false
  | n + 1 => holeAt s (a % 2 ^ 48) || anyHole s (a + 1) n

/-- The aligned word that holds an address. -/
def wordOf (a : Nat) : Nat := a / 8 * 8

/-- The addresses of the words that n bytes touch, modulo 2^48 (R14). -/
def wordsOf (a n : Nat) : List Nat :=
  if n = 0 then [] else (List.range ((a + n - 1) / 8 - a / 8 + 1)).map fun i => (a / 8 + i) * 8 % 2 ^ 48

/-- Whether n bytes cover a whole word (R409). -/
def covers (a n w : Nat) : Bool := decide (a ≤ w) && decide (w + 8 ≤ a + n)

/-- Whether a word is poisoned (R409); one in a hole reads as zero and raises nothing (R19). -/
def wordBad (s : State) (w : Nat) : Bool := s.poison.contains w && !holeAt s w

/-- Whether n bytes touch a poisoned word (R409). -/
def poisonedIn (s : State) (a n : Nat) : Bool := (wordsOf a n).any (wordBad s)

/-- The first poisoned word that n bytes touch. -/
def poisonedAt (s : State) (a n : Nat) : Nat := ((wordsOf a n).find? (wordBad s)).getD 0

/-- The valid bit of a tag-table entry (R164). -/
def tagValid (e : Word) : Bool := bit1 e 63
/-- The dirty bit of a tag-table entry. -/
def tagDirty (e : Word) : Bool := bit1 e 62
/-- The window field. -/
def tagWin (e : Word) : Nat := bits e 57 4
/-- The local-line field: slot offset bits 20:8. -/
def tagLocal (e : Word) : Nat := bits e 40 13
/-- The source field: source address bits 47:8. -/
def tagSrc (e : Word) : Nat := bits e 0 40

/-- A tag-table entry marked dirty if n bytes at a slot offset touch its local line (R165). -/
def dirtyEntry (o n : Nat) (p : Nat × Word) : Nat × Word :=
  if tagValid p.2 && decide (o / 256 ≤ tagLocal p.2) && decide (tagLocal p.2 ≤ (o + n - 1) / 256)
  then (p.1, p.2 ||| (1 <<< 62 : Word)) else p

/-- The cores whose slots n bytes at an address touch. -/
def touchedSlots (a n : Nat) : List Nat :=
  let lo := max a spadBase
  let hi := min (a + n) spadEnd
  if hi ≤ lo then [] else (List.range (slotOf (hi - 1) + 1 - slotOf lo)).map fun i => slotOf lo + i

/-- The part of n bytes at an address that lies in a core's slot: its start and its length. -/
def partIn (g a n : Nat) : Nat × Nat :=
  let lo := max a (slotBase g)
  (lo, min (a + n) (slotBase (g + 1)) - lo)

/-- The lines of one core that bytes from an address touch are marked dirty in its tag table (R165). -/
def markDirtyOf (a n : Nat) (s : State) (g : Nat) : State :=
  if (coreAt s g).tagTab = [] then s else
  let p := partIn g a n
  updCore s g fun c => { c with tagTab := c.tagTab.map (dirtyEntry (offOf p.1) p.2) }

/-- The lines that bytes from `a` touch are marked dirty, on every core whose slot they touch (R165). -/
def markDirty (s : State) (a n : Nat) : State := (touchedSlots a n).foldl (markDirtyOf a n) s

/-- The poisoned words of a granule, on both scratchpads of a lock-step pair (R210). -/
def badInGranule (s : State) (gr : Nat) : List Nat := s.poison.filter fun w => w / 64 * 64 == gr || w / 64 * 64 == gr + 2 ^ 21

/-- One granule entered into an undo log with its poison, unless it stands there (R213, R409). -/
def undoGranule (s : State) (l : Lock) (gr : Nat) : Lock :=
  if l.undo.any (fun p => p.1 == gr) then l
  else { l with undo := l.undo ++ [(gr, (List.range 64).map fun j => Memory.get s.mem (gr + j))], bad := l.bad ++ badInGranule s gr }

/-- The undo log of one core, if it leads a lock-step pair, before bytes are written (R213). -/
def logUndoOf (a n : Nat) (s : State) (g : Nat) : State :=
  match (coreAt s g).lock with
  | none => s
  | some l =>
    let p := partIn g a n
    let grs := (List.range ((p.1 + p.2 - 1) / 64 - p.1 / 64 + 1)).map fun i => (p.1 / 64 + i) * 64
    updCore s g fun c => { c with lock := some (grs.foldl (undoGranule s) l) }

/-- The undo log of a lock-step core takes the old bytes of each 64-byte granule at its first write (R213). A full log makes a
checkpoint due (R212); what was already in flight then is still logged. -/
def logUndo (s : State) (a n : Nat) : State := (touchedSlots a n).foldl (logUndoOf a n) s

/-- A tenant's write log with the 64 KiB granules that n bytes at `a` touch, if it migrates and a region of its holds them. -/
def logTenant (s : State) (a n : Nat) (p : Nat × Tenant) : Nat × Tenant :=
  match p.2.migr with
  | none => p
  | some m =>
    if s.regions.any (fun r => r.2.owner == p.1 && r.2.state != 0 && decide (r.2.base < a + n) && decide (a < r.2.base + r.2.extent)) then
      let gs := (List.range ((a + n - 1) / 65536 - a / 65536 + 1)).map fun i => a / 65536 + i
      (p.1, { p.2 with migr := some { m with log := gs.foldl sinsert m.log } })
    else p

/-- A migrating tenant's write log takes the granules that an HBM write touches, modulo 2^48 (R481, R14). -/
def logWrite (s : State) (a n : Nat) : State :=
  if s.tenants.all fun t => t.2.migr.isNone then s
  else if n = 0 then s
  else if isHbm a then { s with tenants := s.tenants.map (logTenant s a n) }
  else if 2 ^ 48 < a + n then { s with tenants := s.tenants.map (logTenant s 0 (a + n - 2 ^ 48)) }
  else s

/-- Bytes put at an address with every byte in a hole discarded; words written whole lose their poison (R19, R409). -/
def pokeBytes (s : State) (a : Nat) (l : List Byte) : State :=
  let m := (List.range l.length).foldl (fun m i =>
    let x := (a + i) % 2 ^ 48
    if holeAt s x then m else Memory.set m x (l.getD i 0)) s.mem
  { s with mem := m, poison := s.poison.filter fun w => !covers a l.length w || holeAt s w }

/-- Bytes in the slot of a core that leads a lock-step pair put at the same offsets of the other core's slot, so that the two
scratchpads hold the same bytes (R210). -/
def mirrorOf (a : Nat) (l : List Byte) (s : State) (g : Nat) : State :=
  if (coreAt s g).lock.isNone then s else
  let p := partIn g a l.length
  pokeBytes s (p.1 + 2 ^ 21) ((l.drop (p.1 - a)).take p.2)

/-- A write carried to the second core of a lock-step pair (R210). -/
def mirrorBytes (s : State) (a : Nat) (l : List Byte) : State := (touchedSlots a l.length).foldl (mirrorOf a l) s

/-- A write by a strand, an engine or a remote party: the bytes, the dirty bits and the migration log (R165, R181, R210, R481). -/
def writeEngine (s : State) (a : Nat) (l : List Byte) : State :=
  logWrite (markDirty (mirrorBytes (pokeBytes s a l) a l) a l.length) a l.length

/-- A write that a lock-step core logs before it (every writer but the copy engine, R213). -/
def writeBytes (s : State) (a : Nat) (l : List Byte) : State :=
  writeEngine (logUndo s a l.length) a l

/-- An n-byte value written (R8). -/
def writeVal (s : State) (a n v : Nat) : State := writeBytes s a (leBytes n v)

/-! ### Full/empty bits (R170) -/

/-- Whether a word's bit is empty. -/
def isEmpty (s : State) (a : Nat) : Bool := s.empties.contains (wordOf a)

/-- A word's bit set full. -/
def setFull (s : State) (a : Nat) : State := { s with empties := sdel s.empties (wordOf a) }

/-- A word's bit set empty. -/
def setEmpty (s : State) (a : Nat) : State := { s with empties := sinsert s.empties (wordOf a) }

/-- The same word of the second core of a lock-step pair, for a word in the slot of the core that leads it (R210). -/
def twinOf (s : State) (a : Nat) : Option Nat :=
  if isSpad a && (coreAt s (slotOf a)).lock.isSome then some (a + 2 ^ 21) else none

/-- Words as both scratchpads of a lock-step pair hold them (R210). -/
def onTwins (s : State) (a : Nat) (f : State → Nat → State) : State :=
  match twinOf s a with
  | none => f s a
  | some b => f (f s a) b

/-- A lock-step pair notes a word's full/empty bit before its first change since the checkpoint, as a rollback leaves no trace
(R213). -/
def noteBit (s : State) (a : Nat) : State :=
  if (twinOf s a).isNone then s else
  let note (l : Lock) : Lock :=
    if l.bits.any fun p => p.1 == wordOf a then l else { l with bits := l.bits ++ [(wordOf a, isEmpty s a)] }
  updCore s (slotOf a) fun c => { c with lock := c.lock.map note }

/-- A word's full/empty bit as a copy chunk's landing leaves it: no rollback changes it (R213: the copy engine is not logged). -/
def forgetBit (s : State) (a : Nat) : State :=
  if (twinOf s a).isNone then s else
  updCore s (slotOf a) fun c => { c with lock := c.lock.map fun l => { l with bits := l.bits.filter fun p => p.1 != wordOf a } }

/-- A word's bit set full by a strand, a matrix unit or a fill. -/
def makeFull (s : State) (a : Nat) : State := onTwins (noteBit s a) a setFull

/-- A word's bit set empty by a strand or a fill. -/
def makeEmpty (s : State) (a : Nat) : State := onTwins (noteBit s a) a setEmpty

/-- Every populated word that n bytes touch, changed by a function. -/
def overWords (s : State) (a n : Nat) (f : State → Nat → State) : State :=
  (wordsOf a n).foldl (fun s w => if holeAt s w then s else f s w) s

/-- Every populated word that n bytes touch set full (R170). -/
def fillWords (s : State) (a n : Nat) : State := overWords s a n makeFull

/-- A landing by a matrix unit: the bytes, and each word full (R170), logged by a lock-step pair (R213). -/
def landLogged (s : State) (a : Nat) (l : List Byte) : State := fillWords (writeBytes s a l) a l.length

/-- A landing by the copy engine, the host or a group's traffic: the bytes, and each word full (R170). -/
def landBytes (s : State) (a : Nat) (l : List Byte) : State :=
  overWords (writeEngine s a l) a l.length fun s w => onTwins (forgetBit s w) w setFull

/-- Bytes that hardware puts into an area of a slot whose layout is not architectural: free values of one write (R212, R327). -/
def scribble (s : State) (a n stamp : Nat) : State :=
  { s with mem := s.mem.fill a n fun b => Config.freeByte stamp (offOf b), poison := s.poison.filter fun w => !covers a n w }

/-! ### Cores, strands, tasks -/

/-- A strand's record replaced by a function of it. -/
def updStrand (s : State) (g sid : Nat) (f : Strand → Strand) : State :=
  updCore s g fun c => match kget? c.strands sid with
    | none => c
    | some t => { c with strands := kset c.strands sid (f t) }

/-- The strand of a core and a slot. -/
def strandAt? (s : State) (g sid : Nat) : Option Strand := kget? (coreAt s g).strands sid

/-- The issuing agent with its core and its registers. -/
structure Iss where
  g : Nat
  sid : Nat
  c : Core
  t : Strand
  deriving DecidableEq, Repr

/-- The agent that `cur` names, if it is resident, not stopped and, for an escapement processor, not halted. -/
def issuer? (s : State) : Option Iss :=
  let c := coreAt s s.cur.gcn
  match kget? c.strands s.cur.slot with
  | none => none
  | some t =>
    if t.stopped || (s.cur.slot == 64 && c.epHalted) then none
    else some { g := s.cur.gcn, sid := s.cur.slot, c := c, t := t }

/-- Whether the issuer is the escapement processor (R279). -/
def Iss.isEp (x : Iss) : Bool := x.sid == 64

/-- A meaning of a word: what it does for the issuer; without one, a refusal. -/
def onIssuer (s : State) (k : Iss → State) : Host.Outcome State Fault Refusal :=
  match issuer? s with
  | none => .refused .noIssuer
  | some x => .next (k x)

/-- A step without a word: its next state where it can happen, else a refusal by its name. -/
def device (row : String) (r : Option State) : Host.Outcome State Fault Refusal :=
  match r with
  | none => .refused (.notEnabled row)
  | some s => .next s

/-- A task's record replaced by a function of it. -/
def updTask (s : State) (k : Nat) (f : Task → Task) : State :=
  match kget? s.tasks k with
  | none => s
  | some t => { s with tasks := kset s.tasks k (f t) }

/-- The task placed on a core. -/
def taskOn (s : State) (g : Nat) : Option Task := (coreAt s g).task.bind (kget? s.tasks)

/-- A field of a task's record (R336). -/
def Task.f (t : Task) (lo len : Nat) : Nat := bits t.record lo len
/-- The debug flag of a task (R336). -/
def Task.debug (t : Task) : Bool := t.f 1702 1 == 1
/-- The lock-step flag. -/
def Task.lockStep (t : Task) : Bool := t.f 1701 1 == 1
/-- The strand cap. -/
def Task.cap (t : Task) : Nat := t.f 1692 7
/-- The cascade checkpoint period; 0 for no cascade. -/
def Task.period (t : Task) : Nat := t.f 1712 16
/-- The number of region records. -/
def Task.nrec (t : Task) : Nat := t.f 1708 4
/-- Region record i as a number of 128 bits (R23). -/
def Task.recBits (t : Task) (i : Nat) : BitVec 128 := BitVec.ofNat 128 (t.f (128 * i) 128)
/-- Whether a task is a handler. -/
def Task.isHandler (t : Task) : Bool := match t.kind with
  | .handler _ => true
  | _ => false
/-- The region records of a task's declared sets with the windows they load: its own, or those that a handler was given (R25, R127). A record
that is not there has access 00. -/
def Task.declRecs (t : Task) : List (Nat × BitVec 128) :=
  if t.isHandler then (List.range 8).filterMap fun i => if bits (t.recBits i) 20 2 = 0 then none else some (i + 1, t.recBits i)
  else (List.range t.nrec).map fun i => (i, t.recBits i)
/-- Whether a task has ended: committed, faulted or aborted (R338). -/
def Task.ended (t : Task) : Bool := t.state == 4 || t.state == 5 || t.state == 6

/-- Whether a fault is of a class that a cascade confines to its stage (R331). -/
def confinable (f : FaultInfo) : Bool := f.cls == 0 || f.cls == 1 || f.cls == 3 || f.cls == 4 || f.cls == 8

/-- Whether the faults of a task are one that its cascade confines to the stage that raised it (R331); a fault before the fan-out has ended
is not (R353). -/
def Task.confines (t : Task) : Bool :=
  t.period != 0 && t.state == 2 && t.faults.length == 1 && t.faults.all confinable && t.spawnsLeft.isEmpty

/-- Whether the faults of a task stop all of it (R122, R331, R408). -/
def Task.stops (t : Task) : Bool := !t.faults.isEmpty && !t.confines

/-- Whether a quiescence holds the engines and the escapement processor of a task at a core: not while a fault there, or of the whole task, is
still to stop it, as the earlier vector words of the faulting strand complete first (R225, R450). -/
def Task.quiescesAt (t : Task) (g : Nat) : Bool :=
  t.quiesce != .no && (t.held || !(t.stops || t.faults.any fun f => f.gcn == g && t.confined != some g))

/-- Whether a task runs on undisturbed at a core: no quiescence, no stop and no fault that stops it there (R122, R331, R450). -/
def Task.goesOn (t : Task) (g : Nat) : Bool := t.quiesce == .no && !t.stopped && !t.stops && t.faults.all fun f => f.gcn != g

/-- Whether the task on a core is a debug launch (R85). -/
def debugOn (s : State) (g : Nat) : Bool := ((taskOn s g).map Task.debug).getD false

/-- Whether the task on a core stands quiesced in place: its engines start nothing (R450, R457, R506). -/
def coreHeld (s : State) (g : Nat) : Bool := ((taskOn s g).map fun t => t.held).getD false

/-- Whether the issue of the task on a core has stopped for a quiescence, or stands quiesced: no engine starts a command (R450). -/
def quiescing (s : State) (g : Nat) : Bool := ((taskOn s g).map fun t => t.quiescesAt g).getD false

/-- Whether a core has started engine work that runs to completion; a `vswap` that only waits for its partner's vector has none (R450, R452). -/
def startedWork (c : Core) : Bool := c.mrun.isSome || (match c.vrun with
  | none => false
  | some r => !r.partner)

/-- Whether copy channels and the stream distributor may go on at a core: no quiescence, or some core of its gang still has started
engine work (R450 steps 3 and 4). -/
def channelsRun (s : State) (g : Nat) : Bool :=
  !quiescing s g || s.cores.any fun p => p.2.task == (coreAt s g).task && startedWork p.2

/-- The image whose body holds an address (R425). -/
def imageOf (s : State) (a : Nat) : Option (Nat × Image) :=
  s.images.find? fun p => decide (p.2.base ≤ a) && decide (a < p.2.base + bits p.2.header 192 32)

/-! ### Taking an exception (R122 to R124) -/

/-- The record of a fault of an issuer (R124): `pc` the address of its faulting word. A landing word of a link domain has
image 0 and its offset from the landing tables' base (R445). -/
def faultInfo (s : State) (g sid : Nat) (pc : Addr) (cls code : Nat) (aux : Word) (addr : Nat) (win : Nat) : FaultInfo :=
  let im := imageOf s pc.toNat
  { cls := cls, code := code, aux := aux, addr := w64 addr,
    word := BitVec.ofNat 32 (readVal s pc.toNat 4),
    pcoff := match im with
      | some p => BitVec.ofNat 32 (pc.toNat - p.2.base)
      | none => if 0xFD00000000 ≤ pc.toNat ∧ pc.toNat < 0xFD00200000 then BitVec.ofNat 32 (pc.toNat - 0xFD00000000) else 0,
    image := match im with
      | some p => w64 p.1
      | none => 0,
    time := s.clk, gcn := g, sid := if sid == 64 then 63 else sid, win := win, eng := sid == 64, gang := false }

/-- Taking an exception: the fault goes into its task's list and the strand issues nothing further (R122 step 1). The stop
of the rest of the task, the fault record and the handler are the steps TASK_STOP and FAULT_RECORD_WRITE. -/
def raiseFault (s : State) (g sid : Nat) (fi : FaultInfo) : State :=
  let s := updStrand s g sid fun t => { t with stopped := true }
  match (coreAt s g).task with
  | none => s
  | some k => updTask s k fun t => { t with faults := t.faults ++ [fi] }

/-- A fault that concerns the task on a core and stops no strand by itself. -/
def raiseTask (s : State) (g : Nat) (fi : FaultInfo) : State :=
  match (coreAt s g).task with
  | none => s
  | some k => updTask s k fun t => { t with faults := t.faults ++ [fi] }

/-- A fault of an engine of a core: no strand stops by it (R124: eng 1, sid 63, word 0). -/
def raiseEngine (s : State) (g : Nat) (fi : FaultInfo) : State := raiseTask s g { fi with eng := true, sid := 63, word := 0 }

/-- The address a hint leaves for a fault, a save or a migration: the hint's own (R89, R90). -/
def savePc (t : Strand) : Addr :=
  match t.hint with
  | .none => t.pc
  | .immHi p _ => p
  | .rlx p => p
  | .rep p _ _ _ _ => p
  | .ckpt p => p

/-- A fault raised by the word an issuer is at (R122: the word has no effect). -/
def raiseAt (s : State) (x : Iss) (cls code : Nat) (aux : Word) (addr win : Nat) : State :=
  raiseFault s x.g x.sid (faultInfo s x.g x.sid (savePc x.t) cls code aux addr win)

/-- The illegal-instruction fault (R77). -/
def illegal (s : State) (x : Iss) : State := raiseAt s x 0 1 0 0 63

/-! ### Ending a word -/

/-- A general-file register of a strand: g-codes, `zr` and `lr` (R33). -/
def Strand.gen (t : Strand) (r : RCode) : Word :=
  if r.toNat < 120 then kget t.regs r.toNat 0
  else if r.toNat = 123 then t.lr else 0

/-- A general-file register written: g-codes and `lr`; a write of `zr` is discarded (R33). -/
def Strand.setGen (t : Strand) (r : RCode) (v : Word) : Strand :=
  if r.toNat < 120 then { t with regs := kset t.regs r.toNat v }
  else if r.toNat = 123 then { t with lr := v } else t

/-- A strand after its word: the next word; under `rep` the count falls by one and the word is issued again until the
count is 0 (R90). -/
def advance (t : Strand) : Strand :=
  match t.hint with
  | .rep _ _ _ c _ =>
    let v := t.gen c - 1
    let t := { t.setGen c v with counted := false, wait := none }
    if v = 0 then { t with pc := t.pc + 4, hint := .none } else t
  | _ => { t with pc := t.pc + 4, hint := .none, counted := false, wait := none }

/-- The word is complete. -/
def retire (s : State) (x : Iss) : State := updStrand s x.g x.sid advance

/-- An image reached from outside it, by a linkage call, is noted as one that the task on a core runs (R438, R445). -/
def noteReached (s : State) (g : Nat) (old new : Addr) : State :=
  match imageOf s new.toNat with
  | none => s
  | some p =>
    if (imageOf s old.toNat).any (fun q => q.1 == p.1) || (coreAt s g).reached.contains p.1 then s
    else updCore s g fun c => { c with reached := c.reached ++ [p.1] }

/-- The word is complete and the next one stands at an address (R110, R111). -/
def jumpTo (s : State) (x : Iss) (a : Addr) : State :=
  noteReached (updStrand s x.g x.sid fun t => { t with pc := a, hint := .none, counted := false, wait := none }) x.g x.t.pc a

/-- The strand leaves the rotation at its word (R204); for the distribution engine it stands behind the strands that reached issue
before it (R136). -/
def waitFor (s : State) (x : Iss) (w : Wait) : State :=
  let s := updStrand s x.g x.sid fun t => { t with wait := some w }
  if w = .distEngine then updCore s x.g fun c => { c with distQ := if c.distQ.contains x.sid then c.distQ else c.distQ ++ [x.sid] } else s

/-- Flags merged into the issuing strand's `flags` (R43). -/
def mergeFlags (s : State) (g sid : Nat) (f : Flags) : State :=
  if f = 0 then s else updStrand s g sid fun t => { t with flags := t.flags ||| f }

/-- The predicate p of a strand; p0 is 1 (R36). -/
def Strand.p (t : Strand) (n : Nat) : Bool := n == 0 || bit1 t.pred n

/-- The predicate p written; a write to p0 is discarded (R36). -/
def Strand.setP (t : Strand) (n : Nat) (v : Bool) : Strand :=
  if n = 0 then t else { t with pred := setBits t.pred n 1 (if v then 1 else 0) }

/-! ### Pending entries (R82) -/

/-- An entry appended at the issue of a long-latency word: its lookahead, and its value if it is known already. -/
def addPending (s : State) (x : Iss) (id : Nat) (dst : Dst) (k : Nat) (v : Option PVal) (f : Flags) : State :=
  updStrand s x.g x.sid fun t => { t with pending := t.pending ++
    [{ id := id, dst := dst, remaining := k + 1, value := v, arrived := false, flags := f, fault := none, pc := savePc x.t }] }

/-- A pending entry changed by its number. -/
def updPending (s : State) (g sid id : Nat) (f : Pending → Pending) : State :=
  updStrand s g sid fun t => { t with pending := t.pending.map fun p => if p.id = id then f p else p }

/-- The result of a word that completes by an event: an entry due before the next word, ahead of all others (R200, R347). -/
def dueNow (s : State) (g sid id : Nat) (d : RCode) (v : Word) : State :=
  updStrand s g sid fun t => { t with pending :=
    { id := id, dst := .gen d, remaining := 0, value := some (.word v), arrived := true, flags := 0, fault := none, pc := savePc t } :: t.pending }

/-- A fresh number. -/
def fresh (s : State) : Nat × State := (s.nextId, { s with nextId := s.nextId + 1 })

/-! ### Accesses in flight (R179, R182, R384) -/

/-- The slot number of a strand that is no more: of what it left behind (R251, R331). -/
def noSid : Nat := 128

/-- The accesses of a strand. -/
def accsOf (s : State) (g sid : Nat) : List Access := s.accs.filter fun a => a.gcn == g && a.sid == sid

/-- The number of unacknowledged stores of a strand: its stores in flight, and on a cascade core the values pushed and not
landed (R179, R320). -/
def isStore (k : AccKind) : Bool :=
  match k with
  | .store _ => true
  | .stf => true
  | .stp => true
  | .stempty => true
  | .dst => true
  | .vst => true
  | .writeBack _ _ => true
  | _ => false

/-- The core of the stage before (or after) a core's stage (R316). -/
def stageCore (s : State) (g : Nat) (up : Bool) : Option Nat :=
  (coreAt s g).stage.bind fun st => if up then st.up else st.down

/-- Values that a core pushed and that have not landed (R320). -/
def pushesInFlight (s : State) (g : Nat) : Nat :=
  match stageCore s g false with
  | none => 0
  | some h => ((coreAt s h).rill.flight.filter fun i => i != .marker).length

/-- Unacknowledged stores of a strand (R118, R320). -/
def unacked (s : State) (g sid : Nat) : Bool :=
  (accsOf s g sid).any (fun a => isStore a.kind || a.kind == .vector) || decide (0 < pushesInFlight s g)

/-- Whether a memory access of a strand may issue: no non-relaxed access outstanding and, for a relaxed one, fewer than
eight relaxed ones outstanding (R179, R182). -/
def accessReady (s : State) (g sid : Nat) (relaxed : Bool) : Bool :=
  let l := accsOf s g sid
  l.all (fun a => a.relaxed) && (!relaxed || decide (l.length < 8))

/-- An access by its number. -/
def accAt? (s : State) (n : Nat) : Option Access := s.accs.find? fun a => a.id == n

/-- An access removed. -/
def dropAcc (s : State) (n : Nat) : State :=
  { s with accs := s.accs.filter (fun a => a.id != n), waiters := s.waiters.filter (fun m => m != n) }

/-- An access changed. -/
def updAcc (s : State) (n : Nat) (f : Access → Access) : State :=
  { s with accs := s.accs.map fun a => if a.id == n then f a else a }

/-- The number of bytes an access touches. -/
def Access.size (a : Access) : Nat :=
  match a.kind with
  | .load w _ => w
  | .store w => w
  | .dld _ => 512
  | .dmk _ => 256
  | .dst => 512
  | .vst => 512
  | .fill _ _ => 256
  | .writeBack _ _ => 256
  | .vector => 512
  | _ => 8

/-- Whether two byte ranges share a byte. -/
def overlap (a n b m : Nat) : Bool := decide (a < b + m) && decide (b < a + n)

/-- The byte ranges that an access touches: a fill its local line and its source, a write-back its source line and its local
line, a vector word its operands (R189, R191, R221). -/
def Access.ranges (a : Access) : List (Nat × Nat) :=
  match a.kind with
  | .fill _ _ => [(a.addr, 256), (a.data.toNat, 256)]
  | .writeBack _ e => [(a.addr, 256), (slotBase a.gcn + tagLocal e * 256, 256)]
  | .vector => a.xr
  | _ => [(a.addr, a.size)]

/-- Whether two accesses touch a byte in common (R182). -/
def meets (a b : Access) : Bool := a.ranges.any fun p => b.ranges.any fun q => overlap p.1 p.2 q.1 q.2

/-- The banks that serve byte ranges (R384). -/
def banksOf (l : List (Nat × Nat)) : List Nat := l.flatMap fun p => [bankOf p.1, bankOf (p.1 + p.2 - 1)]

/-- The banks that serve an access (R384). -/
def Access.banks (a : Access) : List Nat := banksOf a.ranges

/-- The chunk flight with a number on a core. -/
def flightOf? (c : Core) (n : Nat) : Option CopyFlight := (c.channels.flatMap fun p => p.2.flight).find? fun f => f.id == n

/-- Whether an access that is not performed, or a copy chunk that has not landed, has a number. -/
def outstanding (s : State) (g n : Nat) : Bool :=
  ((accAt? s n).map fun a => !a.performed).getD false || (flightOf? (coreAt s g) n).isSome

/-- Whether an access or a copy chunk with a number stands in the release buffer of its lock-step pair, or behind another that drains
from it (R210, R212, R281). -/
def heldNo (s : State) (g n : Nat) : Bool :=
  match (coreAt s g).lock with
  | none => false
  | some l => l.release.contains n || (l.drain.contains n && (l.drain.takeWhile fun m => m != n).any (outstanding s g))

/-- Whether an access is held back by its lock-step pair (R210). -/
def heldBack (s : State) (a : Access) : Bool := heldNo s a.gcn a.id

/-- Whether two cores lie within one scope: 0 core, 1 cluster, 2 die, else the package (R13). -/
def inScope (scope g h : Nat) : Bool :=
  match scope with
  | 0 => g == h
  | 1 => clusterOf g == clusterOf h
  | 2 => dieOf g == dieOf h
  | _ => true

/-- Whether an access has reached its bank: performed, parked there or turned away by its wait table (R172). -/
def Access.delivered (a : Access) : Bool := a.performed || a.parked || a.refused

/-- Whether an access is of a vector word that has not started: it has entered no path yet (R219). -/
def vecQueued (s : State) (a : Access) : Bool := a.kind == .vector && (coreAt s a.gcn).vq.any fun e => e.acc == some a.id

/-- Whether an access that fences have passed stands before one to some banks by a party of a core, which entered its path with a number (R384). -/
def fencedAhead (b : Access) (g n : Nat) (bk : List Nat) : Bool :=
  !b.delivered && b.fenced.any fun f => decide (f.2 ≤ n) && inScope f.1 g b.gcn && bk.any b.banks.contains

/-- Whether an earlier access stands before another: in one strand with a byte in common (R182), or passed by a fence on a shared path to
its bank (R384). -/
def standsBefore (b a : Access) : Bool :=
  !b.performed && b.id != a.id &&
  ((decide (b.id < a.id) && b.gcn == a.gcn && b.sid == a.sid && meets b a) || fencedAhead b a.gcn a.sent a.banks)

/-- Whether an engine of a core may reach byte ranges that it set out for with a number: no access that a fence has passed stands before it
(R13, R384). -/
def pathClear (s : State) (g n : Nat) (l : List (Nat × Nat)) : Bool := s.accs.all fun b => !fencedAhead b g n (banksOf l)

/-! ### Messages within a cluster (R305) -/

/-- Whether a message of a kind is still on its way from one core to another. -/
def underWay (s : State) (src dst : Nat) : Post → Bool
  | .request n => ((accAt? s n).map fun a => !a.delivered && !heldBack s a).getD false
  | .answer n => (accAt? s n).isSome || (coreAt s dst).strands.any fun q => q.2.pending.any fun p => p.id == n && !p.arrived
  | .context n => s.flights.any fun f => f.id == n && f.phase == .sent
  | .contextAnswer n => s.flights.any fun f => f.id == n && (f.phase == .refused || f.phase == .accepted)
  | .value => !(coreAt s dst).rill.flight.isEmpty
  | .credit => decide (0 < (coreAt s dst).rill.creditFlight)
  | .notice => (coreAt s dst).rill.noticeFlight
  | .swap => !(coreAt s src).vswapSent.isEmpty
  | .steal => (coreAt s src).steal.asked == some dst && (coreAt s src).steal.answer.isNone
  | .stolen => (coreAt s dst).steal.answer.isSome

/-- A message sent to another core of the cluster stands behind those sent there before it (R305). -/
def post (s : State) (src dst : Nat) (p : Post) : State :=
  if src = dst ∨ clusterOf src ≠ clusterOf dst then s
  else { s with net := (s.net.filter fun e => underWay s e.1 e.2.1 e.2.2) ++ [(src, dst, p)] }

/-- Whether no message that one core sent to another before a certain one is still on its way (R305). -/
def firstOnWay (s : State) (src dst : Nat) (p : Post) : Bool :=
  !s.net.contains (src, dst, p) ||
  ((s.net.takeWhile fun e => e != (src, dst, p)).all fun e => e.1 != src || e.2.1 != dst || !underWay s src dst e.2.2)

/-- A message that has been delivered. -/
def delivered (s : State) (src dst : Nat) (p : Post) : State := { s with net := s.net.erase (src, dst, p) }

/-- The message by which an access reaches its bank: one to another core's slot. -/
def Access.inTurn (s : State) (a : Access) : Bool := !isSpad a.addr || firstOnWay s a.gcn (slotOf a.addr) (.request a.id)

/-- A request sent to the core whose slot holds its address (R305). -/
def sendRequest (s : State) (a : Access) : State := if isSpad a.addr then post s a.gcn (slotOf a.addr) (.request a.id) else s

/-- An access that enters its path later than its word issued: behind every access sent before it, its request with it (R210, R305, R384). -/
def sendLate (s : State) (a : Access) : State :=
  sendRequest (updAcc { s with nextId := s.nextId + 1 } a.id fun b => { b with sent := s.nextId }) a

/-- An access as a word issues it. -/
def Access.fresh (s : State) (x : Iss) (kind : AccKind) (a : Nat) (data : Word) (vdata : Vec) (relaxed : Bool) : Access :=
  { id := s.nextId, gcn := x.g, sid := x.sid, kind := kind, addr := a, data := data, vdata := vdata, relaxed := relaxed,
    performed := false, parked := false, refused := false, pc := savePc x.t,
    word := BitVec.ofNat 32 (readVal s (savePc x.t).toNat 4), fenced := [], done := 0, bad := none, sent := s.nextId }

/-- An access put in flight with the next number; one to another core's slot is a request there (R305). -/
def addAccess (s : State) (a : Access) : Nat × State :=
  (s.nextId, sendRequest { s with nextId := s.nextId + 1, accs := s.accs ++ [a] } a)

/-- A new access in flight, with its number. -/
def newAccess (s : State) (x : Iss) (kind : AccKind) (a : Nat) (data : Word) (vdata : Vec) (relaxed : Bool) : Nat × State :=
  addAccess s (.fresh s x kind a data vdata relaxed)

/-- Whether an access may be performed: nothing holds it back, it is its turn among the messages to its core, and no access stands before it
(R182, R210, R305, R384). -/
def mayPerform (s : State) (a : Access) : Bool := !heldBack s a && a.inTurn s && s.accs.all fun b => !standsBefore b a

/-! ### Chunk checks (R26, R27) -/

/-- What a chunk check answers. -/
inductive Check where
  | pass
  | wait
  | fail
  deriving DecidableEq, Repr

/-- The check of one chunk against the region entry it names: live, same generation, owner, direction of the window's
access bits, within the entry's range (R26). A moving region makes it wait. -/
def chunkCheck (s : State) (w : Window) (tenant : Nat) (write : Bool) (a n : Nat) : Check :=
  match kget? s.regions w.region.toNat with
  | none => .fail
  | some r =>
    if r.state = 2 then .wait
    else if r.state = 1 ∧ r.gen = w.gen ∧ r.owner = tenant ∧ bit1 w.access (if write then 1 else 0) ∧
        r.base ≤ a ∧ a + n ≤ r.base + r.extent then .pass
    else .fail

/-- Region number and generation as a fault's aux holds them, in the places of R461 (R190, R302). -/
def regionAux (w : Window) : Word := w64 (w.region.toNat + w.gen.toNat * 2 ^ 20)

/-- The tenant of the task on a core. -/
def tenantOn (s : State) (g : Nat) : Nat := ((taskOn s g).map fun t => t.tenant).getD 0

/-- A window register (R39); one never loaded is empty. -/
def Strand.win (t : Strand) (n : Nat) : Window := kget t.wins n { gen := 0, region := 0, access := 0, limit := 0, base := 0 }

/-- The live region that holds an address (R416). -/
def regionHolding (s : State) (a : Nat) : Option (Nat × Region) :=
  s.regions.find? fun p => p.2.state == 1 && decide (p.2.base ≤ a) && decide (a < p.2.base + p.2.extent)

/-- A landed range joined to those of the same engine and region, lowest to beyond the highest byte (R407). -/
def joinLanded (l : List Landed) (e : Landed) : List Landed :=
  let same (q : Landed) : Bool := q.gcn == e.gcn && q.chan == e.chan && q.region == e.region
  if l.any same then l.map fun q => if same q then { q with lo := min q.lo e.lo, hi := max q.hi e.hi } else q
  else l ++ [e]

/-- The landed ranges that n bytes at an address give a matrix unit, one for each live region that holds some of them (R407). -/
def landingsAt (s : State) (g a n : Nat) : List Landed :=
  (s.regions.filter fun p => p.2.state == 1 && overlap a n p.2.base p.2.extent).map fun p =>
    { gcn := g, chan := none, region := BitVec.ofNat 20 p.1, lo := max a p.2.base - p.2.base, hi := min (a + n) (p.2.base + p.2.extent) - p.2.base }

/-- A matrix command's landed ranges after one more landing of n bytes (R407). -/
def addLanding (s : State) (g : Nat) (l : List Landed) (a n : Nat) : List Landed := (landingsAt s g a n).foldl joinLanded l

/-! ### Sending messages out -/

/-- An entry of the outbox. -/
def emit (s : State) (m : Msg) : State := { s with outbox := s.outbox ++ [m] }

/-- An event message sent to an endpoint, or, where a port cannot deliver it, dropped and counted in the status of the tenant it names; which
are delivered is a free value (R480, log entry 37). -/
def emitEvent (s : State) (kind dst tenant : Nat) (data : List Word) : State :=
  let s1 := { s with eventSeq := s.eventSeq + 1 }
  if Config.delivered s.eventSeq then emit s1 (.event kind dst tenant s.clk data)
  else match kget? s.tenants tenant with
  | none => s1
  | some t => { s1 with tenants := kset s.tenants tenant { t with dropped := t.dropped + 1 } }

/-- An event message to a tenant's endpoint (R476, R480). -/
def emitTenant (s : State) (kind tenant : Nat) (data : List Word) : State :=
  emitEvent s kind (((kget? s.tenants tenant).map fun t => t.endpoint).getD 0) tenant data

/-- An event message to the endpoint of the owner, if there is one (R474, R480). -/
def emitOwner (s : State) (kind tenant : Nat) (data : List Word) : State :=
  match s.owner.bind (kget? s.mgmt) with
  | none => s
  | some e => emitEvent s kind e tenant data

/-- Whether a message comes from the endpoint that its tenant is bound to (R476). -/
def fromTenant (s : State) (h : HostHdr) : Bool := ((kget? s.tenants h.tenant).map fun t => t.endpoint == h.endpoint).getD false

/-- Whether a master serves a tenant: it is the owner, or the tenant is bound to its endpoint (R474, R475, log entry 37). -/
def masterServes (s : State) (m tenant : Nat) : Bool :=
  s.owner == some m || match kget? s.mgmt m, kget? s.tenants tenant with
    | some e, some t => t.endpoint == e
    | _, _ => false

end Sys2Proof.Machine
end

