-- ==== Sys2Proof/Machine/Operands.lean ====
section
/-! DEFINITION. Operand forms: which registers a word names and how (R33 to R35, R78, R129), which words its issuer may
issue (R34, R77, R214, R282, R321), reading operands with pops of `qin` (R35, R319), writing destinations with pushes of
`qout` (R320), lookahead hazards (R85), and the two shared shapes of a meaning. -/

namespace Sys2Proof.Machine

/-- What a word names: general registers read (in the order of R35), written, both, and pair destinations; vector
specifiers read and written; distribution registers read and written. `late`: the destination is not written at issue. -/
structure Uses where
  src : List RCode := []
  dst : List RCode := []
  rw : List RCode := []
  pair : List RCode := []
  vs : List (BitVec 6) := []
  vd : List (BitVec 6) := []
  vpair : Bool := false
  ds : List (BitVec 3) := []
  dd : List (BitVec 3) := []
  late : Bool := false

/-- The size of an `enter` or `leave` frame: 8, 16, 24 or 32 (R113). -/
def frameK (k : BitVec 2) : Nat := 8 * (k.toNat + 1)

/-- The registers of a frame of R113: `lr` and g8 to g(8+k-1). -/
def frameRegs (k : BitVec 2) : List RCode := 123 :: (List.range (frameK k)).map fun i => BitVec.ofNat 7 (8 + i)

/-- What each instruction names. A `vmovv` is taken to read vd, whose other lanes it keeps: so R85's audit meets it (DESIGN CHOICE,
log entry 72). -/
def usesOf : Instr → Uses
  | .add d a b => { src := [a, b], dst := [d] }
  | .sub d a b => { src := [a, b], dst := [d] }
  | .and d a b => { src := [a, b], dst := [d] }
  | .or d a b => { src := [a, b], dst := [d] }
  | .xor d a b => { src := [a, b], dst := [d] }
  | .andn d a b => { src := [a, b], dst := [d] }
  | .orn d a b => { src := [a, b], dst := [d] }
  | .sll d a b => { src := [a, b], dst := [d] }
  | .srl d a b => { src := [a, b], dst := [d] }
  | .sra d a b => { src := [a, b], dst := [d] }
  | .slt d a b => { src := [a, b], dst := [d] }
  | .sltn d a b => { src := [a, b], dst := [d] }
  | .min d a b => { src := [a, b], dst := [d] }
  | .max d a b => { src := [a, b], dst := [d] }
  | .minn d a b => { src := [a, b], dst := [d] }
  | .maxn d a b => { src := [a, b], dst := [d] }
  | .adds d a b => { src := [a, b], dst := [d] }
  | .subs d a b => { src := [a, b], dst := [d] }
  | .addsn d a b => { src := [a, b], dst := [d] }
  | .subsn d a b => { src := [a, b], dst := [d] }
  | .clz d a => { src := [a], dst := [d] }
  | .ctz d a => { src := [a], dst := [d] }
  | .popc d a => { src := [a], dst := [d] }
  | .brev d a => { src := [a], dst := [d] }
  | .bswap d a => { src := [a], dst := [d] }
  | .rol d a b => { src := [a, b], dst := [d] }
  | .ror d a b => { src := [a, b], dst := [d] }
  | .sext d a _ => { src := [a], dst := [d] }
  | .zext d a _ => { src := [a], dst := [d] }
  | .mul d a b _ => { src := [a, b], pair := [d], late := true }
  | .div d a b _ => { src := [a, b], pair := [d], late := true }
  | .addi d a _ => { src := [a], dst := [d] }
  | .andi d a _ => { src := [a], dst := [d] }
  | .ori d a _ => { src := [a], dst := [d] }
  | .xori d a _ => { src := [a], dst := [d] }
  | .slli d a _ => { src := [a], dst := [d] }
  | .srli d a _ => { src := [a], dst := [d] }
  | .srai d a _ => { src := [a], dst := [d] }
  | .rori d a _ => { src := [a], dst := [d] }
  | .slti d a _ => { src := [a], dst := [d] }
  | .sltni d a _ => { src := [a], dst := [d] }
  | .cmp a b _ _ _ _ => { src := [a, b] }
  | .cmpi a _ _ _ _ _ => { src := [a] }
  | .pand _ _ _ => {}
  | .por _ _ _ => {}
  | .pxor _ _ _ => {}
  | .pandn _ _ _ => {}
  | .porn _ _ _ => {}
  | .pnot _ _ => {}
  | .mfp d => { dst := [d] }
  | .mtp a b => { src := [a, b] }
  | .sel d a b _ => { src := [a, b], dst := [d] }
  | .fadd d a b => { src := [a, b], dst := [d] }
  | .fsub d a b => { src := [a, b], dst := [d] }
  | .fmul d a b => { src := [a, b], dst := [d] }
  | .fdiv d a b => { src := [a, b], dst := [d] }
  | .fmac d a b => { src := [a, b], rw := [d] }
  | .fsqrt d a => { src := [a], dst := [d] }
  | .fmin d a b => { src := [a, b], dst := [d] }
  | .fmax d a b => { src := [a, b], dst := [d] }
  | .fabs d a => { src := [a], dst := [d] }
  | .fneg d a => { src := [a], dst := [d] }
  | .feq d a b => { src := [a, b], dst := [d] }
  | .flt d a b => { src := [a, b], dst := [d] }
  | .fle d a b => { src := [a, b], dst := [d] }
  | .fcvtI d a => { src := [a], dst := [d] }
  | .fcvtN d a => { src := [a], dst := [d] }
  | .icvtF d a => { src := [a], dst := [d] }
  | .ncvtF d a => { src := [a], dst := [d] }
  | .br _ => {}
  | .call _ => { dst := [123] }
  | .bp _ _ => {}
  | .bpn _ _ => {}
  | .jr a => { src := [a] }
  | .jalr d a => { src := [a], dst := [d] }
  | .ret => { src := [123] }
  | .enter k => { src := frameRegs k }
  | .leave k => { dst := frameRegs k }
  | .fork _ a _ => { src := [a] }
  | .forkRCarry8 _ a _ => { src := [a] }
  | .forkRCarry16 _ a _ => { src := [a] }
  | .forkRCarry24 _ a _ => { src := [a] }
  | .join a => { src := [a] }
  | .exit a => { src := [a] }
  | .yield => {}
  | .ld d b _ _ _ => { src := [b], dst := [d], late := true }
  | .lds d b _ _ _ => { src := [b], dst := [d], late := true }
  | .st s b _ _ => { src := [s, b] }
  | .ldf d b _ _ => { src := [b], dst := [d], late := true }
  | .ldt d b _ _ => { src := [b], dst := [d], late := true }
  | .stf s b _ => { src := [s, b] }
  | .stp s b _ => { src := [s, b] }
  | .stempty b _ => { src := [b] }
  | .cas d a b _ => { src := [a, b], rw := [d], late := true }
  | .xadd d a b _ => { src := [a, b], rw := [d], late := true }
  | .tlk d a => { src := [a], dst := [d] }
  | .tfill _ a b => { src := [a, b] }
  | .tevict a => { src := [a] }
  | .tinval a => { src := [a] }
  | .wba d _ b => { src := [b], dst := [d] }
  | .wrd d _ _ => { dst := [d] }
  | .chkR _ a _ => { src := [a] }
  | .chkW _ a _ => { src := [a] }
  | .chkRw _ a _ => { src := [a] }
  | .fenceCore => {}
  | .fenceCluster => {}
  | .fenceDie => {}
  | .fencePackage => {}
  | .fenceGroup => {}
  | .barArrive d a => { src := [a], dst := [d], late := true }
  | .barWait a b => { src := [a, b] }
  | .rcnt d => { dst := [d] }
  | .rfree d => { dst := [d] }
  | .reosDn => {}
  | .reosUp => {}
  | .mxIssue a => { src := [a] }
  | .mxIssueMeta a v => { src := [a], vs := [v.zeroExtend 6] }
  | .mxWait => {}
  | .vxSync => {}
  | .cpReq a b => { src := [a, b] }
  | .tspawn d a _ => { src := [a], dst := [d], late := true }
  | .tstat d a => { src := [a], dst := [d], late := true }
  | .nop => {}
  | .trap a _ => { src := [a] }
  | .brk => {}
  | .mfs d _ => { dst := [d] }
  | .mts a _ => { src := [a] }
  | .vadd d a b _ => { vs := [a, b], vd := [d] }
  | .vsub d a b _ => { vs := [a, b], vd := [d] }
  | .vmul d a b _ => { vs := [a, b], vd := [d] }
  | .vmulh d a b _ => { vs := [a, b], vd := [d] }
  | .vmin d a b _ => { vs := [a, b], vd := [d] }
  | .vmax d a b _ => { vs := [a, b], vd := [d] }
  | .vminn d a b _ => { vs := [a, b], vd := [d] }
  | .vmaxn d a b _ => { vs := [a, b], vd := [d] }
  | .vadds d a b _ => { vs := [a, b], vd := [d] }
  | .vsubs d a b _ => { vs := [a, b], vd := [d] }
  | .vaddsn d a b _ => { vs := [a, b], vd := [d] }
  | .vsubsn d a b _ => { vs := [a, b], vd := [d] }
  | .vabs d a _ => { vs := [a], vd := [d] }
  | .vneg d a _ => { vs := [a], vd := [d] }
  | .vshl d a b _ => { vs := [a, b], vd := [d] }
  | .vshr d a b _ => { vs := [a, b], vd := [d] }
  | .vsra d a b _ => { vs := [a, b], vd := [d] }
  | .vdot d a b _ => { vs := [a, b, d], vd := [d] }
  | .vwadd d a b _ => { vs := [a, b], vd := [d], vpair := true }
  | .vwmul d a b _ => { vs := [a, b], vd := [d], vpair := true }
  | .vfadd d a b _ => { vs := [a, b], vd := [d] }
  | .vfsub d a b _ => { vs := [a, b], vd := [d] }
  | .vfmul d a b _ => { vs := [a, b], vd := [d] }
  | .vfdiv d a b _ => { vs := [a, b], vd := [d] }
  | .vfmac d a b _ => { vs := [a, b, d], vd := [d] }
  | .vfmin d a b _ => { vs := [a, b], vd := [d] }
  | .vfmax d a b _ => { vs := [a, b], vd := [d] }
  | .vfabs d a _ => { vs := [a], vd := [d] }
  | .vfneg d a _ => { vs := [a], vd := [d] }
  | .vfsqrt d a _ => { vs := [a], vd := [d] }
  | .vfscl d a b _ => { vs := [a, b, d], vd := [d] }
  | .vceq d a b _ => { vs := [a, b], vd := [d] }
  | .vclt d a b _ => { vs := [a, b], vd := [d] }
  | .vcle d a b _ => { vs := [a, b], vd := [d] }
  | .vcltn d a b _ => { vs := [a, b], vd := [d] }
  | .vand d a b => { vs := [a, b], vd := [d] }
  | .vor d a b => { vs := [a, b], vd := [d] }
  | .vxor d a b => { vs := [a, b], vd := [d] }
  | .vandn d a b => { vs := [a, b], vd := [d] }
  | .vsel d a b => { vs := [a, b, d], vd := [d] }
  | .vcvt d a _ _ s t => { vs := if laneBytes t < laneBytes s then [a, d] else [a], vd := [d] }
  | .vcvtn d a _ _ s t => { vs := if laneBytes t < laneBytes s then [a, d] else [a], vd := [d] }
  | .vcvt4 d a r _ _ => { vs := if r = 1 then [a, d] else [a], vd := [d] }
  | .vpack4 d a b => { vs := [a, b, d], vd := [d] }
  | .vunpk4 d a _ _ => { vs := [a], vd := [d] }
  | .vquant _ d a _ b _ => { vs := [a, d.zeroExtend 6, b.zeroExtend 6], vd := [d.zeroExtend 6, b.zeroExtend 6] }
  | .vprune24 d a b _ => { vs := [a, d.zeroExtend 6, b.zeroExtend 6], vd := [d.zeroExtend 6, b.zeroExtend 6] }
  | .vprune48 d a b _ => { vs := [a, d.zeroExtend 6, b.zeroExtend 6], vd := [d.zeroExtend 6, b.zeroExtend 6] }
  | .vradd d a _ => { vs := [a, d], vd := [d] }
  | .vrmax d a _ => { vs := [a, d], vd := [d] }
  | .vrmin d a _ => { vs := [a, d], vd := [d] }
  | .vperm d a b _ => { vs := [a, b], vd := [d] }
  | .vrot d a b _ => { vs := [a, b], vd := [d] }
  | .vtld d a b _ => { vs := [a, b], vd := [d] }
  | .vswap d a => { vs := [a], vd := [d] }
  | .vld d g => { src := [g], vd := [d] }
  | .vst d g => { src := [g], vs := [d] }
  | .vmovg d a i _ => { src := [i.zeroExtend 7], dst := [d], vs := [a] }
  | .vmovv d g i _ => { src := [g, i.zeroExtend 7], vs := [d], vd := [d] }
  | .vmovx _ g => { src := [g] }
  | .vmovfx d _ => { dst := [d] }
  | .dadd d a b _ => { ds := [a, b], dd := [d] }
  | .dsub d a b _ => { ds := [a, b], dd := [d] }
  | .dmul d a b _ => { ds := [a, b], dd := [d] }
  | .dmax d a b _ => { ds := [a, b], dd := [d] }
  | .dmin d a b _ => { ds := [a, b], dd := [d] }
  | .dneg d a _ => { ds := [a], dd := [d] }
  | .dld d g _ => { src := [g], dd := [d] }
  | .dst a g => { src := [g], ds := [a] }
  | .dmk d g _ => { src := [g], dd := [d] }
  | .dtag d a g _ => { src := [g], ds := [a], dd := [d] }
  | .dsplat d g _ => { src := [g], dd := [d] }
  | .dmomV v a _ _ => { ds := [a], vd := [v.zeroExtend 6] }
  | .dmomG a g _ _ => { rw := [g], ds := [a], late := true }
  | .dqntV v a g _ => { src := [g], ds := [a], vd := [v.zeroExtend 6] }
  | .dqntG a g _ => { rw := [g], ds := [a], late := true }
  | .cpStart a b => { src := [a, b] }
  | .cpAbort b => { src := [b] }
  | .cpWait b => { src := [b] }
  | .cpStatSt d b => { src := [b], dst := [d] }
  | .cpStatWm d b => { src := [b], dst := [d] }
  | .cpStatBc d b => { src := [b], dst := [d] }
  | .cpStatNb d b => { src := [b], dst := [d] }
  | .cpMbox d _ => { pair := [d] }
  | .cpEv d _ => { pair := [d] }
  | .cpHalt => {}
  | .immHi _ => {}
  | .rlx => {}
  | .rep _ c _ => { rw := [c] }
  | .ckpt => {}
  | .valueArrival _ => {}
  | .storeAcknowledge _ => {}
  | .remoteRequest _ => {}
  | .hbmAccess _ => {}
  | .atomicPerform _ => {}
  | .feWaiterRetry _ => {}
  | .waitTableRetry _ => {}
  | .strandAdmission _ => {}
  | .frameSpill _ => {}
  | .frameRefill _ _ => {}
  | .distributionEngineRelease _ => {}
  | .vectorStart _ => {}
  | .vectorComplete _ => {}
  | .channelVectorArrival _ _ => {}
  | .vswapVectorArrival _ => {}
  | .matrixHeadCheck _ => {}
  | .matrixGateTest _ => {}
  | .mma _ => {}
  | .mmas _ => {}
  | .tzero _ => {}
  | .tload _ => {}
  | .tstore _ => {}
  | .tscale _ => {}
  | .smma24 _ => {}
  | .smma48 _ => {}
  | .gather _ => {}
  | .gmma _ => {}
  | .remoteOperandChunkArrival _ => {}
  | .gatherChunkLanding _ _ => {}
  | .matrixCommandComplete _ => {}
  | .copyChunkIssue _ => {}
  | .copyChunkLanding _ _ _ => {}
  | .copyStageReleased _ _ => {}
  | .copyIterationLanded _ _ => {}
  | .copyCommandComplete _ _ => {}
  | .copyAbortComplete _ _ => {}
  | .streamBlockRead _ _ => {}
  | .streamBlockDeliver _ _ _ => {}
  | .streamBlockRelease _ _ => {}
  | .rillValueLanding _ => {}
  | .rillCreditReturn _ => {}
  | .rillCloseNotice _ => {}
  | .cascadeCheckpoint _ => {}
  | .lockstepCheckpoint _ => {}
  | .lockstepMismatch _ => {}
  | .stealRequest _ => {}
  | .stealReply _ => {}
  | .stealBackoffExpiry _ => {}
  | .migrationDeparture _ _ => {}
  | .contextMessage _ => {}
  | .migrationRefusal _ => {}
  | .migrationResend _ => {}
  | .migrationAcceptance _ => {}
  | .contextSpill _ => {}
  | .contextRefill _ => {}
  | .forwardingEntryExpiry _ => {}
  | .forwardedMessage _ _ => {}
  | .tspawnRequest _ => {}
  | .tstatRequest _ => {}
  | .regulatorAnswer _ => {}
  | .doorbell _ _ _ => {}
  | .launchRecordRead _ _ => {}
  | .taskRelease _ => {}
  | .gangPlacement _ _ => {}
  | .startMessage _ => {}
  | .spawnMessage _ _ => {}
  | .taskCompletion _ => {}
  | .granuleStep _ => {}
  | .cisternCommit _ => {}
  | .completionRecord _ => {}
  | .completionHead _ _ _ => {}
  | .fenceWait _ _ _ _ => {}
  | .fenceWaitTimeout _ => {}
  | .taskRetirement _ => {}
  | .taskStop _ => {}
  | .faultRecordWrite _ => {}
  | .sliceExpiry _ => {}
  | .quiescenceComplete _ => {}
  | .quiescenceCancel _ => {}
  | .quiescenceRetry _ => {}
  | .taskResume _ => {}
  | .compactionEntryWrite _ => {}
  | .rekeySweepStep _ => {}
  | .clusterRetirementEffect _ => {}
  | .channelRetirementEffect _ _ => {}
  | .hostTransferChunk _ => {}
  | .groupSendSlotTake _ => {}
  | .collectiveChunkReceive _ => {}
  | .collectiveChunkAck _ _ _ => {}
  | .packageReset _ => {}
  | .reducedServiceStart => {}
  | .clusterSelfTestResult _ _ => {}
  | .fullServiceSwitch => {}
  | .thermalThrottle _ => {}
  | .thermalTrip _ => {}
  | .powerWindowExpiry _ => {}
  | .refresh _ => {}
  | .linkLayerRetry _ => {}
  | .linkTraining _ => {}
  | .patrolScrub _ => {}
  | .uncorrectableData _ => {}
  | .gangCoreUncorrectableError _ _ _ => {}
  | .statusRead _ => {}
  | .ownershipClaim _ => {}
  | .ownershipHandover _ _ => {}
  | .handoverAck _ => {}
  | .handoverLapse => {}
  | .keepalive _ => {}
  | .ownershipLoss => {}
  | .tenantCreate _ _ _ _ => {}
  | .launchQueueCreate _ _ _ _ => {}
  | .fenceCreate _ _ _ => {}
  | .faultRingRegister _ _ _ => {}
  | .faultSlotFree _ _ _ => {}
  | .regionCreate _ _ => {}
  | .regionFree _ _ => {}
  | .regionRevoke _ _ => {}
  | .regionQuery _ _ => {}
  | .regionCompact _ _ _ => {}
  | .regionRekey _ _ => {}
  | .incompleteMarkClear _ _ => {}
  | .memoryWindowInstall _ _ _ _ => {}
  | .partitionRecordInstall _ _ => {}
  | .sliceSet _ _ _ => {}
  | .powerCapSet _ _ => {}
  | .methodEntryInstall _ _ _ => {}
  | .imageInstall _ _ _ => {}
  | .translation _ => {}
  | .revocationListInstall _ _ => {}
  | .linkDomainCreate _ _ => {}
  | .linkDomainDelete _ _ => {}
  | .landingBind _ _ _ _ _ => {}
  | .keyInstall _ _ _ => {}
  | .keyDestroy _ _ => {}
  | .clusterRetire _ _ => {}
  | .channelRetire _ _ _ => {}
  | .returnToService _ _ => {}
  | .portSplit _ _ => {}
  | .viewInstall _ _ => {}
  | .rosterInstall _ _ => {}
  | .groupSendQueueBind _ _ _ _ _ => {}
  | .migrationRound _ _ => {}
  | .migrationFinalRound _ _ => {}
  | .attestationReport _ _ _ _ => {}
  | .tagFillLanding _ => {}
  | .throttlingEnd _ => {}

/-- The major opcode of a word (R76); 64 for a step without a word. -/
def majorOf (i : Instr) : Nat :=
  match encode i with
  | some w => w / 2 ^ 26
  | none => 64

/-- The general registers an issuer has: W, its carry count, or 64 (R29, R34, R279). -/
def Iss.lim (x : Iss) : Nat := if x.isEp then 64 else if x.t.roaming then x.t.carry else x.t.shapeW

/-- Whether an issuer may read `qin`: an anchored strand of a stage that has an incoming rill (R34, R321, R332). -/
def Iss.qinOk (x : Iss) : Bool :=
  !x.isEp && !x.t.roaming && match x.c.stage with
    | some st => st.stage != 0
    | none => false

/-- Whether an issuer may write `qout` (R34, R321, R332). -/
def Iss.qoutOk (x : Iss) : Bool :=
  !x.isEp && !x.t.roaming && match x.c.stage with
    | some st => decide (st.stage + 1 < st.stages)
    | none => false

/-- Whether the word is governed by `rlx`, directly or through `rep` (R88, R182). -/
def relaxedWord (t : Strand) : Bool :=
  match t.hint with
  | .rlx _ => true
  | .rep _ rl _ _ _ => rl
  | _ => false

/-- A register code within an issuer's registers, for a use as source, destination or both (R33, R34). -/
def Iss.codeOk (x : Iss) (r : RCode) : Bool :=
  if r.toNat < 120 then decide (r.toNat < x.lim)
  else if r.toNat = 121 then x.qinOk && !relaxedWord x.t
  else if r.toNat = 122 then x.qoutOk && !relaxedWord x.t
  else true

/-- A pair destination within an issuer's registers (R99). -/
def Iss.pairOk (x : Iss) (r : RCode) : Bool := r == 120 || decide (r.toNat + 1 < x.lim)

/-- A vector specifier within a strand's V (R77, R78). -/
def Iss.vecOk (x : Iss) (pair : Bool) (v : BitVec 6) : Bool :=
  decide (32 ≤ v.toNat) || decide (v.toNat + (if pair then 1 else 0) < x.t.shapeV)

/-- What the escapement processor executes (R282). -/
def epOk (i : Instr) : Bool :=
  let m := majorOf i
  match i with
  | .enter _ => false
  | .leave _ => false
  | _ => !(m == 19 || m == 26 || m == 29 || m == 30 || m == 31 || (decide (33 ≤ m) && decide (m ≤ 41)))

/-- What a roaming strand does not execute beside vector and distribution words (R113, R252). -/
def anchoredOnly (i : Instr) : Bool :=
  match i with
  | .enter _ => true
  | .leave _ => true
  | .mxIssue _ => true
  | .mxIssueMeta _ _ => true
  | _ => false

/-- Whether a word is `fork.r` (R117). -/
def isForkR (i : Instr) : Bool :=
  match i with
  | .forkRCarry8 _ _ _ => true
  | .forkRCarry16 _ _ _ => true
  | .forkRCarry24 _ _ _ => true
  | _ => false

/-- What a strand executes: no copy instruction; no vector or distribution word, no window-stack word and no `mx.issue` when roaming
(R77, R113, R252); no `fork.r` in a lock-step task (R214). -/
def strandOk (x : Iss) (i : Instr) : Bool :=
  let m := majorOf i
  !(decide (42 ≤ m) && decide (m ≤ 45)) && !(x.t.roaming && (decide (33 ≤ m) && decide (m ≤ 41) || anchoredOnly i)) &&
  !(x.c.lock.isSome && isForkR i)

/-- Whether a word is legal for its issuer, by its own fields and by the issuer's kind and registers (R34, R77, R282, R321). -/
def legalFor (x : Iss) (i : Instr) : Bool :=
  let u := usesOf i
  i.wf && (if x.isEp then epOk i else strandOk x i) &&
  u.src.all x.codeOk && u.dst.all x.codeOk && u.rw.all x.codeOk && u.pair.all x.pairOk &&
  u.vs.all (x.vecOk false) && u.vd.all (x.vecOk u.vpair) &&
  u.ds.all (fun d => decide (d.toNat < x.t.shapeD)) && u.dd.all (fun d => decide (d.toNat < x.t.shapeD))

/-- Whether a pending entry's destination is a general register (R85). -/
def pendsGen (p : Pending) (r : RCode) : Bool :=
  (decide (r.toNat < 120) || r == 123) && match p.dst with
    | .gen d => d == r
    | .pair d => d == r || d.toNat + 1 == r.toNat
    | _ => false

/-- The lookahead hazard of a word in a debug launch: the aux of its audit fault (R85, R404). Where a word reads several pending registers
the record names a general one before a vector and a vector before a distribution one, the first in the order of the word's fields (DESIGN
CHOICE, log entry 96). -/
def hazard (s : State) (x : Iss) (i : Instr) : Option Word :=
  if !debugOn s x.g then none else
  let u := usesOf i
  let g := (u.src ++ u.rw).find? fun r => x.t.pending.any (pendsGen · r)
  let v := u.vs.find? fun v => x.t.pending.any fun p => p.dst == .vec v.toNat
  let d := u.ds.find? fun d => x.t.pending.any fun p => p.dst == .dist d.toNat
  match g, v, d with
  | some r, _, _ => some (w64 r.toNat)
  | none, some v, _ => some (w64 (256 + v.toNat))
  | none, none, some d => some (w64 (512 + d.toNat))
  | none, none, none => none

/-! ### Rills (R319 to R325) -/

/-- The end-of-stream value (R325). -/
def eos : Word := 0x8000000000000000

/-- The values waiting in an incoming rill. -/
def rillCount (r : Rill) : Nat := (r.inq.filter fun i => i != .marker).length

/-- Whether the next item of a rill is a marker (R326). -/
def markerNext (r : Rill) : Bool := match r.inq with
  | .marker :: _ => !r.closed
  | _ => false

/-- The oldest n values taken out of a rill's items; markers stay. -/
def takeValues : Nat → List RItem → List Word × List RItem
  | 0, l => ([], l)
  | _ + 1, [] => ([], [])
  | n + 1, .val v :: r =>
    let q := takeValues n r
    (v :: q.1, q.2)
  | n + 1, .marker :: r =>
    let q := takeValues (n + 1) r
    (q.1, .marker :: q.2)

/-- Popping n values: the values, and the state with them gone and n credits on their way to the sender; a closed rill
gives end of stream and keeps its state (R319). -/
def popQin (s : State) (x : Iss) (n : Nat) : List Word × State :=
  if n = 0 then ([], s)
  else if x.c.rill.closed then (List.replicate n eos, s)
  else
    let q := takeValues n x.c.rill.inq
    let s := updCore s x.g fun c => { c with rill := { c.rill with inq := q.2 } }
    match stageCore s x.g true with
    | none => (q.1, s)
    | some h =>
      let back := updCore s h fun c => { c with rill := { c.rill with creditFlight := c.rill.creditFlight + n } }
      (q.1, (List.range n).foldl (fun s _ => post s x.g h .credit) back)

/-- The values that a word popped, from the values of its operands; none from a closed rill (R319). -/
def poppedOf (x : Iss) (i : Instr) (vs : List Word) : List Word :=
  if x.c.rill.closed then [] else (((usesOf i).src.zip vs).filter fun p => p.1 == 121).map fun p => p.2

/-- Popped values put back, and their credits taken back: those on their way, then those that the sender holds (R122, R331). -/
def unpop (s : State) (g : Nat) (ps : List Word) : State :=
  if ps.isEmpty || (coreAt s g).rill.closed then s else
  let s := updCore s g fun c => { c with rill := { c.rill with inq := ps.map .val ++ c.rill.inq } }
  match stageCore s g true with
  | none => s
  | some h => updCore s h fun c =>
      { c with rill := { c.rill with creditFlight := c.rill.creditFlight - ps.length, credits := c.rill.credits - (ps.length - c.rill.creditFlight) } }

/-- Whether a push may take effect: a closed rill discards at once; else every earlier access is performed and the sender
holds a credit (R320). -/
def pushReady (s : State) (g sid : Nat) : Bool :=
  (coreAt s g).rill.outClosed || ((accsOf s g sid).isEmpty && decide (0 < (coreAt s g).rill.credits))

/-- A push counted by stage 0: a checkpoint falls due after the last push of each N laps (R326). -/
def countPush (st : Stage) : Stage :=
  if st.stage = 0 ∧ 0 < st.period then
    { st with pushes := st.pushes + 1, due := st.due || (st.pushes + 1) % (8 * st.period) == 0 }
  else st

/-- A push, which stage 0 counts: a credit is taken and the value is on its way to the receiver; a closed rill discards it (R320, R326). -/
def pushQout (s : State) (g : Nat) (v : Word) : State :=
  let s := updCore s g fun c => { c with stage := c.stage.map countPush }
  if (coreAt s g).rill.outClosed then s else
  let s := updCore s g fun c => { c with rill := { c.rill with credits := c.rill.credits - 1 } }
  match stageCore s g false with
  | none => s
  | some h => post (updCore s h fun c => { c with rill := { c.rill with flight := c.rill.flight ++ [.val v] } }) g h .value

/-- A general destination written: `qout` pushes, `zr` discards (R33, R92). -/
def writeDst (s : State) (g sid : Nat) (d : RCode) (v : Word) : State :=
  if d.toNat = 122 then pushQout s g v else updStrand s g sid fun t => t.setGen d v

/-- A pair destination written (R99). -/
def writePair (s : State) (g sid : Nat) (d : RCode) (lo hi : Word) : State :=
  updStrand s g sid fun t => (t.setGen d lo).setGen (if d.toNat = 120 then 120 else d + 1) hi

/-! ### Reading the operands -/

/-- The values of the source fields: registers as they stand, popped values in their order (R35). -/
def sourceVals (t : Strand) : List RCode → List Word → List Word
  | [], _ => []
  | r :: rs, ps =>
    if r.toNat = 121 then
      match ps with
      | p :: ps => p :: sourceVals t rs ps
      | [] => 0 :: sourceVals t rs []
    else t.gen r :: sourceVals t rs ps

/-- What reading a word's operands answers. -/
inductive Ready where
  | illegal
  | audit (aux : Word)
  | wait (w : Wait)
  | go (vs : List Word) (s : State)

/-- The operands of a word: legality, then the lookahead hazard, then the word's own gate, then what `qin` and `qout` wait
for (R35, R319, R320, R326), then the values with the pops made. -/
def operands (s : State) (x : Iss) (i : Instr) (gate : Option Wait) : Ready :=
  let u := usesOf i
  let n := u.src.count 121
  if !legalFor x i then .illegal else
  match hazard s x i, gate with
  | some aux, _ => .audit aux
  | none, some w => .wait w
  | none, none =>
    let pops := 0 < n && !x.c.rill.closed
    if n = 0 ∧ ¬ 122 ∈ u.dst then .go (sourceVals x.t u.src []) s
    else if pops && markerNext x.c.rill then .wait .checkpoint
    else if pops && !accessReady s x.g x.sid false then .wait .access
    else if pops && decide (rillCount x.c.rill < n) then .wait .rill
    else if u.dst.contains 122 && !u.late && !pushReady s x.g x.sid then .wait .rill
    else
      let q := popQin s x n
      .go (sourceVals x.t u.src q.1) q.2

/-- A meaning of a word: an illegal word and a hazard take their exceptions, a wait keeps the strand at its word, and
otherwise the effect on the operand values. `gate`: what the word waits for before it reads anything. -/
def wordOn (i : Instr) (s : State) (x : Iss) (gate : Option Wait) (k : Iss → List Word → State → State) : State :=
  match operands s x i gate with
  | .illegal => illegal s x
  | .audit aux => raiseAt s x 9 1 aux 0 63
  | .wait w => waitFor s x w
  | .go vs s' => k x vs s'

/-- A meaning of a word for the agent that `cur` names. -/
def wordG (i : Instr) (s : State) (gate : Iss → Option Wait) (k : Iss → List Word → State → State) :
    Host.Outcome State Fault Refusal :=
  onIssuer s fun x => wordOn i s x (gate x) k

/-- A meaning without a gate of its own. -/
def word (i : Instr) (s : State) (k : Iss → List Word → State → State) : Host.Outcome State Fault Refusal :=
  wordG i s (fun _ => none) k

/-- Operand number n. -/
def arg (vs : List Word) (n : Nat) : Word := vs.getD n 0

/-- The effect of a scalar word: its result into the destination, its flags merged, the next word (R92, R94). -/
def finish (s : State) (x : Iss) (d : RCode) (r : Word × Flags) : State :=
  retire (mergeFlags (writeDst s x.g x.sid d r.1) x.g x.sid r.2) x

/-- A scalar word with one destination: a function of the issuer and the operand values (R92). -/
def scalar (i : Instr) (d : RCode) (s : State) (f : Iss → List Word → Word × Flags) : Host.Outcome State Fault Refusal :=
  word i s fun x vs s' => finish s' x d (f x vs)

end Sys2Proof.Machine
end

