-- ==== Sys2Proof/Machine/Scalar.lean ====
section
/-! DEFINITION. Majors 1 to 13: scalar integers (R92 to R102), compare-skip (R86, R87, R103), predicates and select (R104
to R106). -/

namespace Sys2Proof.Machine

/-- A truth value as 1 or 0 (R95). -/
def ofBool (b : Bool) : Word := if b then 1 else 0

/-- A shift count: bits 5:0 (R95). -/
def shiftCount (w : Word) : Nat := w.toNat % 64

/-- An exact value clamped to i64 (R95). -/
def satI64 (v : Int) : Word × Flags :=
  let r := saturate (iLo 64) (iHi 64) v
  (BitVec.ofInt 64 r.1, r.2)

/-- An exact value clamped to n64 (R95). -/
def satN64 (v : Int) : Word × Flags :=
  let r := saturate 0 (nHi 64) v
  (BitVec.ofInt 64 r.1, r.2)

/-- Trailing zeros among the low n bits. -/
def trailing (v : Nat) : Nat → Nat
  | 0 => 0
  | n + 1 => if v % 2 = 1 then 0 else 1 + trailing (v / 2) n

/-- One bits among the low n bits. -/
def popCount (v : Nat) : Nat → Nat
  | 0 => 0
  | n + 1 => v % 2 + popCount (v / 2) n

/-- The low n bits in reverse order. -/
def revBits (v : Nat) : Nat → Nat
  | 0 => 0
  | n + 1 => v % 2 * 2 ^ n + revBits (v / 2) n

/-- The immediate of an I-form word: imm12, or the 34-bit value that a governing `imm.hi` completes, sign-extended (R97). -/
def immVal (t : Strand) (i : BitVec 12) : Word :=
  match t.hint with
  | .immHi _ p => (p ++ i).signExtend 64
  | _ => i.signExtend 64

/-- (ga + gb) mod 2^64 (R95). -/
def execAdd (d : BitVec 7) (a : BitVec 7) (b : BitVec 7) (s : State) : Host.Outcome State Fault Refusal :=
  scalar (.add d a b) d s fun _ vs => (arg vs 0 + arg vs 1, 0)

/-- (ga - gb) mod 2^64 (R95). -/
def execSub (d : BitVec 7) (a : BitVec 7) (b : BitVec 7) (s : State) : Host.Outcome State Fault Refusal :=
  scalar (.sub d a b) d s fun _ vs => (arg vs 0 - arg vs 1, 0)

/-- ga AND gb (R95). -/
def execAnd (d : BitVec 7) (a : BitVec 7) (b : BitVec 7) (s : State) : Host.Outcome State Fault Refusal :=
  scalar (.and d a b) d s fun _ vs => (arg vs 0 &&& arg vs 1, 0)

/-- ga OR gb (R95). -/
def execOr (d : BitVec 7) (a : BitVec 7) (b : BitVec 7) (s : State) : Host.Outcome State Fault Refusal :=
  scalar (.or d a b) d s fun _ vs => (arg vs 0 ||| arg vs 1, 0)

/-- ga XOR gb (R95). -/
def execXor (d : BitVec 7) (a : BitVec 7) (b : BitVec 7) (s : State) : Host.Outcome State Fault Refusal :=
  scalar (.xor d a b) d s fun _ vs => (arg vs 0 ^^^ arg vs 1, 0)

/-- ga AND NOT gb (R95). -/
def execAndn (d : BitVec 7) (a : BitVec 7) (b : BitVec 7) (s : State) : Host.Outcome State Fault Refusal :=
  scalar (.andn d a b) d s fun _ vs => (arg vs 0 &&& ~~~(arg vs 1), 0)

/-- ga OR NOT gb (R95). -/
def execOrn (d : BitVec 7) (a : BitVec 7) (b : BitVec 7) (s : State) : Host.Outcome State Fault Refusal :=
  scalar (.orn d a b) d s fun _ vs => (arg vs 0 ||| ~~~(arg vs 1), 0)

/-- ga shifted left by gb[5:0] (R95). -/
def execSll (d : BitVec 7) (a : BitVec 7) (b : BitVec 7) (s : State) : Host.Outcome State Fault Refusal :=
  scalar (.sll d a b) d s fun _ vs => (arg vs 0 <<< shiftCount (arg vs 1), 0)

/-- ga shifted right by gb[5:0], zero fill (R95). -/
def execSrl (d : BitVec 7) (a : BitVec 7) (b : BitVec 7) (s : State) : Host.Outcome State Fault Refusal :=
  scalar (.srl d a b) d s fun _ vs => (arg vs 0 >>> shiftCount (arg vs 1), 0)

/-- ga shifted right arithmetically by gb[5:0] (R95). -/
def execSra (d : BitVec 7) (a : BitVec 7) (b : BitVec 7) (s : State) : Host.Outcome State Fault Refusal :=
  scalar (.sra d a b) d s fun _ vs => ((arg vs 0).sshiftRight (shiftCount (arg vs 1)), 0)

/-- 1 if ga < gb as i64 (R95). -/
def execSlt (d : BitVec 7) (a : BitVec 7) (b : BitVec 7) (s : State) : Host.Outcome State Fault Refusal :=
  scalar (.slt d a b) d s fun _ vs => (ofBool ((arg vs 0).slt (arg vs 1)), 0)

/-- 1 if ga < gb as n64 (R95). -/
def execSltn (d : BitVec 7) (a : BitVec 7) (b : BitVec 7) (s : State) : Host.Outcome State Fault Refusal :=
  scalar (.sltn d a b) d s fun _ vs => (ofBool ((arg vs 0).ult (arg vs 1)), 0)

/-- The smaller as i64 (R95). -/
def execMin (d : BitVec 7) (a : BitVec 7) (b : BitVec 7) (s : State) : Host.Outcome State Fault Refusal :=
  scalar (.min d a b) d s fun _ vs => (if (arg vs 1).slt (arg vs 0) then arg vs 1 else arg vs 0, 0)

/-- The larger as i64 (R95). -/
def execMax (d : BitVec 7) (a : BitVec 7) (b : BitVec 7) (s : State) : Host.Outcome State Fault Refusal :=
  scalar (.max d a b) d s fun _ vs => (if (arg vs 0).slt (arg vs 1) then arg vs 1 else arg vs 0, 0)

/-- The smaller as n64 (R95). -/
def execMinn (d : BitVec 7) (a : BitVec 7) (b : BitVec 7) (s : State) : Host.Outcome State Fault Refusal :=
  scalar (.minn d a b) d s fun _ vs => (if (arg vs 1).ult (arg vs 0) then arg vs 1 else arg vs 0, 0)

/-- The larger as n64 (R95). -/
def execMaxn (d : BitVec 7) (a : BitVec 7) (b : BitVec 7) (s : State) : Host.Outcome State Fault Refusal :=
  scalar (.maxn d a b) d s fun _ vs => (if (arg vs 0).ult (arg vs 1) then arg vs 1 else arg vs 0, 0)

/-- SatI64(ga + gb), `sat` if clamped (R95). -/
def execAdds (d : BitVec 7) (a : BitVec 7) (b : BitVec 7) (s : State) : Host.Outcome State Fault Refusal :=
  scalar (.adds d a b) d s fun _ vs => satI64 ((arg vs 0).toInt + (arg vs 1).toInt)

/-- SatI64(ga - gb), `sat` if clamped (R95). -/
def execSubs (d : BitVec 7) (a : BitVec 7) (b : BitVec 7) (s : State) : Host.Outcome State Fault Refusal :=
  scalar (.subs d a b) d s fun _ vs => satI64 ((arg vs 0).toInt - (arg vs 1).toInt)

/-- SatN64(ga + gb), `sat` if clamped (R95). -/
def execAddsn (d : BitVec 7) (a : BitVec 7) (b : BitVec 7) (s : State) : Host.Outcome State Fault Refusal :=
  scalar (.addsn d a b) d s fun _ vs => satN64 (((arg vs 0).toNat : Int) + (arg vs 1).toNat)

/-- SatN64(ga - gb), `sat` if clamped (R95). -/
def execSubsn (d : BitVec 7) (a : BitVec 7) (b : BitVec 7) (s : State) : Host.Outcome State Fault Refusal :=
  scalar (.subsn d a b) d s fun _ vs => satN64 (((arg vs 0).toNat : Int) - (arg vs 1).toNat)

/-- The number of leading zero bits, 64 for 0 (R96). -/
def execClz (d : BitVec 7) (a : BitVec 7) (s : State) : Host.Outcome State Fault Refusal :=
  scalar (.clz d a) d s fun _ vs => (w64 (if arg vs 0 = 0 then 64 else 63 - (arg vs 0).toNat.log2), 0)

/-- The number of trailing zero bits, 64 for 0 (R96). -/
def execCtz (d : BitVec 7) (a : BitVec 7) (s : State) : Host.Outcome State Fault Refusal :=
  scalar (.ctz d a) d s fun _ vs => (w64 (trailing (arg vs 0).toNat 64), 0)

/-- The number of one bits (R96). -/
def execPopc (d : BitVec 7) (a : BitVec 7) (s : State) : Host.Outcome State Fault Refusal :=
  scalar (.popc d a) d s fun _ vs => (w64 (popCount (arg vs 0).toNat 64), 0)

/-- Bit i of the result is ga[63 - i] (R96). -/
def execBrev (d : BitVec 7) (a : BitVec 7) (s : State) : Host.Outcome State Fault Refusal :=
  scalar (.brev d a) d s fun _ vs => (w64 (revBits (arg vs 0).toNat 64), 0)

/-- Byte i of the result is byte 7 - i of ga (R96). -/
def execBswap (d : BitVec 7) (a : BitVec 7) (s : State) : Host.Outcome State Fault Refusal :=
  scalar (.bswap d a) d s fun _ vs => (w64 (leNat (leBytes 8 (arg vs 0).toNat).reverse), 0)

/-- ga rotated left by gb[5:0] (R96). -/
def execRol (d : BitVec 7) (a : BitVec 7) (b : BitVec 7) (s : State) : Host.Outcome State Fault Refusal :=
  scalar (.rol d a b) d s fun _ vs => ((arg vs 0).rotateLeft (shiftCount (arg vs 1)), 0)

/-- ga rotated right by gb[5:0] (R96). -/
def execRor (d : BitVec 7) (a : BitVec 7) (b : BitVec 7) (s : State) : Host.Outcome State Fault Refusal :=
  scalar (.ror d a b) d s fun _ vs => ((arg vs 0).rotateRight (shiftCount (arg vs 1)), 0)

/-- ga[w-1:0] sign-extended (R96). -/
def execSext (d : BitVec 7) (a : BitVec 7) (w : BitVec 7) (s : State) : Host.Outcome State Fault Refusal :=
  scalar (.sext d a w) d s fun _ vs => (BitVec.ofInt 64 (sval w.toNat (arg vs 0).toNat), 0)

/-- ga[w-1:0] zero-extended (R96). -/
def execZext (d : BitVec 7) (a : BitVec 7) (w : BitVec 7) (s : State) : Host.Outcome State Fault Refusal :=
  scalar (.zext d a w) d s fun _ vs => (w64 ((arg vs 0).toNat % 2 ^ w.toNat), 0)

/-- (ga + imm) mod 2^64 (R97). -/
def execAddi (d : BitVec 7) (a : BitVec 7) (i : BitVec 12) (s : State) : Host.Outcome State Fault Refusal :=
  scalar (.addi d a i) d s fun x vs => (arg vs 0 + immVal x.t i, 0)

/-- ga AND imm (R97). -/
def execAndi (d : BitVec 7) (a : BitVec 7) (i : BitVec 12) (s : State) : Host.Outcome State Fault Refusal :=
  scalar (.andi d a i) d s fun x vs => (arg vs 0 &&& immVal x.t i, 0)

/-- ga OR imm (R97). -/
def execOri (d : BitVec 7) (a : BitVec 7) (i : BitVec 12) (s : State) : Host.Outcome State Fault Refusal :=
  scalar (.ori d a i) d s fun x vs => (arg vs 0 ||| immVal x.t i, 0)

/-- ga XOR imm (R97). -/
def execXori (d : BitVec 7) (a : BitVec 7) (i : BitVec 12) (s : State) : Host.Outcome State Fault Refusal :=
  scalar (.xori d a i) d s fun x vs => (arg vs 0 ^^^ immVal x.t i, 0)

/-- 1 if ga < imm as i64 (R97). -/
def execSlti (d : BitVec 7) (a : BitVec 7) (i : BitVec 12) (s : State) : Host.Outcome State Fault Refusal :=
  scalar (.slti d a i) d s fun x vs => (ofBool ((arg vs 0).slt (immVal x.t i)), 0)

/-- 1 if ga < imm as n64 (R97). -/
def execSltni (d : BitVec 7) (a : BitVec 7) (i : BitVec 12) (s : State) : Host.Outcome State Fault Refusal :=
  scalar (.sltni d a i) d s fun x vs => (ofBool ((arg vs 0).ult (immVal x.t i)), 0)

/-- ga shifted left by n (R98). -/
def execSlli (d : BitVec 7) (a : BitVec 7) (n : BitVec 6) (s : State) : Host.Outcome State Fault Refusal :=
  scalar (.slli d a n) d s fun _ vs => (arg vs 0 <<< n.toNat, 0)

/-- ga shifted right by n, zero fill (R98). -/
def execSrli (d : BitVec 7) (a : BitVec 7) (n : BitVec 6) (s : State) : Host.Outcome State Fault Refusal :=
  scalar (.srli d a n) d s fun _ vs => (arg vs 0 >>> n.toNat, 0)

/-- ga shifted right arithmetically by n (R98). -/
def execSrai (d : BitVec 7) (a : BitVec 7) (n : BitVec 6) (s : State) : Host.Outcome State Fault Refusal :=
  scalar (.srai d a n) d s fun _ vs => ((arg vs 0).sshiftRight n.toNat, 0)

/-- ga rotated right by n (R98). -/
def execRori (d : BitVec 7) (a : BitVec 7) (n : BitVec 6) (s : State) : Host.Outcome State Fault Refusal :=
  scalar (.rori d a n) d s fun _ vs => ((arg vs 0).rotateRight n.toNat, 0)

/-! ### Multiply and divide: long-latency pairs (R99 to R102) -/

/-- The exact product of two i64 values as 128 bits: low and high half (R100). -/
def mulPair (a b : Word) : Word × Word :=
  let p : BitVec 128 := BitVec.ofInt 128 (a.toInt * b.toInt)
  (p.extractLsb' 0 64, p.extractLsb' 64 64)

/-- Quotient and remainder as i64, with the corners of R101. -/
def divPair (a b : Word) : (Word × Word) × Flags :=
  if b = 0 then ((0xFFFFFFFFFFFFFFFF, a), fDz)
  else if a = 0x8000000000000000 ∧ b = 0xFFFFFFFFFFFFFFFF then ((0x8000000000000000, 0), fOf)
  else ((BitVec.ofInt 64 (a.toInt.tdiv b.toInt), BitVec.ofInt 64 (a.toInt.tmod b.toInt)), 0)

/-- A long-latency word whose result is known at issue: an entry with its value, which arrives later (R82, R102). -/
def issueLate (s : State) (x : Iss) (dst : Dst) (k : BitVec 4) (v : PVal) (f : Flags) : State :=
  let n := fresh s
  retire (addPending n.2 x n.1 dst k.toNat (some v) f) x

/-- The exact signed product into a pair at the window's close (R100, R102). -/
def execMul (d : BitVec 7) (a : BitVec 7) (b : BitVec 7) (k : BitVec 4) (s : State) : Host.Outcome State Fault Refusal :=
  word (.mul d a b k) s fun x vs s =>
    let r := mulPair (arg vs 0) (arg vs 1)
    issueLate s x (.pair d) k (.pair r.1 r.2) 0

/-- Quotient and remainder into a pair at the window's close (R101, R102). -/
def execDiv (d : BitVec 7) (a : BitVec 7) (b : BitVec 7) (k : BitVec 4) (s : State) : Host.Outcome State Fault Refusal :=
  word (.div d a b k) s fun x vs s =>
    let r := divPair (arg vs 0) (arg vs 1)
    issueLate s x (.pair d) k (.pair r.1.1 r.1.2) r.2

/-! ### Compare-skip (R86, R87, R103) -/

/-- A condition of R86. -/
def cond (c : BitVec 4) (a b : Word) : Bool :=
  match c.toNat with
  | 0 => a == b
  | 1 => a != b
  | 2 => a.slt b
  | 3 => !a.slt b
  | 4 => a.ult b
  | 5 => !a.ult b
  | 6 => (a &&& b) != 0
  | _ => (a &&& b) == 0

/-- The effect of a compare: the predicate, and the words to annul (R86). -/
def compare (s : State) (x : Iss) (c : Bool) (p : BitVec 5) (k : BitVec 2) (e : BitVec 1) : State :=
  retire (updStrand s x.g x.sid fun t =>
    let t := t.setP p.toNat c
    if k != 0 && (c == (e == 1)) then { t with annul := k.toNat } else t) x

/-- Compares ga with gb (R86). -/
def execCmp (a : BitVec 7) (b : BitVec 7) (c : BitVec 4) (p : BitVec 5) (s : BitVec 2) (e : BitVec 1) (st : State) : Host.Outcome State Fault Refusal :=
  word (.cmp a b c p s e) st fun x vs st => compare st x (cond c (arg vs 0) (arg vs 1)) p s e

/-- Compares ga with imm7 (R86, R75). -/
def execCmpi (a : BitVec 7) (i : BitVec 7) (c : BitVec 4) (p : BitVec 5) (s : BitVec 2) (e : BitVec 1) (st : State) : Host.Outcome State Fault Refusal :=
  word (.cmpi a i c p s e) st fun x vs st => compare st x (cond c (arg vs 0) (i.signExtend 64)) p s e

/-! ### Predicates and select (R104 to R106) -/

/-- A predicate written and the word complete. -/
def setPred (s : State) (x : Iss) (p : Nat) (v : Bool) : State :=
  retire (updStrand s x.g x.sid fun t => t.setP p v) x

/-- Pred[d] := Pred[a] AND Pred[b]; p0 stays 1 (R105). -/
def execPand (d : BitVec 5) (a : BitVec 5) (b : BitVec 5) (s : State) : Host.Outcome State Fault Refusal :=
  word (.pand d a b) s fun x _ s => setPred s x d.toNat (x.t.p a.toNat && x.t.p b.toNat)

/-- Pred[d] := Pred[a] OR Pred[b]; p0 stays 1 (R105). -/
def execPor (d : BitVec 5) (a : BitVec 5) (b : BitVec 5) (s : State) : Host.Outcome State Fault Refusal :=
  word (.por d a b) s fun x _ s => setPred s x d.toNat (x.t.p a.toNat || x.t.p b.toNat)

/-- Pred[d] := Pred[a] XOR Pred[b]; p0 stays 1 (R105). -/
def execPxor (d : BitVec 5) (a : BitVec 5) (b : BitVec 5) (s : State) : Host.Outcome State Fault Refusal :=
  word (.pxor d a b) s fun x _ s => setPred s x d.toNat (x.t.p a.toNat != x.t.p b.toNat)

/-- Pred[d] := Pred[a] AND NOT Pred[b]; p0 stays 1 (R105). -/
def execPandn (d : BitVec 5) (a : BitVec 5) (b : BitVec 5) (s : State) : Host.Outcome State Fault Refusal :=
  word (.pandn d a b) s fun x _ s => setPred s x d.toNat (x.t.p a.toNat && !x.t.p b.toNat)

/-- Pred[d] := Pred[a] OR NOT Pred[b]; p0 stays 1 (R105). -/
def execPorn (d : BitVec 5) (a : BitVec 5) (b : BitVec 5) (s : State) : Host.Outcome State Fault Refusal :=
  word (.porn d a b) s fun x _ s => setPred s x d.toNat (x.t.p a.toNat || !x.t.p b.toNat)

/-- Pred[d] := NOT Pred[a]; p0 stays 1 (R105). -/
def execPnot (d : BitVec 5) (a : BitVec 5) (s : State) : Host.Outcome State Fault Refusal :=
  word (.pnot d a) s fun x _ s => setPred s x d.toNat (!x.t.p a.toNat)

/-- The predicate word, zero-extended; bit 0 reads 1 (R105). -/
def execMfp (d : BitVec 7) (s : State) : Host.Outcome State Fault Refusal :=
  scalar (.mfp d) d s fun x _ => ((x.t.pred ||| 1).zeroExtend 64, 0)

/-- Pred[31:1] := (Pred AND NOT gb OR ga AND gb)[31:1] (R105). -/
def execMtp (a : BitVec 7) (b : BitVec 7) (s : State) : Host.Outcome State Fault Refusal :=
  word (.mtp a b) s fun x vs s =>
    let m := (arg vs 1).truncate 32
    retire (updStrand s x.g x.sid fun t =>
      { t with pred := ((t.pred &&& ~~~m) ||| ((arg vs 0).truncate 32 &&& m)) ||| 1 }) x

/-- ga if Pred[n] is 1, else gb; both are read (R105). -/
def execSel (d : BitVec 7) (a : BitVec 7) (b : BitVec 7) (n : BitVec 4) (s : State) : Host.Outcome State Fault Refusal :=
  scalar (.sel d a b n) d s fun x vs => (if x.t.p n.toNat then arg vs 0 else arg vs 1, 0)

end Sys2Proof.Machine
end

