-- ==== Sys2Proof/Machine/Control.lean ====
section
/-! DEFINITION. Majors 15 to 19, 32 and 62: branches and calls (R110 to R112), the window stack (R113 to R115), creating and
ending strands (R116 to R120), system words (R121), hints (R88 to R90). -/

namespace Sys2Proof.Machine

/-! ### Branches and calls -/

/-- The address of the word after the current one. -/
def Strand.next (t : Strand) : Addr := t.pc + 4

/-- The target of a word offset, modulo 2^48 (R75). -/
def branchTo {w : Nat} (t : Strand) (o : BitVec w) : Addr := t.pc + o.signExtend 48 * 4

/-- Target(v): v[47:2] || 00 (R111). -/
def jumpAddr (v : Word) : Addr := v.truncate 48 &&& ~~~3

/-- Branches by a signed word offset (R110). -/
def execBr (o : BitVec 26) (s : State) : Host.Outcome State Fault Refusal :=
  word (.br o) s fun x _ s => jumpTo s x (branchTo x.t o)

/-- lr := pc + 4, then the branch (R110). -/
def execCall (o : BitVec 26) (s : State) : Host.Outcome State Fault Refusal :=
  word (.call o) s fun x _ s =>
    jumpTo (writeDst s x.g x.sid 123 (x.t.next.zeroExtend 64)) x (branchTo x.t o)

/-- Branches when the predicate is 1 (R110). -/
def execBp (p : BitVec 5) (o : BitVec 20) (s : State) : Host.Outcome State Fault Refusal :=
  word (.bp p o) s fun x _ s => jumpTo s x (if x.t.p p.toNat then branchTo x.t o else x.t.next)

/-- Branches when the predicate is 0 (R110). -/
def execBpn (p : BitVec 5) (o : BitVec 20) (s : State) : Host.Outcome State Fault Refusal :=
  word (.bpn p o) s fun x _ s => jumpTo s x (if x.t.p p.toNat then x.t.next else branchTo x.t o)

/-- Jumps to ga[47:2] || 00 (R111). -/
def execJr (a : BitVec 7) (s : State) : Host.Outcome State Fault Refusal :=
  word (.jr a) s fun x vs s => jumpTo s x (jumpAddr (arg vs 0))

/-- Jumps to ga; gd := pc + 4, ga read first (R111). -/
def execJalr (d : BitVec 7) (a : BitVec 7) (s : State) : Host.Outcome State Fault Refusal :=
  word (.jalr d a) s fun x vs s =>
    jumpTo (writeDst s x.g x.sid d (x.t.next.zeroExtend 64)) x (jumpAddr (arg vs 0))

/-- Jumps to the address in `lr` (R111). -/
def execRet (s : State) : Host.Outcome State Fault Refusal :=
  word .ret s fun x _ s => jumpTo s x (jumpAddr x.t.lr)

/-! ### The window stack -/

/-- The words a strand's frames take (R113). -/
def stackWords (t : Strand) : Nat := (t.frames.map fun f => f.k + 2).sum

/-- The general entries that no strand's run and no resident frame takes (R31, R208). -/
def spareEntries (c : Core) : Nat :=
  2048 - (c.strands.map fun p => p.2.gRun.2 + ((p.2.frames.filter fun f => f.resident).map fun f => f.k + 2).sum).sum

/-- Pushes a frame of `lr` and g8 to g(8+k-1); waits for spare entries (R113, R204, R208). -/
def execEnter (k : BitVec 2) (s : State) : Host.Outcome State Fault Refusal :=
  word (.enter k) s fun x _ s =>
    let n := frameK k
    if 512 < stackWords x.t + n + 2 then raiseAt s x 0 4 0 0 63
    else if spareEntries x.c < n + 2 then waitFor s x .frame
    else
      let f : Frame :=
        { k := n, age := s.nextId, lr := x.t.lr, regs := (List.range n).map fun i => kget x.t.regs (8 + i) 0, resident := true }
      retire (updStrand { s with nextId := s.nextId + 1 } x.g x.sid fun t => { t with frames := f :: t.frames }) x

/-- Registers g(8+i) from a frame. -/
def restoreRegs (m : KMap Word) : Nat → List Word → KMap Word
  | _, [] => m
  | n, v :: r => restoreRegs (kset m n v) (n + 1) r

/-- Pops the top frame of size k; stalls while it is spilled (R113). -/
def execLeave (k : BitVec 2) (s : State) : Host.Outcome State Fault Refusal :=
  word (.leave k) s fun x _ s =>
    match x.t.frames with
    | [] => raiseAt s x 0 3 0 0 63
    | f :: r =>
      if f.k ≠ frameK k then raiseAt s x 0 2 0 0 63
      else if !f.resident then waitFor s x .frame
      else retire (updStrand s x.g x.sid fun t => { t with frames := r, lr := f.lr, regs := restoreRegs t.regs 8 (f.regs.take f.k) }) x

/-! ### Addresses of accesses: alignment and migration (R175, R371) -/

/-- Where an access of a roaming strand takes it (R371). -/
inductive Mig where
  | stay
  | move (h : Nat)
  | outside
  deriving DecidableEq, Repr

/-- The fate of an access by its address (R371). -/
def migration (s : State) (x : Iss) (a : Nat) : Mig :=
  if !x.t.roaming || !isSpad a then .stay
  else
    let h := slotOf a
    if h = x.g ∨ coreDisabled s h then .stay
    else if ((taskOn s x.g).map fun t => t.members.contains h).getD false then .move h
    else .outside

/-- Whether a range lies within some window of an agent whose access bits permit a direction (R437). -/
def inWindow (t : Strand) (a n : Nat) (dir : BitVec 2) : Bool :=
  t.wins.any fun p => (p.2.access &&& dir) == dir && decide (p.2.base.toNat ≤ a) && decide (a + n ≤ p.2.limit.toNat)

/-- An access at issue, of `width` bytes aligned to `al`: a misaligned address and a target outside the gang take their
exceptions, a migrating word waits for its departure, a pending entry at it is the instruction fault 0x0005, and a debug
launch audits the windows (R175, R371, R372, R437). `s0` is the state before the word popped anything. -/
def accessAt (s0 s : State) (x : Iss) (ea : Word) (al width : Nat) (dir : BitVec 2) (k : Nat → State) : State :=
  let a := addrOf ea
  if a % al ≠ 0 then raiseAt s0 x 1 2 0 ea.toNat 63
  else if debugOn s x.g && !inWindow x.t a width dir then raiseAt s0 x 9 2 (w64 width) ea.toNat 63
  else match migration s x a with
  | .stay => k a
  | .outside => raiseAt s0 x 1 9 0 ea.toNat 63
  | .move h => if x.t.pending.isEmpty then waitFor s0 x (.migrate h) else raiseAt s0 x 0 5 0 0 63

/-- What a memory access waits for at issue (R179, R182). -/
def accessGate (s : State) (relaxed : Bool) (x : Iss) : Option Wait :=
  if accessReady s x.g x.sid relaxed then none else some .access

/-! ### Lock-step checkpoints (R212) -/

/-- Whether the engines of a core are idle. -/
def enginesIdle (c : Core) : Bool := c.vq.isEmpty && c.vrun.isNone && c.mq.isEmpty && c.mrun.isNone

/-- The words that a saved strand will count again: the hints that govern it, two for a `rep` that `rlx` governs, and the word it is at
(R81, R89, R90). -/
def recounted (t : Strand) : Nat :=
  (match t.hint with
    | .none => 0
    | .rep _ rl _ _ _ => if rl then 2 else 1
    | _ => 1) + (if t.counted then 1 else 0)

/-- A strand as a checkpoint or a save holds it: its program counter at the hint that governs it (R89, R90), its pending
entries with their remaining counts as if nothing intervened (R84). -/
def savedStrand (t : Strand) : Strand :=
  { t with pc := savePc t, hint := .none, wait := none, lastIssue := none, counted := false,
           pending := t.pending.map fun p => { p with remaining := p.remaining + recounted t } }

/-- Whether an access of a strand stands behind another that the release buffer of its pair holds (R182, R210). -/
def behindHeld (s : State) (a : Access) : Bool := s.accs.any fun b => heldBack s b && standsBefore b a

/-- The `vswap` of a core that waits for its partner's vector (R242). -/
def swapWaiting (c : Core) : Option VRun := c.vrun.filter fun r => r.partner

/-- The accesses of the vector words of a core that have no work started: queued ones, and a `vswap` that waits for its partner (R225, R452). -/
def vecAccs (c : Core) : List Nat := (c.vq ++ ((swapWaiting c).map fun r => r.entry).toList).filterMap fun e => e.acc

/-- The accesses of a core that stand still: parked, of a vector word that has not started, or behind an access that its release buffer
holds (R172, R182, R210, R225). -/
def parkedOf (s : State) (g : Nat) : List Access :=
  s.accs.filter fun a => a.gcn == g && (a.parked || (vecAccs (coreAt s g)).contains a.id || behindHeld s a)

/-- The numbers that the release buffer lets go, in its order, behind those that still drain (R212). -/
def drainOf (s : State) (g : Nat) (l : Lock) : List Nat := (l.drain.filter (outstanding s g)) ++ l.release

/-- The number of the task's faults at a core. -/
def faultsAt (s : State) (g : Nat) : Nat := (((taskOn s g).map fun t => t.faults).getD [] |>.filter fun f => f.gcn == g).length

/-- The lock-step record after a checkpoint: strands, tiles and the core's own queues and tables saved, a waiting `vswap` among the queued words, the buffer draining, the log empty; the strands
whose word asked for it may issue (R210, R212). -/
def lockSaved (s : State) (g : Nat) (c : Core) (l : Lock) : Lock :=
  { release := [], drain := drainOf s g l, granted := (c.strands.filter fun p => p.2.wait == some .checkpoint).map fun p => p.1,
    undo := [], lastCkpt := s.clk, strands := c.strands.map fun p => (p.1, savedStrand p.2), tiles := c.tiles,
    missed := l.missed, count := l.count + 1, mark := s.nextId, parked := parkedOf s g, deque := c.deque, startQ := c.startQ,
    kregs := c.kregs, kpend := c.kpend, tagTab := c.tagTab, victims := c.victims, mailbox := c.mailbox, epHalted := c.epHalted, channels := c.channels,
    bits := [], events := c.events, vq := ((swapWaiting c).map fun r => r.entry).toList ++ c.vq, mq := c.mq,
    swapped := c.vswapStarted - (swapWaiting c).toList.length, swaps := [], chUsed := [], bufUsed := [],
    landed := c.landed, faults := faultsAt s g }

/-- Whether a checkpoint can be taken: the engines are idle, or in a quiescence have nothing started (R450, R452), every pending value has arrived or waits for an access that stands still,
every access but those held back is performed or stands still, and every request has been answered (R84, R212). -/
def lockQuiet (s : State) (g : Nat) : Bool :=
  let c := coreAt s g
  let still := parkedOf s g
  (enginesIdle c || (quiescing s g && !startedWork c)) && c.strands.all (fun p => p.2.pending.all fun q => q.arrived || still.any fun a => a.id == q.id) &&
  s.reqs.all (fun r => r.gcn != g) && s.accs.all fun a => a.gcn != g || a.performed || heldBack s a || still.any fun b => b.id == a.id

/-- The checkpoint areas of a pair written, in a layout that is not architectural (R212). -/
def writeCkptAreas (s : State) (g : Nat) : State :=
  let area (s : State) (h : Nat) : State := scribble s (slotBase h + 0x100000) 0x40000 s.nextId
  { area (area s g) (g + 1) with nextId := s.nextId + 1 }

/-- The requests among the accesses that a release buffer lets go are sent now, in its order (R210, R305). -/
def sendReleased (s : State) (l : List Nat) : State :=
  l.foldl (fun s n => match accAt? s n with
    | some a => sendLate s a
    | none => s) s

/-- A lock-step checkpoint: strands and tiles are saved, the release buffer begins to drain and the undo log is cleared (R212). -/
def lockCheckpoint (s : State) (g : Nat) : Option State :=
  let c := coreAt s g
  match c.lock with
  | none => none
  | some l =>
    if lockQuiet s g then
      some (writeCkptAreas (sendReleased (updCore s g fun c => { c with lock := some (lockSaved s g c l) }) l.release) g)
    else none

/-- Whether the release buffer of a core's pair still drains (R212). -/
def lockDrains (s : State) (g : Nat) : Bool :=
  ((coreAt s g).lock.map fun l => l.drain.any (outstanding s g)).getD false

/-- Whether a checkpoint of a core is due: the release buffer or the undo log is full, or 1,024 cycles have passed (R212). -/
def lockDue (s : State) (g : Nat) : Bool :=
  match (coreAt s g).lock with
  | none => false
  | some l => decide (64 ≤ l.release.length) || decide (1024 ≤ l.undo.length) || decide (l.lastCkpt.toNat + 1024 ≤ s.clk.toNat)

/-- Whether issue stops on a lock-step pair for a checkpoint: one is due or drains, or the word of another agent asks for one (R212). -/
def lockStops (s : State) (x : Iss) : Bool :=
  x.c.lock.isSome && (lockDue s x.g || lockDrains s x.g || x.c.strands.any fun p => p.1 != x.sid && p.2.wait == some .checkpoint)

/-- A word that first takes a checkpoint in a lock-step pair: it waits for one, and passes once one was taken for it (R88, R210). -/
def afterCheckpoint (s : State) (x : Iss) (k : State → State) : State :=
  match x.c.lock with
  | none => k s
  | some l =>
    if l.granted.contains x.sid then
      k (updCore s x.g fun c => { c with lock := c.lock.map fun l => { l with granted := sdel l.granted x.sid } })
    else waitFor s x .checkpoint

/-- Whether an address lies outside a lock-step pair's leader slot (R210). -/
def leavesPair (x : Iss) (a : Nat) : Bool := x.c.lock.isSome && !(isSpad a && slotOf a == x.g)

/-- A synchronising access: one that leaves a lock-step pair first takes a checkpoint (R210, R212). -/
def syncAccess (s : State) (x : Iss) (a : Nat) (k : State → State) : State :=
  if leavesPair x a then afterCheckpoint s x k else k s

/-! ### Creating and ending strands -/

/-- Whether a strand's vector work is done (R222, R223). -/
def vecDone (s : State) (g sid : Nat) : Bool :=
  let c := coreAt s g
  c.vq.all (fun e => e.sid != sid) && (match c.vrun with
    | none => true
    | some r => r.entry.sid != sid) && (accsOf s g sid).all fun a => a.kind != .vector && a.kind != .vst

/-- What `fork` waits for: every access that precedes it in the strand's order is performed, and every push has landed (R117). -/
def forkGate (s : State) (x : Iss) : Option Wait :=
  if (accsOf s x.g x.sid).isEmpty && !unacked s x.g x.sid then none else some .access

/-- `fork` and `fork.r`: a child pushed onto the bottom of the deque, or p cleared when it is full (R117). In a cascade both are illegal,
before anything else (R317). -/
def forkWith (i : Instr) (p : BitVec 5) (o : BitVec 7) (carry : Option Nat) (s : State) : Host.Outcome State Fault Refusal :=
  onIssuer s fun x =>
    if ((taskOn s x.g).map fun t => t.period != 0).getD false then illegal s x
    else wordOn i s x (forkGate s x) fun x vs s =>
      if 32 ≤ x.c.deque.length then setPred s x p.toNat false
      else
        let roam := carry.isSome || x.t.roaming
        let ch : Child :=
          { pc := branchTo x.t o, g0 := arg vs 0, g1 := 0, g2 := 0, roaming := roam,
            shapeW := if roam then 0 else x.t.shapeW, shapeV := if roam then 0 else x.t.shapeV,
            shapeD := if roam then 0 else x.t.shapeD,
            carry := if roam then carry.getD x.t.carry else 0, tid := x.t.tid }
        setPred (updCore s x.g fun c => { c with deque := c.deque ++ [ch] }) x p.toNat true

/-- A child of the parent's kind and shape (R117). -/
def execFork (p : BitVec 5) (a : BitVec 7) (o : BitVec 7) (s : State) : Host.Outcome State Fault Refusal :=
  forkWith (.fork p a o) p o none s

/-- A roaming child with carry 8 (R117). -/
def execForkRCarry8 (p : BitVec 5) (a : BitVec 7) (o : BitVec 7) (s : State) : Host.Outcome State Fault Refusal :=
  forkWith (.forkRCarry8 p a o) p o (some 8) s

/-- A roaming child with carry 16 (R117). -/
def execForkRCarry16 (p : BitVec 5) (a : BitVec 7) (o : BitVec 7) (s : State) : Host.Outcome State Fault Refusal :=
  forkWith (.forkRCarry16 p a o) p o (some 16) s

/-- A roaming child with carry 24 (R117). -/
def execForkRCarry24 (p : BitVec 5) (a : BitVec 7) (o : BitVec 7) (s : State) : Host.Outcome State Fault Refusal :=
  forkWith (.forkRCarry24 p a o) p o (some 24) s

/-- A word that reads or changes one memory word and completes by the step that performs it: the strand leaves the
rotation with the access in flight, which keeps what the word popped (R119, R118, R200). -/
def blockOn (s : State) (x : Iss) (kind : AccKind) (a : Nat) (popped : List Word) : State :=
  let r := addAccess s { Access.fresh s x kind a 0 0 false with popped := popped }
  waitFor r.2 x (.parked r.1)

/-- `hole` set for an access to a hole address (R19). -/
def holeFlag (s : State) (x : Iss) (a n : Nat) : State := mergeFlags s x.g x.sid (flagIf (anyHole s a n) fHole)

/-- Completes when the counter word is 0, else parks on it; a hole word reads 0 (R119). -/
def execJoin (e : BitVec 7) (s : State) : Host.Outcome State Fault Refusal :=
  wordG (.join e) s (accessGate s false) fun x vs s1 =>
    accessAt s s1 x (arg vs 0) 8 8 1 fun a =>
      if holeAt s1 a then retire (holeFlag s1 x a 8) x
      else syncAccess s1 x a fun s => blockOn s x .join a (poppedOf x (.join e) vs)

/-- A matrix command whose strand has gone: its flags will have no taker (R251). -/
def orphan (sid : Nat) (m : MCmd) : MCmd := if m.sid = sid then { m with sid := noSid } else m

/-- The strand's slot freed: registers, frames and sid go (R118, R207). -/
def freeSlot (s : State) (g sid : Nat) : State :=
  let free (c : Core) : Core :=
    { c with strands := kdel c.strands sid, mq := c.mq.map (orphan sid),
             mrun := c.mrun.map fun r => { r with cmd := orphan sid r.cmd } }
  updCore s g free

/-- What `exit` waits for: pending values, vector work, every earlier access and push (R118). -/
def exitGate (s : State) (x : Iss) : Option Wait :=
  if !(x.t.pending.all fun p => p.arrived) then some .window
  else if !vecDone s x.g x.sid then some .engine
  else if !(accsOf s x.g x.sid).isEmpty || unacked s x.g x.sid then some .access
  else none

/-- Ends the strand; a counter that is not `zr` is first decremented at its bank as a release (R118). -/
def execExit (a : BitVec 7) (s : State) : Host.Outcome State Fault Refusal :=
  wordG (.exit a) s (exitGate s) fun x vs s1 =>
    if a = 120 then freeSlot s1 x.g x.sid
    else
      let ea := arg vs 0
      let m := addrOf ea
      if m % 8 ≠ 0 then raiseAt s x 1 2 0 ea.toNat 63
      else if debugOn s x.g && !inWindow x.t m 8 3 then raiseAt s x 9 2 8 ea.toNat 63
      else if holeAt s1 m then freeSlot s1 x.g x.sid
      else syncAccess s1 x m fun s =>
        blockOn (updStrand s x.g x.sid fun t => { t with pending := [] }) x .exitDec m (poppedOf x (.exit a) vs)

/-- Whether a strand is ready: it has not stopped, it waits for nothing, and no `stf` of it stands parked (R202, R204). -/
def ready (s : State) (g : Nat) (p : Nat × Strand) : Bool :=
  !p.2.stopped && p.2.wait.isNone && !(accsOf s g p.1).any fun a => a.kind == .stf && a.parked

/-- The strands of a core that are ready, but one (R120, R202). -/
def readyOthers (s : State) (g sid : Nat) : List Nat :=
  ((coreAt s g).strands.filter fun p => p.1 != sid && p.1 != 64 && ready s g p).map fun p => p.1

/-- Places the strand behind every ready strand of its core (R120). -/
def execYield (s : State) : Host.Outcome State Fault Refusal :=
  word .yield s fun x _ s =>
    updStrand (retire s x) x.g x.sid fun t =>
      let r := readyOthers s x.g x.sid
      if r.isEmpty then t else { t with yieldSet := r, wait := some .yielding }

/-! ### System words (R121) -/

/-- Does nothing (R121). -/
def execNop (s : State) : Host.Outcome State Fault Refusal :=
  word .nop s fun x _ s => retire s x

/-- Takes the software-trap exception with a code and ga as aux (R121). -/
def execTrap (a : BitVec 7) (c : BitVec 7) (s : State) : Host.Outcome State Fault Refusal :=
  word (.trap a c) s fun x vs _ => raiseAt s x 8 c.toNat (arg vs 0) 0 63

/-- In a debug launch the software trap 0x0080; otherwise nothing (R121). -/
def execBrk (s : State) : Host.Outcome State Fault Refusal :=
  word .brk s fun x _ s => if debugOn s x.g then raiseAt s x 8 0x80 0 0 63 else retire s x

/-- A core shared register as an instruction issuing at a cycle sees it (R206). -/
def readK (c : Core) (now : BitVec 64) (n : Nat) : Word :=
  c.kpend.foldl (fun v e => if e.2.1 = n ∧ e.1 ≤ now then e.2.2 else v) (kget c.kregs n 0)

/-- The writes that are visible to everyone taken over into the registers (R206). -/
def settleK (c : Core) (now : BitVec 64) : Core :=
  { c with kregs := c.kpend.foldl (fun m e => if e.1 ≤ now then kset m e.2.1 e.2.2 else m) c.kregs,
           kpend := c.kpend.filter fun e => !decide (e.1 ≤ now) }

/-- The status or shared register that a number names (R40, R121, R279). -/
def statusReg (s : State) (x : Iss) (n : Nat) : Word :=
  match n with
  | 0 => w64 x.sid
  | 1 => w64 x.g
  | 2 => x.t.tid
  | 3 => s.clk
  | 4 => x.t.flags.zeroExtend 64
  | 5 => x.t.rnd.zeroExtend 64
  | 6 => w64 x.t.frames.length
  | 7 => x.t.tagc.zeroExtend 64
  | 8 => w64 (if x.t.roaming then x.t.carry else 0)
  | 9 => w64 (((taskOn s x.g).map Task.cap).getD 0)
  | n => readK x.c s.clk (n - 16)

/-- A word naming `flags` waits for the strand's vector work (R222). -/
def flagsGate (s : State) (n : BitVec 7) (x : Iss) : Option Wait :=
  if n = 4 ∧ vecDone s x.g x.sid = false then some .engine else none

/-- Reads a status or core shared register (R121, R40). -/
def execMfs (d : BitVec 7) (n : BitVec 7) (s : State) : Host.Outcome State Fault Refusal :=
  wordG (.mfs d n) s (flagsGate s n) fun x _ s1 => finish s1 x d (statusReg s x n.toNat, 0)

/-- Writes `flags`, `rnd` or a core shared register (R121, R40 to R44, R206). -/
def execMts (a : BitVec 7) (n : BitVec 7) (s : State) : Host.Outcome State Fault Refusal :=
  wordG (.mts a n) s (flagsGate s n) fun x vs s =>
    let v := arg vs 0
    if n = 4 then retire (updStrand s x.g x.sid fun t => { t with flags := v.truncate 9 }) x
    else if n = 5 then retire (updStrand s x.g x.sid fun t => { t with rnd := v.truncate 2 }) x
    else
      let write (c : Core) : Core :=
        let c := settleK c s.clk
        { c with kpend := c.kpend ++ [(s.clk + 3, n.toNat - 16, v)] }
      retire (updCore s x.g write) x

/-! ### Hints (R88 to R90) -/

/-- A hint word consumed: the next word is governed by it. -/
def setHint (s : State) (x : Iss) (h : Hint) : State :=
  updStrand s x.g x.sid fun t => { t with pc := t.pc + 4, hint := h, counted := false, wait := none }

/-- Bits 33:12 of the governed word's immediate (R88). -/
def execImmHi (p : BitVec 22) (s : State) : Host.Outcome State Fault Refusal :=
  word (.immHi p) s fun x _ s => setHint s x (.immHi (savePc x.t) p)

/-- The governed access is relaxed (R88, R182). -/
def execRlx (s : State) : Host.Outcome State Fault Refusal :=
  word .rlx s fun x _ s => setHint s x (.rlx (savePc x.t))

/-- The prefix of a repeat: a count above n is illegal, a count of 0 falls through past the governed word, and otherwise
the governed word is issued count times (R90). -/
def execRep (n : BitVec 6) (c : BitVec 7) (m : BitVec 3) (s : State) : Host.Outcome State Fault Refusal :=
  word (.rep n c m) s fun x _ s =>
    let v := (x.t.gen c).toNat
    if n.toNat + 1 < v then illegal s x
    else if v = 0 then jumpTo s x (x.t.pc + 8)
    else
      let rl := match x.t.hint with
        | .rlx _ => true
        | _ => false
      setHint s x (.rep (savePc x.t) rl (n.toNat + 1) c m)

/-- Asks for a lock-step checkpoint at the hint's own issue; no effect elsewhere (R88, R212). -/
def execCkpt (s : State) : Host.Outcome State Fault Refusal :=
  word .ckpt s fun x _ s =>
    let h := Hint.ckpt (savePc x.t)
    afterCheckpoint s x fun s => setHint s x h

end Sys2Proof.Machine
end

