-- ==== Sys2Proof/Machine/Memory.lean ====
section
/-! DEFINITION. Majors 20 to 28 at issue: loads and stores (R174 to R182), full/empty accesses (R183), atomics (R184, R185),
the tag table (R186 to R191), windows (R192 to R195), fences (R196 to R198) and barriers (R199, R200). What an access does
when it is performed stands in Machine/Access.lean. -/

namespace Sys2Proof.Machine

/-- EA := base + off6 × width (R174). -/
def effAddr (base : Word) (o : BitVec 6) (width : Nat) : Word := base + o.signExtend 64 * w64 width

/-- The width that a size field selects (R75). -/
def sizeBytes (z : BitVec 2) : Nat := 2 ^ z.toNat

/-- The gate of a memory access that `rlx` may govern (R179, R182). -/
def memGate (s : State) (x : Iss) : Option Wait := accessGate s (relaxedWord x.t) x

/-- A long-latency access at issue: the access in flight, its pending entry, the next word (R80, R82). -/
def issueLoad (s : State) (x : Iss) (kind : AccKind) (a : Nat) (data : Word) (dst : Dst) (k : BitVec 4) (relaxed : Bool) : State :=
  let r := newAccess s x kind a data 0 relaxed
  retire (addPending r.2 x r.1 dst k.toNat none 0) x

/-- A load of a width, extended by zeros or by its sign (R177). -/
def loadWord (i : Instr) (d : RCode) (k : BitVec 4) (z : BitVec 2) (o : BitVec 6) (signed : Bool) (s : State) :
    Host.Outcome State Fault Refusal :=
  wordG i s (memGate s) fun x vs s1 =>
    let w := sizeBytes z
    accessAt s s1 x (effAddr (arg vs 0) o w) w w 1 fun a =>
      issueLoad s1 x (.load w signed) a 0 (.gen d) k (relaxedWord x.t)

/-- gd := ZeroExtend(Mem(EA)) at the window's close (R177). -/
def execLd (d : BitVec 7) (b : BitVec 7) (k : BitVec 4) (z : BitVec 2) (o : BitVec 6) (s : State) : Host.Outcome State Fault Refusal :=
  loadWord (.ld d b k z o) d k z o false s

/-- gd := SignExtend(Mem(EA)) at the window's close (R177). -/
def execLds (d : BitVec 7) (b : BitVec 7) (k : BitVec 4) (z : BitVec 2) (o : BitVec 6) (s : State) : Host.Outcome State Fault Refusal :=
  loadWord (.lds d b k z o) d k z o true s

/-- A store at issue: the access in flight; one that leaves a lock-step pair enters the release buffer, and waits while that is full
(R179, R210, R212). -/
def issueStore (s : State) (x : Iss) (kind : AccKind) (a n : Nat) (data : Word) (vdata : Vec) (relaxed : Bool) : State :=
  if leavesPair x a && lockDue s x.g then waitFor s x .halt
  else
    let r := newAccess (holeFlag s x a n) x kind a data vdata relaxed
    let hold (c : Core) : Core := { c with lock := c.lock.map fun l => { l with release := l.release ++ [r.1] } }
    retire (if leavesPair x a then updCore r.2 x.g hold else r.2) x

/-- Mem(EA) := the low bytes of gs (R177). -/
def execSt (d : BitVec 7) (b : BitVec 7) (z : BitVec 2) (o : BitVec 6) (s : State) : Host.Outcome State Fault Refusal :=
  wordG (.st d b z o) s (memGate s) fun x vs s1 =>
    let w := sizeBytes z
    accessAt s s1 x (effAddr (arg vs 1) o w) w w 2 fun a =>
      issueStore s1 x (.store w) a w (arg vs 0) 0 (relaxedWord x.t)

/-! ### Full/empty accesses (R183) -/

/-- A full/empty load (R183). -/
def feLoad (i : Instr) (kind : AccKind) (d : RCode) (k : BitVec 4) (o : BitVec 6) (s : State) : Host.Outcome State Fault Refusal :=
  wordG i s (accessGate s false) fun x vs s1 =>
    accessAt s s1 x (effAddr (arg vs 0) o 8) 8 8 1 fun a =>
      syncAccess s1 x a fun s => issueLoad s x kind a 0 (.gen d) k false

/-- Waits until full; leaves full (R183). -/
def execLdf (d : BitVec 7) (b : BitVec 7) (k : BitVec 4) (o : BitVec 6) (s : State) : Host.Outcome State Fault Refusal :=
  feLoad (.ldf d b k o) .ldf d k o s

/-- Waits until full; sets empty (R183). -/
def execLdt (d : BitVec 7) (b : BitVec 7) (k : BitVec 4) (o : BitVec 6) (s : State) : Host.Outcome State Fault Refusal :=
  feLoad (.ldt d b k o) .ldt d k o s

/-- A full/empty store (R183): a synchronising access for a lock-step pair. -/
def feStore (i : Instr) (kind : AccKind) (n : Nat) (o : BitVec 6) (s : State) : Host.Outcome State Fault Refusal :=
  wordG i s (accessGate s false) fun x vs s1 =>
    accessAt s s1 x (effAddr (arg vs n) o 8) 8 8 2 fun a =>
      syncAccess s1 x a fun s =>
        retire (newAccess (holeFlag s x a 8) x kind a (if n = 0 then 0 else arg vs 0) 0 false).2 x

/-- Waits until empty, writes and sets full (R183). -/
def execStf (d : BitVec 7) (b : BitVec 7) (o : BitVec 6) (s : State) : Host.Outcome State Fault Refusal :=
  feStore (.stf d b o) .stf 1 o s

/-- Writes and sets full (R183). -/
def execStp (d : BitVec 7) (b : BitVec 7) (o : BitVec 6) (s : State) : Host.Outcome State Fault Refusal :=
  feStore (.stp d b o) .stp 1 o s

/-- Sets empty, data unchanged (R183). -/
def execStempty (b : BitVec 7) (o : BitVec 6) (s : State) : Host.Outcome State Fault Refusal :=
  feStore (.stempty b o) .stempty 0 o s

/-! ### Atomics (R184, R185) -/

/-- An atomic at issue: expected, address and value are read now (R184). -/
def atomicWord (i : Instr) (kind : Word → AccKind) (d : RCode) (k : BitVec 4) (s : State) : Host.Outcome State Fault Refusal :=
  wordG i s (memGate s) fun x vs s1 =>
    accessAt s s1 x (arg vs 0) 8 8 3 fun a =>
      syncAccess s1 x a fun s => issueLoad s x (kind (x.t.gen d)) a (arg vs 1) (.gen d) k (relaxedWord x.t)

/-- Compares the word with gd and writes gb if equal; gd := the old value at the window's close (R184). -/
def execCas (d : BitVec 7) (a : BitVec 7) (b : BitVec 7) (k : BitVec 4) (s : State) : Host.Outcome State Fault Refusal :=
  atomicWord (.cas d a b k) .cas d k s

/-- Adds gb to the word; gd := the old value at the window's close (R184). -/
def execXadd (d : BitVec 7) (a : BitVec 7) (b : BitVec 7) (k : BitVec 4) (s : State) : Host.Outcome State Fault Refusal :=
  atomicWord (.xadd d a b k) (fun _ => .xadd) d k s

/-! ### The tag table (R163 to R167, R186 to R191) -/

/-- A tag-table entry by slot (R164). -/
def tagEntry (c : Core) (slot : Nat) : Word := kget c.tagTab slot 0

/-- The set of a source address: A[17:8] (R163). -/
def tagSet (a : Nat) : Nat := a / 256 % 1024

/-- The way of a set that holds a source line, if any. -/
def tagHit (c : Core) (a : Nat) : Option Nat :=
  (List.range 4).find? fun w => let e := tagEntry c (4 * tagSet a + w); tagValid e && tagSrc e == a / 256

/-- The result word of a lookup (R166). -/
def tlkWord (g : Nat) (c : Core) (a : Nat) : Word :=
  if reservedBase ≤ a then w64 (2 ^ 63 + 4 * 2 ^ 60)
  else
    let set := tagSet a
    match tagHit c a with
    | some w =>
      let slot := 4 * set + w
      w64 (slot * 2 ^ 48 + (slotBase g + tagLocal (tagEntry c slot) * 256 + a % 256))
    | none =>
      match (List.range 4).find? fun w => !tagValid (tagEntry c (4 * set + w)) with
      | some w => w64 (2 ^ 63 + 1 * 2 ^ 60 + (4 * set + w))
      | none =>
        let slot := 4 * set + (kget c.victims set 0).toNat
        w64 (2 ^ 63 + (if tagDirty (tagEntry c slot) then 3 else 2) * 2 ^ 60 + slot)

/-- Looks a source address up and writes the result word (R187). -/
def execTlk (d : BitVec 7) (a : BitVec 7) (s : State) : Host.Outcome State Fault Refusal :=
  scalar (.tlk d a) d s fun x vs => (tlkWord x.g x.c (addrOf (arg vs 0)), 0)

/-- The first fault of a `tfill` that applies (R189). -/
def tfillFault (c : Core) (a slot l : Nat) : Option Nat :=
  let lim := if c.lock.isSome then 0x100000 else 0x13C000
  if reservedBase ≤ a then some 7
  else if slot / 4 ≠ tagSet a then some 5
  else if tagValid (tagEntry c slot) then some 4
  else if (tagHit c a).isSome then some 8
  else if lim ≤ l || c.tagTab.any (fun p => tagValid p.2 && tagLocal p.2 == l / 256) then some 6
  else none

/-- The 32 words of a local line set empty (R189). -/
def emptyLine (s : State) (a : Nat) : State := (List.range 32).foldl (fun s i => makeEmpty s (a + 8 * i)) s

/-- Whether a write-back of a core's local line is in flight (R191). -/
def lineBusy (s : State) (g l : Nat) : Bool :=
  s.accs.any fun a => a.gcn == g && match a.kind with
    | .writeBack _ e => tagLocal e == l / 256
    | _ => false

/-- Installs an entry and starts the fill of its line (R189, R190, R163). The record of a fault has the address A, aux 0 and no window (DESIGN
CHOICE, log entry 92). -/
def execTfill (n : BitVec 4) (a : BitVec 7) (b : BitVec 7) (s : State) : Host.Outcome State Fault Refusal :=
  wordG (.tfill n a b) s (accessGate s false) fun x vs s1 =>
    let A := addrOf (arg vs 0)
    let slot := bits (arg vs 1) 0 12
    let l := bits (arg vs 1) 40 13 * 256
    match tfillFault x.c A slot l with
    | some code => raiseAt s x 1 code 0 A 63
    | none =>
      let e := w64 (2 ^ 63 + n.toNat * 2 ^ 57 + l / 256 * 2 ^ 40 + A / 256)
      let set := tagSet A
      let v := kget x.c.victims set 0
      let install (c : Core) : Core :=
        { c with tagTab := kset c.tagTab slot e, victims := if v.toNat = slot % 4 then kset c.victims set (v + 1) else c.victims }
      let s := updCore s1 x.g install
      let s := if lineBusy s x.g l then s else emptyLine s (slotBase x.g + l)
      retire (newAccess s x (.fill slot n.toNat) (slotBase x.g + l) (w64 (A / 256 * 256)) 0 false).2 x

/-- An entry made invalid (R191). -/
def invalidate (s : State) (g slot : Nat) : State := updCore s g fun c => { c with tagTab := kdel c.tagTab slot }

/-- Invalidates a slot, writing a dirty line back first: only then does it access memory, and a lock-step pair holds that write in its release
buffer (R179, R191, R210). -/
def execTevict (a : BitVec 7) (s : State) : Host.Outcome State Fault Refusal :=
  word (.tevict a) s fun x vs s1 =>
    let slot := bits (arg vs 0) 0 12
    let e := tagEntry x.c slot
    if tagValid e && tagDirty e then
      if !accessReady s x.g x.sid false then waitFor s x .access
      else if leavesPair x (tagSrc e * 256) && lockDue s x.g then waitFor s x .halt
      else issueStore (invalidate s1 x.g slot) x (.writeBack slot e) (tagSrc e * 256) 0 0 0 false
    else retire (invalidate s1 x.g slot) x

/-- Invalidates a slot without write-back (R191). -/
def execTinval (a : BitVec 7) (s : State) : Host.Outcome State Fault Refusal :=
  word (.tinval a) s fun x vs s => retire (invalidate s x.g (bits (arg vs 0) 0 12)) x

/-! ### Windows (R192 to R195) -/

/-- (w[n].base + gb) mod 2^48 (R193). -/
def execWba (d : BitVec 7) (n : BitVec 4) (b : BitVec 7) (s : State) : Host.Outcome State Fault Refusal :=
  scalar (.wba d n b) d s fun x vs => (((x.t.win n.toNat).base + (arg vs 0).truncate 48).zeroExtend 64, 0)

/-- One field of a window (R194). -/
def windowField (w : Window) (sel : Nat) : Word :=
  match sel with
  | 0 => w.base.zeroExtend 64
  | 1 => w.limit.zeroExtend 64
  | 2 => w64 (w.limit.toNat - w.base.toNat)
  | _ => w64 (w.access.toNat * 2 ^ 36 + w.region.toNat * 2 ^ 16 + w.gen.toNat)

/-- One field of window n (R194). -/
def execWrd (d : BitVec 7) (n : BitVec 4) (q : BitVec 7) (s : State) : Host.Outcome State Fault Refusal :=
  scalar (.wrd d n q) d s fun x _ => (windowField (x.t.win n.toNat) q.toNat, 0)

/-- Whether a check of 2^c bytes passes (R195). -/
def chkPass (w : Window) (kind : BitVec 2) (a len : Nat) : Bool :=
  (w.access &&& kind) == kind && decide (w.base.toNat ≤ a) && decide (a + len ≤ w.limit.toNat)

/-- A check of one access against a window; outside it, the access fault 0x0001 (R195). -/
def chkWord (i : Instr) (kind : BitVec 2) (n : BitVec 4) (c : BitVec 4) (s : State) : Host.Outcome State Fault Refusal :=
  word i s fun x vs s1 =>
    let a := addrOf (arg vs 0)
    let len := 2 ^ c.toNat
    if chkPass (x.t.win n.toNat) kind a len then retire s1 x
    else raiseAt s x 1 1 (w64 len) a n.toNat

/-- Checks a read access (R195). -/
def execChkR (n : BitVec 4) (a : BitVec 7) (c : BitVec 4) (s : State) : Host.Outcome State Fault Refusal :=
  chkWord (.chkR n a c) 1 n c s

/-- Checks a write access (R195). -/
def execChkW (n : BitVec 4) (a : BitVec 7) (c : BitVec 4) (s : State) : Host.Outcome State Fault Refusal :=
  chkWord (.chkW n a c) 2 n c s

/-- Checks a read-write access (R195). -/
def execChkRw (n : BitVec 4) (a : BitVec 7) (c : BitVec 4) (s : State) : Host.Outcome State Fault Refusal :=
  chkWord (.chkRw n a c) 3 n c s

/-! ### Fences and barriers (R196 to R200) -/

/-- Whether an access must be performed for a fence of a scope to complete, as a byte of it lies within the scope or in a hole; any other has
entered the path beyond the scope (R384). One in the release buffer of a lock-step pair, or of a vector word that has not started, has
entered no path (R210, R219). -/
def mustPerform (s : State) (scope g : Nat) (a : Access) : Bool :=
  let near (b : Nat) : Bool := holeAt s b || (isSpad b && inScope scope (slotOf b) g)
  scope == 3 || heldBack s a || vecQueued s a || a.ranges.any fun r => near r.1 || near (r.1 + r.2 - 1)

/-- A fence: it stalls until the strand's accesses are performed at the scope; the others are marked on their path (R198,
R384). -/
def fenceWord (i : Instr) (scope : Nat) (s : State) : Host.Outcome State Fault Refusal :=
  word i s fun x _ s =>
    if (accsOf s x.g x.sid).any (mustPerform s scope x.g) then waitFor s x .fence
    else
      let mark (a : Access) : Access :=
        if a.gcn == x.g && a.sid == x.sid then { a with fenced := a.fenced ++ [(scope, s.nextId)] } else a
      retire { s with accs := s.accs.map mark } x

/-- `fence.core` (R198). -/
def execFenceCore (s : State) : Host.Outcome State Fault Refusal := fenceWord .fenceCore 0 s
/-- `fence.cluster` (R198). -/
def execFenceCluster (s : State) : Host.Outcome State Fault Refusal := fenceWord .fenceCluster 1 s
/-- `fence.die` (R198). -/
def execFenceDie (s : State) : Host.Outcome State Fault Refusal := fenceWord .fenceDie 2 s
/-- `fence.package` (R198). -/
def execFencePackage (s : State) : Host.Outcome State Fault Refusal := fenceWord .fencePackage 3 s
/-- `fence.group` has the effect of `fence.package` (R198). -/
def execFenceGroup (s : State) : Host.Outcome State Fault Refusal := fenceWord .fenceGroup 3 s

/-- Arrives at a barrier word: the strand is out of the rotation until the arrival is performed (R200). -/
def execBarArrive (d : BitVec 7) (b : BitVec 7) (s : State) : Host.Outcome State Fault Refusal :=
  wordG (.barArrive d b) s (accessGate s false) fun x vs s1 =>
    accessAt s s1 x (arg vs 0) 8 8 3 fun a =>
      syncAccess s1 x a fun s => blockOn s x (.barArrive d) a (poppedOf x (.barArrive d b) vs)

/-- Completes when the phase of the barrier word differs from gb[15:0]; else parks on the word (R200). -/
def execBarWait (e : BitVec 7) (b : BitVec 7) (s : State) : Host.Outcome State Fault Refusal :=
  wordG (.barWait e b) s (accessGate s false) fun x vs s1 =>
    accessAt s s1 x (arg vs 0) 8 8 1 fun a =>
      syncAccess s1 x a fun s => blockOn s x (.barWait ((arg vs 1).truncate 16)) a (poppedOf x (.barWait e b) vs)

end Sys2Proof.Machine
end

