-- ==== Sys2Proof/Machine/Access.lean ====
section
/-! DEFINITION. What an access does when it is performed at its word's bank (R171, R172, R177 to R184, R189 to R191, R200),
and the steps by which accesses are performed, answered and retried: VALUE_ARRIVAL, STORE_ACKNOWLEDGE, REMOTE_REQUEST,
HBM_ACCESS, ATOMIC_PERFORM, FE_WAITER_RETRY, WAIT_TABLE_RETRY, TAG_FILL_LANDING. -/

namespace Sys2Proof.Machine

/-- Where an access is served: by the issuing core itself (its own slot, a disabled core's slot, the unmapped range), by
another core's bank, or by a base die (R19, R20, R305, R413). -/
inductive Place where
  | own
  | remote
  | hbm
  deriving DecidableEq, Repr

/-- The place of an address for a core. -/
def placeOf (s : State) (g a : Nat) : Place :=
  if isHbm a then .hbm
  else if spadEnd ≤ a ∨ slotOf a = g ∨ coreDisabled s (slotOf a) = true then .own
  else .remote

/-- The phase of a barrier word (R199). -/
def barPhase (w : Nat) : Nat := w / 2 ^ 48
/-- The total field. -/
def barTotal (w : Nat) : Nat := w / 2 ^ 24 % 2 ^ 24
/-- The remaining field. -/
def barRemaining (w : Nat) : Nat := w % 2 ^ 24

/-- The test of an access at its word: full for `ldf` and `ldt`, empty for `stf` (R183); 0 for `join` (R119); another phase for
`bar.wait` (R200). None stands at a hole, as no strand parks there (R162: so a `bar.wait` for phase 0 completes too, log entry 73), and
`join` and `bar.wait` do not park on a poisoned word (R409). -/
def testPasses (s : State) (a : Access) : Bool :=
  match a.kind with
  | .ldf => holeAt s a.addr || !isEmpty s a.addr
  | .ldt => holeAt s a.addr || !isEmpty s a.addr
  | .stf => holeAt s a.addr || isEmpty s a.addr
  | .join => wordBad s (wordOf a.addr) || readVal s a.addr 8 == 0
  | .barWait p => holeAt s a.addr || wordBad s (wordOf a.addr) || barPhase (readVal s a.addr 8) != p.toNat
  | _ => true

/-- Whether an active guarded channel still holds back a byte of a range (R173). -/
def guardsRange (ch : Channel) (a n : Nat) : Bool :=
  ch.st != 0 && bits ch.block 6 1 == 1 && decide (max a (max ch.env.1 ch.wm) < min (a + n) ch.env.2)

/-- Whether a watermark guard of a core holds back a byte of a range (R173). -/
def guarded (s : State) (g a n : Nat) : Bool := (coreAt s g).channels.any fun p => guardsRange p.2 a n

/-- Whether a watermark guard holds a strand's load back (R173): every load of R80. -/
def guardHolds (s : State) (a : Access) : Bool :=
  match a.kind with
  | .load w _ => guarded s a.gcn a.addr w
  | .ldf => guarded s a.gcn a.addr 8
  | .ldt => guarded s a.gcn a.addr 8
  | .dld _ => guarded s a.gcn a.addr 512
  | .dmk _ => guarded s a.gcn a.addr 256
  | _ => false

/-- The accesses that are dropped while they wait: tests that have not passed, and loads that a watermark guard holds back (R122 step 4,
R173). -/
def droppable (s : State) (a : Access) : Bool := a.parked || a.refused || guardHolds s a

/-- The answer to an access goes back from the bank that served it (R305). -/
def sendAnswer (s : State) (a : Access) : State := if isSpad a.addr then post s (slotOf a.addr) a.gcn (.answer a.id) else s

/-- Whether the answer to an access is a message from another core of its cluster (R305). -/
def Access.byMessage (a : Access) : Bool := isSpad a.addr && slotOf a.addr != a.gcn && clusterOf (slotOf a.addr) == clusterOf a.gcn

/-- Whether the answer with a number is the first on its way between its two cores (R305). -/
def answerInTurn (s : State) (n : Nat) : Bool :=
  match s.net.find? fun e => e.2.2 == .answer n with
  | none => true
  | some e => firstOnWay s e.1 e.2.1 e.2.2

/-- A value bound for a pending entry: the access is done; `hole` and the fault of a poisoned word met go with the entry to its window's
close (R43, R83, R409). A `dmk` at a hole sets `hole` as every access does (R19), where R145 has it set no flag (DESIGN CHOICE, log entry
96). -/
def bindWith (s : State) (a : Access) (v : PVal) (bad : Option Nat) : State :=
  let fi (w : Nat) : FaultInfo := { faultInfo s a.gcn a.sid a.pc 5 3 0 w 63 with word := a.word }
  let s := sendAnswer (dropAcc s a.id) a
  updPending s a.gcn a.sid a.id fun p =>
    { p with value := some v, flags := p.flags ||| flagIf (anyHole s a.addr a.size) fHole,
             fault := match bad with
               | some w => some (fi w)
               | none => p.fault }

/-- The first poisoned word that n bytes touch, if any. -/
def poisonIn? (s : State) (a n : Nat) : Option Nat := if poisonedIn s a n then some (poisonedAt s a n) else none

/-- A value read whole, bound for a pending entry. -/
def bindValue (s : State) (a : Access) (v : PVal) : State := bindWith s a v (poisonIn? s a.addr a.size)

/-- A fault that belongs to an access's instruction, raised when the access reaches its word: the word has no effect, so what it popped goes
back (R200, R118, R122, R409). -/
def accFault (s : State) (a : Access) (cls code : Nat) (aux : Word) (addr win : Nat) : State :=
  raiseFault (unpop (dropAcc s a.id) a.gcn a.popped) a.gcn a.sid { faultInfo s a.gcn a.sid a.pc cls code aux addr win with word := a.word }

/-- The word that an access blocks is complete (R119, R200). -/
def completeWord (s : State) (a : Access) : State := updStrand (dropAcc s a.id) a.gcn a.sid advance

/-- A loaded value of a width, extended (R177). -/
def extend (w : Nat) (signed : Bool) (v : Nat) : Word := if signed then BitVec.ofInt 64 (sval (8 * w) v) else w64 v

/-- The points of a distribution register from 64 samples of f32 (R145). -/
def makeDist (v : Nat) : Vec :=
  BitVec.ofNat 4096 ((List.range 64).foldl (fun acc j => acc + (v / 2 ^ (32 * j) % 2 ^ 32 + 4096 * 2 ^ 32) * 2 ^ (64 * j)) 0)

/-- Whether an element of a distribution register is well formed (R130). -/
def elemOk (v : Nat) : Bool :=
  (List.range 8).all (fun j => v / 2 ^ (64 * j + 48) % 2 ^ 16 == 0) &&
  ((List.range 8).map fun j => v / 2 ^ (64 * j + 32) % 2 ^ 16).sum == 32768

/-- Whether 512 bytes are a well-formed distribution register (R130). -/
def distOk (v : Vec) : Bool := (List.range 8).all fun e => elemOk (v.toNat / 2 ^ (512 * e))

/-- The ranges of a task's declared write set: of each record that permits writes, and of each line it carries (R24, R167,
R360). -/
def writeRanges (s : State) (t : Task) : List (Nat × Nat) :=
  (t.declRecs.filterMap fun p =>
    let r := p.2
    if bit1 r 21 then
      match kget? s.regions (bits r 0 20) with
      | some e => some (e.base + bits r 32 48, e.base + bits r 32 48 + bits r 80 48)
      | none => none
    else none) ++
  t.carried.filterMap fun q =>
    match kget? s.regions q.1 with
    | some e => some (e.base + q.2, e.base + q.2 + 256)
    | none => none

/-- The bytes of the word at an address that lie in a set of ranges, by their place in the word. -/
def wordPart (ranges : List (Nat × Nat)) (w : Nat) : List Nat :=
  (List.range 8).filter fun i => ranges.any fun r => decide (r.1 ≤ w + i) && decide (w + i < r.2)

/-- The first poisoned word of a line of which a write-back would write a part only (R409). -/
def lineBad (s : State) (ranges : List (Nat × Nat)) (dst : Nat) : Option Nat :=
  (wordsOf dst 256).find? fun w => wordBad s w && decide (0 < (wordPart ranges w).length) && decide ((wordPart ranges w).length < 8)

/-- One word of a line written back: whole, or the bytes within the declared write set; a poisoned word takes only a whole write (R167,
R409). -/
def writeBackWord (ranges : List (Nat × Nat)) (l : List Byte) (dst : Nat) (s : State) (i : Nat) : State :=
  let w := dst + 8 * i
  let part := wordPart ranges w
  if part.length = 8 then writeEngine s w ((l.drop (8 * i)).take 8)
  else if wordBad s w then s
  else part.foldl (fun s j => writeEngine s (w + j) [l.getD (8 * i + j) 0]) s

/-- The 256 bytes of a line written back: only those within the declared write set (R167). -/
def writeBackLine (s : State) (ranges : List (Nat × Nat)) (l : List Byte) (dst : Nat) : State :=
  (List.range 32).foldl (writeBackWord ranges l dst) s

/-- A store that reaches its word: a poisoned word takes only a whole write (R409). -/
def storePerform (s : State) (a : Access) (n : Nat) (v : Nat) : State :=
  if (wordsOf a.addr n).any (fun w => wordBad s w && !covers a.addr n w) then
    accFault s a 5 3 0 (poisonedAt s a.addr n) 63
  else updAcc (sendAnswer (writeVal s a.addr n v) a) a.id fun a => { a with performed := true }

/-- The word of a `dld`, `dmk` or `dst` that is served next (R148). -/
def Access.nextWord (a : Access) : Nat := (a.addr + a.done) % 2 ^ 48

/-- One 64-bit word of a `dld` or `dmk` read: its bytes kept, a poisoned word noted (R148, R409). -/
def Access.takeWord (s : State) (a : Access) : Access :=
  { a with vdata := a.vdata ||| BitVec.ofNat 4096 (readVal s a.nextWord 8 * 2 ^ (8 * a.done)), done := a.done + 8,
           bad := match a.bad with
             | some w => some w
             | none => if wordBad s a.nextWord then some a.nextWord else none }

/-- A `dld` or `dmk` served by one 64-bit word, in rising order; with the last, its value is bound (R148). -/
def readStep (s : State) (a : Access) (bind : State → Access → State) : State :=
  let b := a.takeWord s
  if b.done < a.size then updAcc s a.id fun _ => b else bind s b

/-- A `dld` bound: its elements are checked (R143). The record of the fault 0x0020 has the word of the `dld`, its address, aux 0 and no
window; with a poisoned word too, the poison fault stands (R409; DESIGN CHOICE, log entry 74). -/
def bindDist (tag : BitVec 16) (s : State) (a : Access) : State :=
  let s' := bindWith s a (.dist { bits := a.vdata, tag := tag }) a.bad
  if distOk a.vdata then s'
  else updPending s' a.gcn a.sid a.id fun p => { p with fault := match p.fault with
    | some f => some f
    | none => some { faultInfo s a.gcn a.sid a.pc 3 0x20 0 a.addr 63 with word := a.word } }

/-- A `dst` served by one 64-bit word, in rising order (R148); with the last its answer goes back (R305). -/
def writeStep (s : State) (a : Access) : State :=
  let s := writeVal s a.nextWord 8 (a.vdata.toNat / 2 ^ (8 * a.done) % 2 ^ 64)
  updAcc (if a.size ≤ a.done + 8 then sendAnswer s a else s) a.id fun a => { a with done := a.done + 8, performed := decide (a.size ≤ a.done + 8) }

/-- The word of a `join`, `bar.wait` or `bar.arrive` complete: of an arrival the value is the phase that it met (R119, R200). -/
def completeAnswer (s : State) (a : Access) (v : Word) : State :=
  match a.kind with
  | .barWait _ => mergeFlags (completeWord s a) a.gcn a.sid (flagIf (holeAt s a.addr) fHole)
  | .barArrive d => dueNow (completeWord s a) a.gcn a.sid a.id d v
  | _ => completeWord s a

/-- The end of a `join`, `bar.wait` or `bar.arrive` at its bank: its word is complete, or, at another core of the cluster, the answer goes back
and completes it (R305). -/
def answerWord (s : State) (a : Access) (v : Word) : State :=
  if a.byMessage then updAcc (sendAnswer s a) a.id fun b => { b with performed := true, data := v } else completeAnswer s a v

/-- Whether an access is that of the started `vld` of its core (R220, R243). -/
def startedVld (s : State) (a : Access) : Bool :=
  match (coreAt s a.gcn).vrun with
  | none => false
  | some r => r.entry.acc == some a.id && (match r.entry.instr with
    | .vld _ _ => true
    | _ => false)

/-- The effect of an access at its bank, its test having passed. A value is bound, a store is written, an atomic is one
indivisible step; a `dld`, `dmk` or `dst` is served word by word; a write-back and a fill are checked as chunks; a `vld` that has started has
its bytes read. None: it cannot be performed yet. -/
def performNow (s : State) (a : Access) : Option State :=
  let v := readVal s a.addr 8
  let bad := poisonedIn s a.addr 8
  match a.kind with
  | .load w sg => some (bindValue s a (.word (extend w sg (readVal s a.addr w))))
  | .ldf => some (bindValue s a (.word (w64 v)))
  | .ldt => some (let s' := bindValue s a (.word (w64 v)); if holeAt s a.addr then s' else makeEmpty s' a.addr)
  | .dld tag => some (readStep s a (bindDist tag))
  | .dmk tag => some (readStep s a fun s a => bindWith s a (.dist { bits := makeDist a.vdata.toNat, tag := tag }) a.bad)
  | .store w => some (storePerform s a w a.data.toNat)
  | .dst => some (writeStep s a)
  | .vst => some (storePerform s a 512 a.vdata.toNat)
  | .stf => some (let s' := storePerform s a 8 a.data.toNat; if holeAt s a.addr then s' else makeFull s' a.addr)
  | .stp => some (let s' := storePerform s a 8 a.data.toNat; if holeAt s a.addr then s' else makeFull s' a.addr)
  | .stempty => some (updAcc (sendAnswer (if holeAt s a.addr then s else makeEmpty s a.addr) a) a.id fun a => { a with performed := true })
  | .cas e =>
    let s' := bindValue s a (.word (w64 v))
    some (if bad || w64 v != e then s' else writeVal s' a.addr 8 a.data.toNat)
  | .xadd =>
    let s' := bindValue s a (.word (w64 v))
    some (if bad then s' else writeVal s' a.addr 8 (v + a.data.toNat))
  | .join =>
    if bad then some (accFault s a 5 3 0 (wordOf a.addr) 63) else some (answerWord s a 0)
  | .barWait _ =>
    if bad then some (accFault s a 5 3 0 (wordOf a.addr) 63)
    else some (answerWord s a 0)
  | .barArrive _ =>
    if bad then some (accFault s a 5 3 0 (wordOf a.addr) 63)
    else if barTotal v = 0 ∨ barRemaining v = 0 then some (accFault s a 4 2 0 a.addr 63)
    else
      let left := barRemaining v - 1
      let w := if left = 0 then (barPhase v + 1) % 2 ^ 16 * 2 ^ 48 + barTotal v * 2 ^ 24 + barTotal v
        else barPhase v * 2 ^ 48 + barTotal v * 2 ^ 24 + left
      some (answerWord (writeVal s a.addr 8 w) a (w64 (barPhase v)))
  | .exitDec =>
    if bad then some (freeSlot (accFault s a 5 3 0 (wordOf a.addr) 63) a.gcn a.sid)
    else if v = 0 then some (freeSlot (accFault s a 4 1 0 a.addr 63) a.gcn a.sid)
    else some (freeSlot (dropAcc (writeVal s a.addr 8 (v - 1)) a.id) a.gcn a.sid)
  | .fill _ win =>
    let w := ((strandAt? s a.gcn a.sid).map fun t => t.win win).getD default
    if s.accs.any (fun b => decide (b.id < a.id) && lineBusy { s with accs := [b] } a.gcn (offOf a.addr)) then none
    else match chunkCheck s w (tenantOn s a.gcn) false a.data.toNat 256 with
    | .wait => none
    | .fail => some (accFault s a 3 0x10 (regionAux w) a.data.toNat win)
    | .pass =>
      if poisonedIn s a.data.toNat 256 then some (accFault s a 5 3 0 (poisonedAt s a.data.toNat 256) win)
      else
        let l := readBytes s a.data.toNat 256
        some (dropAcc (fillWords (mirrorBytes (pokeBytes (logUndo s a.addr 256) a.addr l) a.addr l) a.addr 256) a.id)
  | .writeBack _ e =>
    let w := ((strandAt? s a.gcn a.sid).map fun t => t.win (tagWin e)).getD default
    let src := slotBase a.gcn + tagLocal e * 256
    if s.accs.any (fun b => b.gcn == a.gcn && decide (b.id < a.id) && (match b.kind with
        | .fill _ _ => b.addr == src
        | _ => false)) then none
    else match chunkCheck s w (tenantOn s a.gcn) true a.addr 256 with
    | .wait => none
    | .fail => some (accFault s a 3 0x10 (regionAux w) a.addr (tagWin e))
    | .pass =>
      if poisonedIn s src 256 then some (accFault s a 5 3 0 (poisonedAt s src 256) (tagWin e))
      else
        let ranges := ((taskOn s a.gcn).map (writeRanges s)).getD []
        let s' := match lineBad s ranges a.addr with
          | some w => accFault (writeBackLine s ranges (readBytes s src 256) a.addr) a 5 3 0 w (tagWin e)
          | none => dropAcc (writeBackLine s ranges (readBytes s src 256) a.addr) a.id
        some (if s'.accs.any (fun b => b.gcn == a.gcn && b.addr == src && (match b.kind with
            | .fill _ _ => true
            | _ => false)) then emptyLine s' src else s')
  | .vector =>
    if startedVld s a then
      some (updAcc (sendAnswer s a) a.id fun b => { b with performed := true, vdata := readVec s a.addr, bad := poisonIn? s a.addr 512 })
    else none

/-- The wait table of a bank is full: 128 tests at a core, 4,096 at a stack (R172). -/
def waitTableFull (s : State) (a : Nat) : Bool :=
  let at_ (b : Nat) : Bool := if isHbm a then isHbm b && stackOf b == stackOf a else isSpad b && slotOf b == slotOf a
  decide ((if isHbm a then 4096 else 128) ≤ (s.accs.filter fun b => b.parked && at_ b.addr).length)

/-- Whether the task on a core has been stopped: its tests are dropped and awaited no longer (R122). Those of a stage that its cascade
confines are dropped only with the end of the remaining stages (R331). -/
def stopsOn (s : State) (g : Nat) : Bool := ((taskOn s g).map fun t => t.stopped).getD false

/-- Whether a test that a full wait table turned away may be repeated: 256 cycles have passed since (R172). -/
def Access.mayRepeat (s : State) (a : Access) : Bool := !a.refused || decide (256 ≤ (s.clk - a.since).toNat)

/-- An access reaching its bank: it is performed if its test passes, else it parks at the tail of the word's wait list, or
is turned away by a full table (R171, R172). Where its task has stopped, one whose test fails or that a watermark guard holds back is
dropped (R122, R173); one of a core held quiesced waits until its strand issues again (R450). -/
def reachBank (s : State) (a : Access) : Option State :=
  if a.performed || a.parked || !a.mayRepeat s || coreHeld s a.gcn || !mayPerform s a then none
  else if guardHolds s a then (if stopsOn s a.gcn then some (dropAcc s a.id) else none)
  else if testPasses s a then performNow s a
  else if stopsOn s a.gcn then some (dropAcc s a.id)
  else if waitTableFull s a.addr then some (updAcc s a.id fun a => { a with refused := true, since := s.clk })
  else some { updAcc s a.id (fun a => { a with parked := true, refused := false }) with waiters := s.waiters ++ [a.id] }

/-- A pending entry's value is at the strand (R82). -/
def arrive (s : State) (g sid id : Nat) : State := updPending s g sid id fun p => { p with arrived := p.arrived || p.value.isSome }

/-- The strand that has a pending entry with a number, its value bound and not yet arrived. -/
def findPending (s : State) (n : Nat) : Option (Nat × Nat) :=
  (s.cores.flatMap fun c => c.2.strands.map fun t => (c.1, t.1, t.2)).findSome? fun q =>
    if q.2.2.pending.any (fun p => p.id == n && p.value.isSome && !p.arrived) then some (q.1, q.2.1) else none

/-- Whether an access is an atomic, an arrival or a decrement (R184). -/
def isAtomic (k : AccKind) : Bool :=
  match k with
  | .cas _ => true
  | .xadd => true
  | .barArrive _ => true
  | .exitDec => true
  | _ => false

/-- Whether an access binds a value or completes its word by a read. -/
def isRead (k : AccKind) : Bool :=
  match k with
  | .load _ _ => true
  | .ldf => true
  | .ldt => true
  | .dld _ => true
  | .dmk _ => true
  | .join => true
  | .barWait _ => true
  | _ => false

/-- Whether an access completes its word by the answer to it (R119, R200). -/
def endsWord (k : AccKind) : Bool :=
  match k with
  | .join => true
  | .barWait _ => true
  | .barArrive _ => true
  | _ => false

/-- The tests that wait at a stopped stage's core as the handler of its fault takes it over: they wait on without a strand, until the stop of
the cascade ends. One that would only complete a word, and a load that a guard holds back, can have no effect any more (R122 step 4, R173,
R331). -/
def leaveTests (s : State) (g : Nat) : State :=
  let mine (a : Access) : Bool := a.gcn == g && a.sid != noSid
  let l := s.accs.filter fun a => !(mine a && (guardHolds s a || endsWord a.kind))
  { s with accs := l.map (fun a => if mine a then { a with sid := noSid } else a), waiters := s.waiters.filter fun n => l.any fun a => a.id == n }

/-- A value arrives: that of a bound entry, the answer that completes a word, or the value of an access to the issuer's own scratchpad, which
is performed now. -/
def stepValueArrival (s : State) (n : Nat) : Option State :=
  match accAt? s n with
  | some a =>
    if a.performed && endsWord a.kind then (if answerInTurn s n then some (completeAnswer s a a.data) else none)
    else if isRead a.kind && placeOf s a.gcn a.addr == .own then
      (reachBank s a).map fun s => arrive s a.gcn a.sid n
    else none
  | none => if answerInTurn s n then (findPending s n).map fun q => arrive s q.1 q.2 n else none

/-- VALUE_ARRIVAL (R82, R205). -/
def execValueArrival (n : Nat) (s : State) : Host.Outcome State Fault Refusal := device "VALUE_ARRIVAL" (stepValueArrival s n)

/-- A store performed at its bank is acknowledged; one to the issuer's own scratchpad is performed now (R179). -/
def stepStoreAcknowledge (s : State) (n : Nat) : Option State :=
  match accAt? s n with
  | none => none
  | some a =>
    if !isStore a.kind then none
    else if a.performed then (if answerInTurn s n then some (dropAcc s n) else none)
    else if placeOf s a.gcn a.addr == .own then
      (reachBank s a).map fun s => match accAt? s n with
        | some b => if b.performed then dropAcc s n else s
        | none => s
    else none

/-- STORE_ACKNOWLEDGE (R179). -/
def execStoreAcknowledge (n : Nat) (s : State) : Host.Outcome State Fault Refusal := device "STORE_ACKNOWLEDGE" (stepStoreAcknowledge s n)

/-- A request served by another core's bank (R305). -/
def stepRemoteRequest (s : State) (n : Nat) : Option State :=
  match accAt? s n with
  | none => none
  | some a => if !isAtomic a.kind && placeOf s a.gcn a.addr == .remote then reachBank s a else none

/-- REMOTE_REQUEST (R305). -/
def execRemoteRequest (n : Nat) (s : State) : Host.Outcome State Fault Refusal := device "REMOTE_REQUEST" (stepRemoteRequest s n)

/-- A request served by a base die (R413, R414). -/
def stepHbmAccess (s : State) (n : Nat) : Option State :=
  match accAt? s n with
  | none => none
  | some a => if !isAtomic a.kind && placeOf s a.gcn a.addr == .hbm then reachBank s a else none

/-- HBM_ACCESS (R413). -/
def execHbmAccess (n : Nat) (s : State) : Host.Outcome State Fault Refusal := device "HBM_ACCESS" (stepHbmAccess s n)

/-- An atomic, an arrival or a decrement performed at its word's bank (R184, R200, R118). -/
def stepAtomicPerform (s : State) (n : Nat) : Option State :=
  match accAt? s n with
  | none => none
  | some a => if isAtomic a.kind then reachBank s a else none

/-- ATOMIC_PERFORM (R184). -/
def execAtomicPerform (n : Nat) (s : State) : Host.Outcome State Fault Refusal := device "ATOMIC_PERFORM" (stepAtomicPerform s n)

/-- Whether a waiter passes: its test, and no watermark guard holds it back (R172, R173). -/
def waiterPasses (s : State) (a : Access) : Bool := testPasses s a && !guardHolds s a

/-- One waiter retried: performed if it passes now, else parked again at the tail (R172). -/
def retryWaiter (s : State) (n : Nat) : State :=
  match accAt? s n with
  | none => s
  | some a =>
    if waiterPasses s a then (performNow s { a with parked := false }).getD s
    else { s with waiters := s.waiters.filter (fun m => m != n) ++ [n] }

/-- The waiters on a word, in the order in which they parked (R172). -/
def waitersOn (s : State) (w : Nat) : List Nat :=
  s.waiters.filter fun n => match accAt? s n with
    | some a => a.parked && wordOf a.addr == w
    | none => false

/-- The waiters on a word retry in order, once a change makes some test pass (R172). -/
def stepFeWaiterRetry (s : State) (addr : Nat) : Option State :=
  let l := waitersOn s (wordOf addr)
  if l.any (fun n => ((accAt? s n).map (waiterPasses s)).getD false) then
    some (let s := l.foldl retryWaiter s
          { s with accs := s.accs.map fun a => if a.performed then { a with parked := false } else a })
  else none

/-- FE_WAITER_RETRY (R172). -/
def execFeWaiterRetry (addr : Nat) (s : State) : Host.Outcome State Fault Refusal := device "FE_WAITER_RETRY" (stepFeWaiterRetry s addr)

/-- A test that a full wait table turned away is repeated after 256 cycles (R172). -/
def stepWaitTableRetry (s : State) (n : Nat) : Option State :=
  match accAt? s n with
  | none => none
  | some a => if a.refused && a.mayRepeat s then some ((reachBank s a).getD s) else none

/-- WAIT_TABLE_RETRY (R172). -/
def execWaitTableRetry (n : Nat) (s : State) : Host.Outcome State Fault Refusal := device "WAIT_TABLE_RETRY" (stepWaitTableRetry s n)

/-- The chunk of a fill lands in its local line, or fails its check (R189, R190). -/
def stepTagFillLanding (s : State) (n : Nat) : Option State :=
  match accAt? s n with
  | none => none
  | some a => match a.kind with
    | .fill _ _ => if mayPerform s a then performNow s a else none
    | _ => none

/-- TAG_FILL_LANDING (R189, R190). -/
def execTagFillLanding (n : Nat) (s : State) : Host.Outcome State Fault Refusal := device "TAG_FILL_LANDING" (stepTagFillLanding s n)

end Sys2Proof.Machine
end

