-- ==== Sys2Proof/Machine/Issue.lean ====
section
/-! DEFINITION. What an issuing agent does before a word has its effect (R81, R82, R87 to R90, R201, R204): annulled words
are consumed, pending entries count down and close, the word is fetched and read, a hint's word is checked, a repeated
word's fields are stepped. -/

namespace Sys2Proof.Machine

/-- The word counts for every pending entry, after the annulled words before it (R81, R82, R87). -/
def countWord (t : Strand) : Strand :=
  if t.counted then t else
  { t with pc := t.pc + 4 * BitVec.ofNat 48 t.annul, annul := 0, counted := true,
           pending := t.pending.map fun p => { p with remaining := p.remaining - 1 - t.annul } }

/-- Whether an entry that falls due may close: its value has arrived; a push may take effect (R320); a vector register
waits for the strand's vector work (R224). -/
def closable (s : State) (g sid : Nat) (p : Pending) : Bool :=
  p.arrived && match p.dst with
    | .gen d => d.toNat != 122 || pushReady s g sid
    | .vec _ => vecDone s g sid
    | _ => true

/-- The value of an entry written to its destination (R82). -/
def writePending (s : State) (g sid : Nat) (p : Pending) : State :=
  match p.dst, p.value with
  | .gen d, some (.word v) => writeDst s g sid d v
  | .pair d, some (.pair lo hi) => writePair s g sid d lo hi
  | .vec n, some (.vec v) => updStrand s g sid fun t => { t with vregs := kset t.vregs n v }
  | .dist n, some (.dist v) => updStrand s g sid fun t => { t with dregs := kset t.dregs n v }
  | _, _ => s

/-- An entry closed: written with its flags, or its fault raised (R43, R82, R83). -/
def closeEntry (s : State) (g sid : Nat) (p : Pending) : State :=
  let s := updStrand s g sid fun t => { t with pending := t.pending.filter fun q => q.id != p.id }
  match p.fault with
  | some f => raiseFault s g sid { f with time := s.clk }
  | none => mergeFlags (writePending s g sid p) g sid p.flags

/-- What closing the entries that fall due answers: done, or a wait or a stop in between. -/
inductive Closed where
  | done (s : State)
  | wait (s : State) (w : Wait)
  | stop (s : State)

/-- The entries that fall due close in their order; the strand stalls at one that cannot (R82). -/
def closeDue (s : State) (g sid : Nat) : List Pending → Closed
  | [] => .done s
  | p :: r =>
    if closable s g sid p then
      match p.fault with
      | some _ => .stop (closeEntry s g sid p)
      | none => closeDue (closeEntry s g sid p) g sid r
    else .wait s (if p.arrived then .rill else .window)

/-- The 32-bit word at an address as a fetch reads it; 0 in a hole (R112). -/
def fetch (s : State) (a : Addr) : Nat := readVal s a.toNat 4

/-- Whether a word names a rill register (R88, R321). -/
def namesRill (i : Instr) : Bool :=
  let u := usesOf i
  (u.src ++ u.dst).any fun r => r == 121 || r == 122

/-- Whether `rlx` may govern a word of a major (R88, R182). -/
def rlxOk (i : Instr) : Bool := [20, 21, 22, 25].contains (majorOf i)

/-- Whether `rep` may govern a word: form T, L, I, M, V or D, but no word of majors 18, 19, 31 or 32 (R90). -/
def repOk (i : Instr) : Bool :=
  let m := majorOf i
  (decide (1 ≤ m) && decide (m ≤ 10)) || m == 13 || m == 14 || (decide (20 ≤ m) && decide (m ≤ 45) && m != 31 && m != 32)

/-- Whether a hint may govern a word (R88). -/
def hintOk (h : Hint) (i : Instr) : Bool :=
  match h with
  | .none => true
  | .immHi _ _ => [4, 5, 6, 7, 9, 10].contains (majorOf i)
  | .rlx _ => (rlxOk i && !namesRill i) || (match i with
      | .rep _ _ _ => true
      | _ => false)
  | .rep _ rl _ _ _ => repOk i && (!rl || (rlxOk i && !namesRill i))
  | .ckpt _ => majorOf i != 62

/-- The places of the fields d, a and b that a step mask may select, by form: low bit and width (R90). -/
def stepPlaces (i : Instr) : List (Option (Nat × Nat)) :=
  let m := majorOf i
  if decide (4 ≤ m ∧ m ≤ 10) || decide (20 ≤ m ∧ m ≤ 24) then [some (19, 7), some (12, 7), none]
  else if decide (33 ≤ m ∧ m ≤ 38) then [some (20, 6), some (14, 6), some (8, 6)]
  else if decide (39 ≤ m ∧ m ≤ 41) then [some (23, 3), some (20, 3), some (17, 3)]
  else [some (19, 7), some (12, 7), some (5, 7)]

/-- Whether field d, a or b of a V-form word holds a vector specifier; any other field of majors 36 to 38 steps as a number (R90, R231,
R246). -/
def specField (i : Instr) (k : Nat) : Bool :=
  match i with
  | .vcvt _ _ _ _ _ _ => k != 2
  | .vcvtn _ _ _ _ _ _ => k != 2
  | .vcvt4 _ _ _ _ _ => k != 2
  | .vunpk4 _ _ _ _ => k != 2
  | .vquant _ _ _ _ _ _ => k == 1
  | .vprune24 _ _ _ _ => k == 1
  | .vprune48 _ _ _ _ => k == 1
  | .vld _ _ => k == 0
  | .vst _ _ => k == 0
  | .vmovg _ _ _ _ => false
  | .vmovv _ _ _ _ => k == 0
  | .vmovx _ _ => false
  | .vmovfx _ _ => false
  | _ => true

/-- The bound below which stepped field k must stay: g-codes, v-codes, or what the field holds (R90, R246). -/
def stepBound (i : Instr) (k len : Nat) : Nat :=
  if len = 7 then 120 else if len = 6 && specField i k then 32 else 2 ^ len

/-- One field of a word increased, if the mask selects it; none where the form lacks the field or the value leaves its
range (R90). -/
def stepField (w : Nat) (sel : Bool) (place : Option (Nat × Nat)) (bound : Nat → Nat) (i : Int) : Option Nat :=
  if !sel then some w else
  match place with
  | none => none
  | some (lo, len) =>
    let v := (fld w lo len : Int) + i
    if 0 ≤ v ∧ v < bound len then some (w - fld w lo len * 2 ^ lo + v.toNat * 2 ^ lo) else none

/-- Whether a mask steps field b of an `mx.issue` past its first repeat, which is illegal with a metadata register too (R252). -/
def stepsMeta (ins : Instr) (m : BitVec 3) (i : Int) : Bool :=
  match ins with
  | .mxIssueMeta _ _ => bit1 m 0 && i != 0
  | _ => false

/-- The general field of a major-38 word of which selected places hold bits: ga at bits 19:13, gd at bits 25:19 (R243 to R245). -/
def steppedGen (i : Instr) (m : BitVec 3) : Option RCode :=
  let low (g : RCode) : Option RCode := if bit1 m 1 || bit1 m 0 then some g else none
  let high (g : RCode) : Option RCode := if bit1 m 2 || bit1 m 1 then some g else none
  match i with
  | .vld _ g => low g
  | .vst _ g => low g
  | .vmovv _ g _ _ => low g
  | .vmovx _ g => low g
  | .vmovg g _ _ _ => high g
  | .vmovfx g _ => high g
  | _ => none

/-- Whether a stepped general field of a major-38 word holds a g-code (R90). -/
def steppedGenOk (i : Instr) (m : BitVec 3) : Bool := ((steppedGen i m).map fun g => decide (g.toNat < 120)).getD true

/-- The word of repeat i: each field that the mask selects is increased by i; none where that is illegal (R90, R106, R252). -/
def stepWord (ins : Instr) (w : Nat) (m : BitVec 3) (i : Int) : Option Instr :=
  if stepsMeta ins m i || !steppedGenOk ins m then none else
  match stepPlaces ins with
  | [pd, pa, pb] =>
    match stepField w (bit1 m 2) pd (stepBound ins 0) i with
    | none => none
    | some w => match stepField w (bit1 m 1) pa (stepBound ins 1) i with
      | none => none
      | some w => match stepField w (bit1 m 0) pb (stepBound ins 2) i with
        | none => none
        | some w => match decodeWord w with
          | .ok j => if steppedGenOk j m then some j else none
          | .error _ => none
  | _ => none

/-- Whether a word writes a register: as destination, both, or in a pair (R90). -/
def writesReg (i : Instr) (c : RCode) : Bool :=
  let u := usesOf i
  (decide (c.toNat < 120) || c == 123) &&
  (u.dst.contains c || u.rw.contains c || u.pair.any fun d => d != 120 && (d == c || d.toNat + 1 == c.toNat))

/-- What preparing a word answers: the state is what the machine does now (a wait, a stop), or an instruction to execute. -/
inductive Prep where
  | none
  | done (s : State)
  | run (i : Instr) (s : State)

/-- The fetched word read and checked against its hint, and a repeat's fields stepped (R77, R88 to R90). -/
def readWord (s : State) (x : Iss) : Prep :=
  let w := fetch s x.t.pc
  match decodeWord w with
  | .error _ => .done (illegal s x)
  | .ok i =>
    if !hintOk x.t.hint i then .done (illegal s x)
    else match x.t.hint with
    | .rep _ _ n c m =>
      match stepWord i w m ((n : Int) - (x.t.gen c).toNat) with
      | none => .done (illegal s x)
      | some j => if writesReg j c then .done (illegal s x) else .run j s
    | _ => .run i s

/-- Whether a strand's wait still holds whatever its word does: a parked access or request, a departure in flight, or
strands that a `yield` stands behind (R120, R172, R204, R373). -/
def stillWaits (s : State) (x : Iss) : Bool :=
  match x.t.wait with
  | some (.parked n) => (accAt? s n).isSome
  | some (.request n) => s.reqs.any fun r => r.id == n
  | some (.migrate h) => s.flights.any (fun f => f.src == x.g && f.sid == x.sid) || h != x.g
  | some .yielding => x.t.yieldSet.any fun q => (readyOthers s x.g x.sid).contains q
  | _ => false

/-- The stops that meet an agent at its next issue: issue stops for quiescence, its task has been stopped, or, for a strand, its task has
faulted, or the stage on its core where the cascade confines the fault (R122 step 2, R331, R408, R450). An escapement processor stops in
step 3 of R122, until when no quiescence holds it (R225). -/
def issueStopped (s : State) (x : Iss) : Bool :=
  match taskOn s x.g with
  | none => false
  | some t => (if x.isEp then t.quiescesAt x.g else t.quiesce != .no) || t.stopped || (!x.isEp && (t.stops || t.faults.any fun f => f.gcn == x.g))

/-- Everything before the word's effect, for the agent that `cur` names. -/
def prepare (s : State) : Prep :=
  match issuer? s with
  | none => .none
  | some x =>
    if issueStopped s x then .done (if stillWaits s x then s else waitFor s x .halt)
    else if lockStops s x then .done (if x.t.wait = some .checkpoint || stillWaits s x then s else waitFor s x .halt)
    else if stillWaits s x || (accsOf s x.g x.sid).any (fun a => a.kind == .stf && a.parked) then .done s
    else
      let s := updStrand s x.g x.sid countWord
      let t := countWord x.t
      match closeDue s x.g x.sid (t.pending.filter fun p => p.remaining == 0) with
      | .wait s w => .done (updStrand s x.g x.sid fun t => { t with wait := some w })
      | .stop s => .done s
      | .done s =>
        match issuer? s with
        | none => .done s
        | some x =>
          if !x.isEp && ((x.c.stage.map fun st => st.due).getD false) then .done (waitFor s x .checkpoint)
          else match x.t.hint with
          | .rep _ _ _ c _ =>
            if x.t.gen c = 0 then
              let skip (t : Strand) : Strand := { t with pc := t.pc + 4, hint := .none }
              let s := updStrand s x.g x.sid skip
              match issuer? s with
              | none => .done s
              | some x => readWord s x
            else readWord s x
          | _ => readWord s x

end Sys2Proof.Machine
end

