-- ==== Sys2Proof/Machine/VectorMath.lean ====
section
/-! DEFINITION. What vector instructions compute, on numbers of 4,096 bits: lanes (R215, R216), integer and float
arithmetic (R226 to R230), conversion, packing, quantisation, pruning (R233 to R238), reduction and permutation (R239 to
R241). -/

namespace Sys2Proof.Machine

/-- A result of 512 bytes with its flags. -/
abbrev VRes := Nat × Flags

/-- The lane width of a type in bits (R215). -/
def laneBits (t : BitVec 3) : Nat := 8 * laneBytes t
/-- The number of lanes of a type. -/
def laneCount (t : BitVec 3) : Nat := 512 / laneBytes t

/-- Lane i of w bits. -/
def lane (w v i : Nat) : Nat := v / 2 ^ (w * i) % 2 ^ w

/-- n lanes of w bits, from lane 0. -/
def lanes (w : Nat) : Nat → Nat → List Nat
  | 0, _ => []
  | n + 1, v => v % 2 ^ w :: lanes w n (v / 2 ^ w)

/-- Lanes put together, lane 0 lowest. -/
def pack (w : Nat) : List Nat → Nat
  | [] => 0
  | x :: r => x % 2 ^ w + 2 ^ w * pack w r

/-- The flags of all lanes merged by OR (R228). -/
def orFlags (l : List (Nat × Flags)) : Flags := l.foldl (fun f p => f ||| p.2) 0

/-- Lane results put together with their flags. -/
def packRes (w : Nat) (l : List (Nat × Flags)) : VRes := (pack w (l.map fun p => p.1), orFlags l)

/-- The float format of a type (R215). -/
def fmtOf (t : BitVec 3) : FFmt :=
  match t.toNat with
  | 3 => f8e4
  | 4 => f8e5
  | 5 => f16
  | 6 => b16
  | _ => f32

/-- Whether a type is an integer type. -/
def isInt (t : BitVec 3) : Bool := decide (t.toNat < 3)

/-- A lane-by-lane function of two operands. -/
def map2 (t : BitVec 3) (f : Nat → Nat → Nat × Flags) (A B : Nat) : VRes :=
  let w := laneBits t
  let n := laneCount t
  packRes w (List.zipWith f (lanes w n A) (lanes w n B))

/-- A lane-by-lane function of one operand. -/
def map1 (t : BitVec 3) (f : Nat → Nat × Flags) (A : Nat) : VRes :=
  let w := laneBits t
  packRes w ((lanes w (laneCount t) A).map f)

/-- A lane-by-lane function of three operands. -/
def map3 (t : BitVec 3) (f : Nat → Nat → Nat → Nat × Flags) (D A B : Nat) : VRes :=
  let w := laneBits t
  let n := laneCount t
  packRes w (List.zipWith (fun d p => f d p.1 p.2) (lanes w n D) ((lanes w n A).zip (lanes w n B)))

/-! ### Integers (R226, R227) -/

/-- A lane result without a flag. -/
def plain (v : Nat) : Nat × Flags := (v, 0)

/-- A signed operation on lanes, wrapped. -/
def sOp (t : BitVec 3) (f : Int → Int → Int) (A B : Nat) : VRes :=
  let w := laneBits t
  map2 t (fun a b => plain (wrap w (f (sval w a) (sval w b)))) A B

/-- A signed operation, clamped to the signed range with `sat`. -/
def sSat (t : BitVec 3) (f : Int → Int → Int) (A B : Nat) : VRes :=
  let w := laneBits t
  map2 t (fun a b => let r := saturate (iLo w) (iHi w) (f (sval w a) (sval w b)); (wrap w r.1, r.2)) A B

/-- A natural operation, clamped to 0 to 2^w − 1 with `sat`. -/
def nSat (t : BitVec 3) (f : Int → Int → Int) (A B : Nat) : VRes :=
  let w := laneBits t
  map2 t (fun a b => let r := saturate 0 (nHi w) (f a b); (wrap w r.1, r.2)) A B

/-- A unary operation clamped to the signed range with `sat`. -/
def uSat (t : BitVec 3) (f : Int → Int) (A : Nat) : VRes :=
  let w := laneBits t
  map1 t (fun a => let r := saturate (iLo w) (iHi w) (f (sval w a)); (wrap w r.1, r.2)) A

/-- A lane shifted by a natural count; counts at or above the width give 0, or all sign bits. -/
def shlLane (w a n : Nat) : Nat := if w ≤ n then 0 else a * 2 ^ n % 2 ^ w
/-- A lane shifted right with zero fill. -/
def shrLane (w a n : Nat) : Nat := if w ≤ n then 0 else a / 2 ^ n
/-- A lane shifted right with its sign. -/
def sraLane (w a n : Nat) : Nat := wrap w (sval w a / 2 ^ (min n (w - 1)))

/-- Bits 2w−1:w of the exact signed product. -/
def mulhLane (w a b : Nat) : Nat := wrap w (sval w a * sval w b / 2 ^ w)

/-- Signed sum of products of G adjacent lanes from lane i. -/
def dotSum (w A B i : Nat) : Nat → Int
  | 0 => 0
  | g + 1 => sval w (lane w A (i + g)) * sval w (lane w B (i + g)) + dotSum w A B i g

/-- `vdot`: i32 lanes accumulate groups of 4 or 2 products (R227). -/
def vdotRes (t : BitVec 3) (D A B : Nat) : VRes :=
  let w := laneBits t
  let G := 32 / w
  (pack 32 ((List.range 128).map fun j => wrap 32 (lane 32 D j + dotSum w A B (G * j) G)), 0)

/-- The even (or odd) source lanes' exact results in lanes of twice the width (R216). -/
def wideRes (t : BitVec 3) (odd : Nat) (f : Int → Int → Int) (A B : Nat) : Nat :=
  let w := laneBits t
  pack (2 * w) ((List.range (laneCount t / 2)).map fun j =>
    wrap (2 * w) (f (sval w (lane w A (2 * j + odd))) (sval w (lane w B (2 * j + odd)))))

/-! ### Floats (R228 to R230) -/

/-- A float operation of two lanes. -/
def fOp (t : BitVec 3) (f : FFmt → FVal → FVal → Nat × Flags) (A B : Nat) : VRes :=
  let F := fmtOf t
  map2 t (fun a b => f F (F.decode a) (F.decode b)) A B

/-- A float operation of one lane. -/
def fOp1 (t : BitVec 3) (f : FFmt → FVal → Nat × Flags) (A : Nat) : VRes :=
  let F := fmtOf t
  map1 t (fun a => f F (F.decode a)) A

/-- `vfmac`: old d + a × b rounded once (R228). -/
def vfmacRes (t : BitVec 3) (m : BitVec 2) (D A B : Nat) : VRes :=
  let F := fmtOf t
  map3 t (fun d a b => F.mac m (F.decode d) (F.decode a) (F.decode b)) D A B

/-- The value of a scale byte: 2^(s − 127) (R65). -/
def scaleVal (s : Nat) : FVal := .fin false 1 ((s : Int) - 127)

/-- `vfscl`: lane i accumulates a × 2^(s − 127), s the byte i >> 5 of b (R229). -/
def vfsclRes (t : BitVec 3) (m : BitVec 2) (D A B : Nat) : VRes :=
  let F := fmtOf t
  let w := laneBits t
  packRes w ((List.range (laneCount t)).map fun i =>
    F.mac m (F.decode (lane w D i)) (F.decode (lane w A i)) (scaleVal (lane 8 B (i / 32))))

/-- All ones or all zeros in a lane (R230). -/
def maskLane (w : Nat) (r : Bool × Flags) : Nat × Flags := (if r.1 then 2 ^ w - 1 else 0, r.2)

/-- A compare: signed integers, or floats (R230). -/
def cmpRes (t : BitVec 3) (fi : Int → Int → Bool) (ff : FFmt → Nat → Nat → Bool × Flags) (A B : Nat) : VRes :=
  let w := laneBits t
  if isInt t then map2 t (fun a b => maskLane w (fi (sval w a) (sval w b), 0)) A B
  else map2 t (fun a b => maskLane w (ff (fmtOf t) a b)) A B

/-! ### Conversions (R234, R235) -/

/-- A lane of an integer type as a number: natural when `n`. -/
def intVal (w : Nat) (n : Bool) (x : Nat) : Int := if n then (x % 2 ^ w : Nat) else sval w x

/-- An integer converted to an integer format: widening is exact, otherwise it saturates (R70). -/
def intToInt (ws wd : Nat) (nd : Bool) (v : Int) : Nat × Flags :=
  if ws < wd then (wrap wd v, 0)
  else
    let r := if nd then saturate 0 (nHi wd) v else saturate (iLo wd) (iHi wd) v
    (wrap wd r.1, r.2)

/-- A float value converted to an integer format of wd bits (R68). -/
def valToInt (m : BitVec 2) (wd : Nat) (nd : Bool) (x : FVal) : Nat × Flags :=
  let r := if nd then floatToInt m 0 (nHi wd) x else floatToInt m (iLo wd) (iHi wd) x
  (wrap wd r.1, r.2)

/-- One lane converted from type s to type t (R67 to R70). -/
def convertLane (m : BitVec 2) (s : BitVec 3) (sn : Bool) (t : BitVec 3) (tn : Bool) (x : Nat) : Nat × Flags :=
  match isInt s, isInt t with
  | true, true => intToInt (laneBits s) (laneBits t) tn (intVal (laneBits s) sn x)
  | true, false => (fmtOf t).ofInt m (intVal (laneBits s) sn x)
  | false, true => valToInt m (laneBits t) tn ((fmtOf s).decode x)
  | false, false => (fmtOf t).ofVal m ((fmtOf s).decode x)

/-- Lanes of w bits of a vector replaced from lane i on. -/
def putLanes (w D i : Nat) (l : List Nat) : Nat :=
  let n := w * l.length
  D - D / 2 ^ (w * i) % 2 ^ n * 2 ^ (w * i) + pack w l % 2 ^ n * 2 ^ (w * i)

/-- `vcvt` and `vcvtn` (R234). -/
def cvtRes (m : BitVec 2) (s : BitVec 3) (sn : Bool) (t : BitVec 3) (tn : Bool) (p : Nat) (D A : Nat) : VRes :=
  let ws := laneBits s
  let wd := laneBits t
  let L := 4096 / max ws wd
  let src := if ws < wd then p * L else 0
  let l := (List.range L).map fun i => convertLane m s sn t tn (lane ws A (src + i))
  if wd < ws then (putLanes wd D (p * L) (l.map fun q => q.1), orFlags l) else packRes wd l

/-- An i4 element converted to type t (R69, R70). -/
def fromI4 (m : BitVec 2) (t : BitVec 3) (x : Nat) : Nat × Flags :=
  if isInt t then intToInt 4 (laneBits t) false (sval 4 x) else (fmtOf t).ofInt m (sval 4 x)

/-- A lane of type t converted to i4 (R68, R70). -/
def toI4 (m : BitVec 2) (t : BitVec 3) (x : Nat) : Nat × Flags :=
  if isInt t then intToInt (laneBits t) 4 false (sval (laneBits t) x) else valToInt m 4 false ((fmtOf t).decode x)

/-- `vcvt4` with dir 0: elements part × L on, to lanes of t (R235). -/
def cvt4From (m : BitVec 2) (t : BitVec 3) (p A : Nat) : VRes :=
  let L := laneCount t
  packRes (laneBits t) ((List.range L).map fun i => fromI4 m t (lane 4 A (p * L + i)))

/-- `vcvt4` with dir 1: lanes to elements part × L on; the others are kept (R235). -/
def cvt4To (m : BitVec 2) (t : BitVec 3) (p D A : Nat) : VRes :=
  let L := laneCount t
  let l := (List.range L).map fun i => toI4 m t (lane (laneBits t) A i)
  (putLanes 4 D (p * L) (l.map fun q => q.1), orFlags l)

/-- A decoded q4x element converted to type t (R71). -/
def fromQ (m : BitVec 2) (t : BitVec 3) (x : QElem) : Nat × Flags :=
  match x with
  | .int v => if isInt t then (wrap (laneBits t) v, 0) else (fmtOf t).ofInt m v
  | .out e => if isInt t then valToInt m (laneBits t) false (f8e4.decode e) else (fmtOf t).ofVal m (f8e4.decode e)

/-- `vunpk4`: quads decoded and converted (R235, R50, R71). -/
def unpk4Res (m : BitVec 2) (t : BitVec 3) (p A : Nat) : VRes :=
  let L := laneCount t
  let qs := (List.range (L / 4)).map fun i => decodeQuad (lane 16 A (p * L / 4 + i))
  let r := packRes (laneBits t) ((qs.flatMap fun q => q.1).map (fromQ m t))
  (r.1, r.2 ||| qs.foldl (fun f q => f ||| q.2) 0)

/-! ### Packing, quantisation, pruning (R233, R236 to R238) -/

/-- A shift-in write of k bytes (R233). -/
def shiftIn (k D new : Nat) : Nat := D / 2 ^ (8 * k) + new % 2 ^ (8 * k) * 2 ^ (8 * (512 - k))

/-- A value clamped to −7..+7 as a 4-bit code; `sat` if clamped (R236). -/
def clamp7 (v : Int) : Nat × Flags := let r := saturate (-7) 7 v; (wrap 4 r.1, r.2)

/-- One quad from four i8 values and the four bytes of vb (R236). -/
def packQuad (a0 a1 a2 a3 : Int) (b0 b3 : Nat) : Nat × Flags :=
  if a0 = -128 then
    let c3 := clamp7 a3
    (8 + b0 % 256 * 16 + c3.1 * 4096, c3.2 ||| flagIf (a1 != 0 || a2 != 0) fSat)
  else if a3 = -128 then
    let c0 := clamp7 a0
    (c0.1 + b3 % 256 * 16 + 8 * 4096, c0.2 ||| flagIf (a1 != 0 || a2 != 0) fSat)
  else
    let c0 := clamp7 a0
    let c1 := clamp7 a1
    let c2 := clamp7 a2
    let c3 := clamp7 a3
    (c0.1 + c1.1 * 16 + c2.1 * 256 + c3.1 * 4096, c0.2 ||| c1.2 ||| c2.2 ||| c3.2)

/-- `vpack4`: 256 bytes shifted into vd (R236). -/
def pack4Res (D A B : Nat) : VRes :=
  let a (i : Nat) : Int := sval 8 (lane 8 A i)
  let l := (List.range 128).map fun j =>
    packQuad (a (4 * j)) (a (4 * j + 1)) (a (4 * j + 2)) (a (4 * j + 3)) (lane 8 B (4 * j)) (lane 8 B (4 * j + 3))
  (shiftIn 256 D (pack 16 (l.map fun q => q.1)), orFlags l)

/-- The magnitude of a value. -/
def FVal.abs : FVal → FVal
  | .nan b => .nan b
  | .inf _ => .inf false
  | .fin _ m e => .fin false m e

/-- Whether a value is a finite zero. -/
def FVal.isZero : FVal → Bool
  | .fin _ m _ => m == 0
  | _ => false

/-- Whether a value is finite. -/
def FVal.isFin : FVal → Bool
  | .fin _ _ _ => true
  | _ => false

/-- A value times 2^k. -/
def FVal.scale (x : FVal) (k : Int) : FVal :=
  match x with
  | .fin n m e => .fin n m (e + k)
  | y => y

/-- The greatest magnitude of finite values. -/
def maxAbs (l : List FVal) : FVal := l.foldl (fun r x => if r.lt x.abs then x.abs else r) (.fin false 0 0)

/-- The position of a quad that is its candidate: 3 if |x3| > |x0|, else 0 (R237). -/
def candPos (x0 x3 : FVal) : Nat := if x0.abs.lt x3.abs then 3 else 0

/-- A code and the flags of its making: c, and whether the lane is an outlier with its f8e4 encoding. -/
structure QCode where
  c : Int
  out : Option Nat
  flags : Flags

/-- The code of one lane of an i4 or q4x block (R237). -/
def quantLane (m : BitVec 2) (cand : Bool) (y : FVal) : QCode :=
  match y with
  | .fin n k e =>
    let r := toInteger m n k e
    let fl := flagIf (!r.2) fNx
    if cand && decide (7 < r.1.natAbs) then
      let o := f8e4.round m n k e
      { c := r.1, out := some o.1, flags := fl ||| o.2 }
    else { c := r.1, out := none, flags := fl }
  | _ => { c := 0, out := none, flags := 0 }

/-- A quad of four lane codes, with an outlier at its candidate's place (R237, R49). -/
def quantQuad (q0 q1 q2 q3 : QCode) : Nat × Flags :=
  let fl := q0.flags ||| q1.flags ||| q2.flags ||| q3.flags
  let drop := flagIf (q1.c != 0 || q2.c != 0) fNx
  match q0.out, q3.out with
  | some o, _ => (8 + o % 256 * 16 + wrap 4 q3.c * 4096, fl ||| drop)
  | none, some o => (wrap 4 q0.c + o % 256 * 16 + 8 * 4096, fl ||| drop)
  | none, none => (wrap 4 q0.c + wrap 4 q1.c * 16 + wrap 4 q2.c * 256 + wrap 4 q3.c * 4096, fl)

/-- Quads of a block's 32 lane codes. -/
def quantQuads : List QCode → List (Nat × Flags)
  | a :: b :: c :: d :: r => quantQuad a b c d :: quantQuads r
  | _ => []

/-- One block of 32 values under a target (0 q4x, 1 i4, 2 f8e4): its code bytes as a number, its scale byte, its flags (R237). -/
def quantBlock (m : BitVec 2) (tgt : Nat) (xs : List FVal) : Nat × Nat × Flags :=
  if xs.any fun x => !x.isFin then (0, 0, fNv)
  else if xs.all FVal.isZero then (0, 0, 0)
  else
    let x (i : Nat) : FVal := xs.getD i (.fin false 0 0)
    let isCand (i : Nat) : Bool := tgt == 0 && i % 4 == candPos (x (i / 4 * 4)) (x (i / 4 * 4 + 3))
    let r0 := maxAbs (((List.range 32).filter fun i => !isCand i).map x)
    let noCand := r0.isZero
    let r := if noCand then maxAbs xs else r0
    let top : Nat := if tgt = 2 then 448 else 7
    let s := ((List.range 256).find? fun s : Nat => !(FVal.fin false top ((s : Int) - 127)).lt r).getD 255
    let ys := xs.map fun v => v.scale (127 - (s : Int))
    if tgt = 2 then
      let cs := ys.map fun y => f8e4.ofVal m y
      (pack 8 (cs.map fun c => if c.1 = 0x80 then 0 else c.1), s, orFlags cs)
    else
      let qs := (List.range 32).map fun i => quantLane m (isCand i && !noCand) (ys.getD i (.fin false 0 0))
      let quads := quantQuads qs
      (pack 16 (quads.map fun q => q.1), s, orFlags quads)

/-- `vquant`: codes shifted into vd, scale bytes into vb (R237). -/
def quantRes (m : BitVec 2) (tgt : Nat) (t : BitVec 3) (D Bo A : Nat) : Nat × Nat × Flags :=
  let F := fmtOf t
  let N := laneCount t
  let xs := (lanes (laneBits t) N A).map F.decode
  let bl := (List.range (N / 32)).map fun b => quantBlock m tgt ((xs.drop (32 * b)).take 32)
  let cb := if tgt = 2 then 32 else 16
  (shiftIn (N / 32 * cb) D (pack (8 * cb) (bl.map fun q => q.1)),
   shiftIn (N / 32) Bo (pack 8 (bl.map fun q => q.2.1)), bl.foldl (fun f q => f ||| q.2.2) 0)

/-- The rank of a lane by magnitude: |x|, a NaN above everything (R238). -/
def magnitude (t : BitVec 3) (x : Nat) : Nat :=
  let w := laneBits t
  if isInt t then (sval w x).natAbs
  else if ((fmtOf t).decode x).isNan then 2 ^ w else x % 2 ^ (w - 1)

/-- The kept indices of a group: the K largest magnitudes, equal ones by lower index, in ascending order (R238). -/
def keptOf (K : Nat) (ms : List Nat) : List Nat :=
  (List.range ms.length).filter fun i =>
    decide (((List.range ms.length).filter fun j =>
      decide (ms.getD i 0 < ms.getD j 0) || (ms.getD j 0 == ms.getD i 0 && decide (j < i))).length < K)

/-- `vprune24` (G = 4) and `vprune48` (G = 8): kept lanes shifted into vd, metadata into vb (R238). -/
def pruneRes (G : Nat) (t : BitVec 3) (D Bo A : Nat) : Nat × Nat :=
  let w := laneBits t
  let L := laneCount t
  let groups := (List.range (L / G)).map fun g =>
    let ls := (List.range G).map fun i => lane w A (G * g + i)
    let ks := keptOf (G / 2) (ls.map (magnitude t))
    (ks.map fun i => ls.getD i 0, ks)
  let kept := pack w (groups.flatMap fun g => g.1)
  let metaV := if G = 4 then pack 4 (groups.map fun g => pack 2 g.2) else pack 16 (groups.map fun g => pack 3 g.2)
  let mb := if G = 4 then L / 8 else L / 4
  (shiftIn 256 D kept, shiftIn mb Bo metaV)

/-! ### Reductions and permutations (R239 to R241) -/

/-- The exact sum of finite values: the sign of a zero sum follows R63. -/
def exactSum (m : BitVec 2) (l : List FVal) : Bool × Nat × Int :=
  match l with
  | [] => (false, 0, 0)
  | .fin n k e :: r => r.foldl (fun a x => match x with
      | .fin n' k' e' => finAdd m a.1 a.2.1 a.2.2 n' k' e'
      | _ => a) (n, k, e)
  | _ :: _ => (false, 0, 0)

/-- The sum of float values rounded once to f32 (R239). -/
def sumF32 (m : BitVec 2) (l : List FVal) : Nat × Flags :=
  if l.any FVal.isNan then (f32.cnan, snanFlags l)
  else
    let pos := l.any fun x => x == .inf false
    let neg := l.any fun x => x == .inf true
    if pos && neg then (f32.cnan, fNv)
    else if pos then f32.infinity false
    else if neg then f32.infinity true
    else
      let r := exactSum m l
      -- an exact zero of operands of both signs is +0, except in mode down (R63)
      let sgn := if r.2.1 = 0 then
          (if l.all (fun x => x.isZero && x.sign) then true
           else if l.all (fun x => x.isZero && !x.sign) then false
           else m.toNat == 2)
        else r.1
      f32.round m sgn r.2.1 r.2.2

/-- `vradd` (R239). -/
def vraddRes (t : BitVec 3) (m : BitVec 2) (D A : Nat) : VRes :=
  let w := laneBits t
  let l := lanes w (laneCount t) A
  if isInt t then (wrap 32 ((l.map (sval w)).foldl (· + ·) (sval 32 (lane 32 D 0))), 0)
  else sumF32 m (f32.decode (lane 32 D 0) :: l.map (fmtOf t).decode)

/-- `vrmax` and `vrmin` (R239, R109). -/
def vrextRes (greater : Bool) (t : BitVec 3) (D A : Nat) : VRes :=
  let w := laneBits t
  let l := lanes w (laneCount t) A
  if isInt t then
    (wrap w (l.foldl (fun r x => if greater then max r (sval w x) else min r (sval w x)) (sval w (lane w D 0))), 0)
  else l.foldl (fun r x => let q := (fmtOf t).minmax greater r.1 x; (q.1, r.2 ||| q.2)) (lane w D 0, 0)

/-- `vperm` (R240). -/
def vpermRes (t : BitVec 3) (A B : Nat) : Nat :=
  let w := laneBits t
  let L := laneCount t
  pack w ((List.range L).map fun i =>
    if w = 8 then lane 8 A (256 * (i / 256) + lane 8 B i) else lane w A (lane w B i % L))

/-- `vrot` (R240). -/
def vrotRes (t : BitVec 3) (A B : Nat) : Nat :=
  let w := laneBits t
  let L := laneCount t
  pack w ((List.range L).map fun i => lane w A ((i + B % 2 ^ 32) % L))

/-- `vtld` (R241). -/
def vtldRes (t : BitVec 3) (A B : Nat) : Nat :=
  let w := laneBits t
  let L := laneCount t
  let r := min (2 ^ (B % 16)) L
  let c := L / r
  pack w ((List.range L).map fun k => lane w A (k % r * c + k / r))

end Sys2Proof.Machine
end

