-- ==== Sys2Proof/Machine/MatrixMath.lean ====
section
/-! DEFINITION. What matrix commands compute: the fields of a command record (R253), element formats (R254, R257), the
accumulation of products in groups of 32 (R258, R259), sparse and ragged products (R269 to R271, R275), tile places (R256). -/

namespace Sys2Proof.Machine

/-- A command record (R253). -/
abbrev MRec := BitVec 512

/-- Command code. -/
def MRec.op (r : MRec) : Nat := bits r 0 4
/-- A's format, or the output format. -/
def MRec.afmt (r : MRec) : Nat := bits r 4 4
/-- B's format. -/
def MRec.bfmt (r : MRec) : Nat := bits r 8 4
/-- A's source. -/
def MRec.asrc (r : MRec) : Nat := bits r 12 2
/-- B's source. -/
def MRec.bsrc (r : MRec) : Nat := bits r 14 2
/-- Add to the tiles. -/
def MRec.acc (r : MRec) : Bool := bit1 r 16
/-- A's layout. -/
def MRec.ta (r : MRec) : Bool := bit1 r 17
/-- B's layout. -/
def MRec.tb (r : MRec) : Bool := bit1 r 18
/-- Waits for the gate word. -/
def MRec.gt (r : MRec) : Bool := bit1 r 19
/-- Writes the done word. -/
def MRec.dn (r : MRec) : Bool := bit1 r 20
/-- The first tile. -/
def MRec.t0 (r : MRec) : Nat := bits r 24 4
/-- M. -/
def MRec.M (r : MRec) : Nat := bits r 32 8 + 1
/-- N. -/
def MRec.N (r : MRec) : Nat := bits r 40 8 + 1
/-- K. -/
def MRec.K (r : MRec) : Nat := bits r 48 16
/-- A's offset. -/
def MRec.aoff (r : MRec) : Nat := bits r 64 36
/-- A's window. -/
def MRec.awin (r : MRec) : Nat := bits r 100 4
/-- B's offset. -/
def MRec.boff (r : MRec) : Nat := bits r 128 36
/-- B's window. -/
def MRec.bwin (r : MRec) : Nat := bits r 164 4
/-- A's row stride. -/
def MRec.astride (r : MRec) : Nat := bits r 192 24
/-- B's row stride. -/
def MRec.bstride (r : MRec) : Nat := bits r 216 24
/-- A's scale bytes, or the metadata offset. -/
def MRec.sa (r : MRec) : Nat := bits r 256 21
/-- Stride of A's scale rows. -/
def MRec.sastride (r : MRec) : Nat := bits r 288 24
/-- B's scale bytes. -/
def MRec.sb (r : MRec) : Nat := bits r 320 21
/-- Stride of B's scale rows, or between the B operands of groups. -/
def MRec.sbstride (r : MRec) : Nat := bits r 352 24
/-- The gate word's slot offset. -/
def MRec.gate (r : MRec) : Nat := bits r 384 21
/-- The done word's slot offset. -/
def MRec.done (r : MRec) : Nat := bits r 448 21
/-- The value of the done word. -/
def MRec.dval (r : MRec) : Nat := bits r 480 32

/-- Whether a format code is one of R254. -/
def fmtOk (f : Nat) : Bool := f == 0 || (decide (3 ≤ f) && decide (f ≤ 9))

/-- Bits of one element of a format. -/
def fmtBits (f : Nat) : Nat :=
  match f with
  | 0 => 8
  | 3 => 8
  | 4 => 8
  | 5 => 16
  | 6 => 16
  | 7 => 32
  | _ => 4

/-- The bytes that a row start must be a multiple of (R257). -/
def fmtAlign (f : Nat) : Nat :=
  match f with
  | 5 => 2
  | 6 => 2
  | 7 => 4
  | 9 => 2
  | _ => 1

/-- The bytes of a row of n contiguous elements. -/
def rowBytes (f n : Nat) : Nat := (n * fmtBits f + 7) / 8

/-- Whether a contiguous length suits a format (R257). -/
def contigOk (f n : Nat) : Bool := if f = 9 then n % 4 == 0 else if f = 8 then n % 2 == 0 else true

/-- The n elements of a row from its bytes as a little-endian number, and whether a quad is malformed (R257, R50). -/
def rowElems (f n x : Nat) : List FVal × Flags :=
  if f = 9 then
    let qs := (lanes 16 (n / 4) x).map decodeQuad
    ((qs.flatMap fun q => q.1).map QElem.val, qs.foldl (fun a q => a ||| q.2) 0)
  else if f = 0 ∨ f = 8 then
    let w := fmtBits f
    ((lanes w n x).map fun e => let v := sval w e; FVal.fin (decide (v < 0)) v.natAbs 0, 0)
  else
    let F := fmtOf (BitVec.ofNat 3 f)
    ((lanes (fmtBits f) n x).map F.decode, 0)

/-- Rows turned into columns: n of them. -/
def columns (n : Nat) (rows : List (List FVal)) : List (List FVal) :=
  (List.range n).map fun i => rows.map fun r => r.getD i (.fin false 0 0)

/-! ### Accumulation (R258, R259) -/

/-- What a group of 32 gathers: the exact sum in units of 2^−300, and what it met. -/
structure Sum32 where
  sum : Int
  bad : Bool
  pinf : Bool
  ninf : Bool
  nv : Bool

/-- One product of a group; an element that is not kept forms none (R258, R271). -/
def Sum32.step (g : Sum32) (a : Option FVal) (b : FVal) : Sum32 :=
  match a with
  | none => g
  | some a =>
    let g := { g with nv := g.nv || a.isSnan || b.isSnan }
    match a, b with
    | .nan _, _ => { g with bad := true }
    | _, .nan _ => { g with bad := true }
    | .inf x, .inf y => if x != y then { g with ninf := true } else { g with pinf := true }
    | .inf x, .fin y m _ =>
      if m = 0 then { g with bad := true, nv := true } else if x != y then { g with ninf := true } else { g with pinf := true }
    | .fin x m _, .inf y =>
      if m = 0 then { g with bad := true, nv := true } else if x != y then { g with ninf := true } else { g with pinf := true }
    | .fin x m e, .fin y n f =>
      { g with sum := g.sum + (if x != y then -1 else 1) * (m * n * 2 ^ (e + f + 300).toNat : Nat) }

/-- `Accumulate`, with `sh` the exponent of the scales (R258). -/
def accumulate (c : Nat) (g : Sum32) (sh : Int) : Nat × Flags :=
  let nan : Nat := 0x7FC00000
  let nv := flagIf (g.nv || (g.pinf && g.ninf)) fNv
  let v := f32.decode c
  if g.bad || v.isNan || (g.pinf && g.ninf) then (nan, nv)
  else if (g.pinf && v == .inf true) || (g.ninf && v == .inf false) then (nan, nv ||| fNv)
  else if g.pinf then (0x7F800000, nv)
  else if g.ninf then (0xFF800000, nv)
  else match v with
  | .fin n m e =>
    let r := finAdd 0 n m e (decide (g.sum < 0)) g.sum.natAbs (sh - 300)
    if r.2.1 = 0 then (0, nv)
    else
      let q := f32.round 0 r.1 r.2.1 r.2.2
      (q.1, nv ||| q.2)
  | _ => (c, nv)

/-- The products of one element in groups of 32, `shs` the scale exponents by group (R258). -/
def dotGroups : Nat → List (Option FVal × FVal) → List Int → Nat → Flags → Nat × Flags
  | 0, _, _, c, f => (c, f)
  | n + 1, l, shs, c, f =>
    let g := (l.take 32).foldl (fun (g : Sum32) p => g.step p.1 p.2) { sum := 0, bad := false, pinf := false, ninf := false, nv := false }
    let r := accumulate c g (shs.headD 0)
    dotGroups n (l.drop 32) shs.tail r.1 (f ||| r.2)

/-- The place of a block element among the tiles (R256). -/
def tileIndex (t0 n i j : Nat) : Nat := (t0 + i / 32 * ((n + 31) / 32) + j / 32) * 1024 + i % 32 * 32 + j % 32

/-- The highest tile of a block (R256). -/
def lastTile (t0 m n : Nat) : Nat := t0 + (m + 31) / 32 * ((n + 31) / 32) - 1

/-! ### Metadata (R270, R273, R275) -/

/-- Byte i of a metadata copy. -/
def metaByte (v : Vec) (i : Nat) : Nat := lane 8 v.toNat i
/-- 16 bits of a metadata copy at a byte. -/
def meta16 (v : Vec) (i : Nat) : Nat := metaByte v i + 256 * metaByte v (i + 1)

/-- The kept indices of a group of row i: G = 4 or 8 (R270). -/
def keptIdx (G : Nat) (v : Vec) (row h : Nat) : List Nat :=
  if G = 4 then
    let n := metaByte v (row + h / 2) / (if h % 2 = 0 then 1 else 16) % 16
    [n % 4, n / 4]
  else
    let n := meta16 v (row + 2 * h)
    [n % 8, n / 8 % 8, n / 64 % 8, n / 512 % 8]

/-- Whether a group's indices are well formed (R270). -/
def keptOk (G : Nat) (v : Vec) (row h : Nat) : Bool :=
  let l := keptIdx G v row h
  (l.zip l.tail).all (fun p => decide (p.1 < p.2)) && (G == 4 || meta16 v (row + 2 * h) / 4096 == 0)

/-- A compressed row spread over its full length: elements that are not kept are none (R269, R271). -/
def spreadRow (G : Nat) (v : Vec) (row : Nat) : Nat → Nat → List FVal → List (Option FVal)
  | 0, _, _ => []
  | n + 1, h, l =>
    let ks := keptIdx G v row h
    let part := (List.range G).map fun k =>
      match ks.findIdx? fun q => q == k with
      | some j => some (l.getD j (.fin false 0 0))
      | none => none
    part ++ spreadRow G v row n (h + 1) (l.drop (G / 2))

/-- The ragged group that a row of A belongs to, with the group ends of R275. -/
def groupOf (v : Vec) (i : Nat) : Nat := ((List.range (meta16 v 0)).find? fun g => decide (i < meta16 v (2 + 2 * g))).getD 0

/-- Whether ragged group ends hold (R275). -/
def raggedOk (v : Vec) (M : Nat) : Bool :=
  let G := meta16 v 0
  decide (1 ≤ G) && decide (G ≤ 255) &&
  (List.range G).all (fun g => decide ((if g = 0 then 0 else meta16 v (2 * g)) ≤ meta16 v (2 + 2 * g))) &&
  meta16 v (2 * G) == M

end Sys2Proof.Machine
end

