-- ==== Sys2Proof/Machine/Vector.lean ====
section
/-! DEFINITION. The vector engine: the issue of V-form words into its queue (R217, R219, R221), what a started instruction
reads and will write (R218, R220), its completion (R222), `vld` and `vst` (R243), `vswap` (R242, R315), the moves that the
strand makes itself (R244, R245), and `vx.sync` (R223). -/

namespace Sys2Proof.Machine

/-! ### Operand streams as a core's units see them (R309 to R313) -/

/-- The number under which a cluster's stream is held. -/
def streamKey (g st : Nat) : Nat := clusterOf g * 64 + st

/-- Whether core k of a cluster subscribes to a stream with a target (R309). -/
def subscribes (e : BitVec 256) (k tgt : Nat) : Bool :=
  bits e (128 + k) 1 == 1 && bits e (144 + 3 * k) 3 == tgt

/-- The stream that binds channel i of a core, if a valid entry does (R313). -/
def channelStream (s : State) (g i : Nat) : Option (Nat × Stream) :=
  s.streams.find? fun p => p.1 / 64 == clusterOf g && p.2.valid && subscribes p.2.entry (kOf g) (4 + i)

/-- n blocks more are consumed by a core (R312). -/
def takeBlocks (s : State) (key k n : Nat) : State :=
  match kget? s.streams key with
  | none => s
  | some st => { s with streams := kset s.streams key { st with taken := kset st.taken k (kget st.taken k 0 + n) } }

/-- Whether a consumer that has taken some blocks needs one beyond the stream's end (R313). -/
def exhausted (st : Stream) (k n : Nat) : Bool :=
  bits st.entry 96 32 != 0 && decide (bits st.entry 96 32 < kget st.taken k 0 + n)

/-! ### Operands (R217) -/

/-- The pointer registers that a word names. -/
def xNums (i : Instr) : List Nat :=
  let u := usesOf i
  (((u.vs ++ u.vd).filter fun v => decide (32 ≤ v.toNat) && decide (v.toNat < 40)).map fun v => v.toNat - 32).eraseDups

/-- The channels that a word names, once for each field. -/
def chNums (i : Instr) : List Nat :=
  ((usesOf i).vs.filter fun v => decide (40 ≤ v.toNat) && decide (v.toNat < 44)).map fun v => v.toNat - 40

/-- The address in a pointer register (R37). -/
def xAddr (t : Strand) (n : Nat) : Nat := bits (kget t.xptr n 0) 0 48

/-- A pointer register after one instruction: addr advanced by step modulo 2^48 (R38). -/
def xAdvance (t : Strand) (n : Nat) : Strand :=
  let x := kget t.xptr n 0
  { t with xptr := kset t.xptr n (setBits x 0 48 (addr48 ((bits x 0 48 : Int) + sbits x 48 16))) }

/-- The accesses that a word makes through its pointer registers: the register, the bytes and the direction, 1 read, 2 write. A source
has 512 bytes, and a destination 1,024 where it is a pair (R216, R429). -/
def xUses (i : Instr) : List (Nat × Nat × BitVec 2) :=
  let u := usesOf i
  (xNums i).flatMap fun n =>
    let v : BitVec 6 := BitVec.ofNat 6 (n + 32)
    (if u.vs.contains v then [(n, 512, 1)] else []) ++ (if u.vd.contains v then [(n, if u.vpair then 1024 else 512, 2)] else [])

/-- The audited accesses of a word: for each pointer register 512 bytes in the directions that the word has there (R429, R437). -/
def xAudits (i : Instr) : List (Nat × Nat × BitVec 2) :=
  (xNums i).map fun n => (n, 512, ((xUses i).filter fun u => u.1 == n).foldl (fun d u => d ||| u.2.2) 0)

/-- The x-operand of a word that the audit of a debug launch finds outside every window of its direction (R437). -/
def xAudit (i : Instr) (t : Strand) : Option (Nat × Nat × BitVec 2) := (xAudits i).find? fun u => !inWindow t (xAddr t u.1) u.2.1 u.2.2

/-- Whether 64 bytes lie in a core's own slot. -/
def ownBytes (g a : Nat) : Bool := isSpad a && slotOf a == g

/-- 512 bytes of an x-operand, as a number: bytes outside the own slot read zero (R217, R19). -/
def readX (s : State) (g a : Nat) : Nat :=
  pack 512 ((List.range 8).map fun j => if ownBytes g (a + 64 * j) then readVal s (a + 64 * j) 64 else 0)

/-- Whether some byte of an x-operand is outside the populated part of the own slot (R217). -/
def holeX (s : State) (g a : Nat) : Bool :=
  (List.range 8).any fun j => !ownBytes g (a + 64 * j) || anyHole s (a + 64 * j) 64

/-- 512 bytes written to an x-operand: bytes outside the own slot are discarded (R217, R19). -/
def writeX (s : State) (g a : Nat) (v : Nat) : State :=
  (List.range 8).foldl (fun s j =>
    if ownBytes g (a + 64 * j) then writeVal s (a + 64 * j) 64 (lane 512 v j) else s) s

/-- The first poisoned word that an x-operand reads (R409). -/
def poisonX (s : State) (g a : Nat) : Option Nat :=
  (List.range 8).findSome? fun j => if ownBytes g (a + 64 * j) then poisonIn? s (a + 64 * j) 64 else none

/-! ### Issue (R219) -/

/-- Whether a word is a memory access of its strand (R221). -/
def vecAccess (i : Instr) : Bool :=
  !(xNums i).isEmpty || match i with
    | .vld _ _ => true
    | .vst _ _ => true
    | _ => false

/-- The byte ranges of a word's operands in memory: those of its pointer registers, and of `vld` or `vst` its address (R217, R221, R243). -/
def vecRanges (i : Instr) (t : Strand) (ea : Nat) : List (Nat × Nat) :=
  ((xUses i).map fun u => (xAddr t u.1, u.2.1)) ++ (match i with
    | .vld _ _ => [(ea, 512)]
    | .vst _ _ => [(ea, 512)]
    | _ => [])

/-- What a V-form word waits for at issue: a queue entry; for an access, the strand's earlier accesses (R219, R221). A
misaligned x-operand waits for nothing. -/
def vecGate (s : State) (i : Instr) (x : Iss) : Option Wait :=
  if (xNums i).any fun n => xAddr x.t n % 64 != 0 then none
  else if 2 ≤ x.c.vq.length then some .queue
  else if vecAccess i && !accessReady s x.g x.sid false then some .access
  else none

/-- Whether a word reaches memory by a request of its own: `vld` and `vst` (R243). -/
def reachesOut (i : Instr) : Bool :=
  match i with
  | .vld _ _ => true
  | .vst _ _ => true
  | _ => false

/-- A word put into the queue: pointer addresses and `rnd` captured, pointers advanced, the access counted (R217, R219, R221). -/
def enqueueVec (s : State) (x : Iss) (i : Instr) (ea : Nat) : State :=
  let xs : List (Nat × Addr) := (xNums i).map fun n => (n, BitVec.ofNat 48 (xAddr x.t n))
  let at_ := if reachesOut i then ea else ((xs.map fun p => p.2.toNat).head?).getD 0
  let a : Access := { Access.fresh s x .vector at_ 0 0 false with xr := vecRanges i x.t ea }
  let r := if vecAccess i then (some s.nextId, { s with nextId := s.nextId + 1, accs := s.accs ++ [a] }) else (none, s)
  let e : VEntry := { instr := i, sid := x.sid, xs := xs, rnd := x.t.rnd, ea := ea, acc := r.1, pc := savePc x.t, word := BitVec.ofNat 32 (readVal s (savePc x.t).toNat 4) }
  let s := updCore r.2 x.g fun c => { c with vq := c.vq ++ [e] }
  retire (updStrand s x.g x.sid fun t => (xNums i).foldl xAdvance t) x

/-- The meaning of a queued V-form word at issue: a misaligned x-operand is the access fault 0x0002, with the address of the first such operand
(sources before the destination; DESIGN CHOICE, log entry 92), a debug launch audits the windows, and otherwise the word is queued (R217,
R219, R437). -/
def vecWord (i : Instr) (s : State) : Host.Outcome State Fault Refusal :=
  wordG i s (vecGate s i) fun x _ s =>
    match (xNums i).find? fun n => xAddr x.t n % 64 != 0 with
    | some n => raiseAt s x 1 2 0 (xAddr x.t n) 63
    | none =>
      match (if debugOn s x.g then xAudit i x.t else none) with
      | some u => raiseAt s x 9 2 (w64 u.2.1) (xAddr x.t u.1) 63
      | none => enqueueVec s x i 0

/-- Adds integer lanes with wrap (R226). -/
def execVadd (d : BitVec 6) (a : BitVec 6) (b : BitVec 6) (t : BitVec 3) (s : State) : Host.Outcome State Fault Refusal :=
  vecWord (.vadd d a b t) s

/-- Subtracts integer lanes with wrap (R226). -/
def execVsub (d : BitVec 6) (a : BitVec 6) (b : BitVec 6) (t : BitVec 3) (s : State) : Host.Outcome State Fault Refusal :=
  vecWord (.vsub d a b t) s

/-- Writes the low bits of lane products (R226). -/
def execVmul (d : BitVec 6) (a : BitVec 6) (b : BitVec 6) (t : BitVec 3) (s : State) : Host.Outcome State Fault Refusal :=
  vecWord (.vmul d a b t) s

/-- Writes the high bits of signed lane products (R226). -/
def execVmulh (d : BitVec 6) (a : BitVec 6) (b : BitVec 6) (t : BitVec 3) (s : State) : Host.Outcome State Fault Refusal :=
  vecWord (.vmulh d a b t) s

/-- Writes the signed lane minimum (R226). -/
def execVmin (d : BitVec 6) (a : BitVec 6) (b : BitVec 6) (t : BitVec 3) (s : State) : Host.Outcome State Fault Refusal :=
  vecWord (.vmin d a b t) s

/-- Writes the signed lane maximum (R226). -/
def execVmax (d : BitVec 6) (a : BitVec 6) (b : BitVec 6) (t : BitVec 3) (s : State) : Host.Outcome State Fault Refusal :=
  vecWord (.vmax d a b t) s

/-- Writes the natural lane minimum (R226). -/
def execVminn (d : BitVec 6) (a : BitVec 6) (b : BitVec 6) (t : BitVec 3) (s : State) : Host.Outcome State Fault Refusal :=
  vecWord (.vminn d a b t) s

/-- Writes the natural lane maximum (R226). -/
def execVmaxn (d : BitVec 6) (a : BitVec 6) (b : BitVec 6) (t : BitVec 3) (s : State) : Host.Outcome State Fault Refusal :=
  vecWord (.vmaxn d a b t) s

/-- Adds lanes with signed saturation (R226). -/
def execVadds (d : BitVec 6) (a : BitVec 6) (b : BitVec 6) (t : BitVec 3) (s : State) : Host.Outcome State Fault Refusal :=
  vecWord (.vadds d a b t) s

/-- Subtracts lanes with signed saturation (R226). -/
def execVsubs (d : BitVec 6) (a : BitVec 6) (b : BitVec 6) (t : BitVec 3) (s : State) : Host.Outcome State Fault Refusal :=
  vecWord (.vsubs d a b t) s

/-- Adds lanes with natural saturation (R226). -/
def execVaddsn (d : BitVec 6) (a : BitVec 6) (b : BitVec 6) (t : BitVec 3) (s : State) : Host.Outcome State Fault Refusal :=
  vecWord (.vaddsn d a b t) s

/-- Subtracts lanes with natural saturation (R226). -/
def execVsubsn (d : BitVec 6) (a : BitVec 6) (b : BitVec 6) (t : BitVec 3) (s : State) : Host.Outcome State Fault Refusal :=
  vecWord (.vsubsn d a b t) s

/-- Writes lane absolute values with saturation of the minimum (R226). -/
def execVabs (d : BitVec 6) (a : BitVec 6) (t : BitVec 3) (s : State) : Host.Outcome State Fault Refusal :=
  vecWord (.vabs d a t) s

/-- Negates lanes with saturation of the minimum (R226). -/
def execVneg (d : BitVec 6) (a : BitVec 6) (t : BitVec 3) (s : State) : Host.Outcome State Fault Refusal :=
  vecWord (.vneg d a t) s

/-- Shifts lanes left by per-lane counts (R226). -/
def execVshl (d : BitVec 6) (a : BitVec 6) (b : BitVec 6) (t : BitVec 3) (s : State) : Host.Outcome State Fault Refusal :=
  vecWord (.vshl d a b t) s

/-- Shifts lanes right with zero fill (R226). -/
def execVshr (d : BitVec 6) (a : BitVec 6) (b : BitVec 6) (t : BitVec 3) (s : State) : Host.Outcome State Fault Refusal :=
  vecWord (.vshr d a b t) s

/-- Shifts lanes right arithmetically (R226). -/
def execVsra (d : BitVec 6) (a : BitVec 6) (b : BitVec 6) (t : BitVec 3) (s : State) : Host.Outcome State Fault Refusal :=
  vecWord (.vsra d a b t) s

/-- Accumulates grouped lane dot products into i32 lanes (R227). -/
def execVdot (d : BitVec 6) (a : BitVec 6) (b : BitVec 6) (t : BitVec 3) (s : State) : Host.Outcome State Fault Refusal :=
  vecWord (.vdot d a b t) s

/-- Writes exact widened lane sums into a register pair (R227). -/
def execVwadd (d : BitVec 6) (a : BitVec 6) (b : BitVec 6) (t : BitVec 3) (s : State) : Host.Outcome State Fault Refusal :=
  vecWord (.vwadd d a b t) s

/-- Writes exact widened lane products into a register pair (R227). -/
def execVwmul (d : BitVec 6) (a : BitVec 6) (b : BitVec 6) (t : BitVec 3) (s : State) : Host.Outcome State Fault Refusal :=
  vecWord (.vwmul d a b t) s

/-- Adds float lanes (R228). -/
def execVfadd (d : BitVec 6) (a : BitVec 6) (b : BitVec 6) (t : BitVec 3) (s : State) : Host.Outcome State Fault Refusal :=
  vecWord (.vfadd d a b t) s

/-- Subtracts float lanes (R228). -/
def execVfsub (d : BitVec 6) (a : BitVec 6) (b : BitVec 6) (t : BitVec 3) (s : State) : Host.Outcome State Fault Refusal :=
  vecWord (.vfsub d a b t) s

/-- Multiplies float lanes (R228). -/
def execVfmul (d : BitVec 6) (a : BitVec 6) (b : BitVec 6) (t : BitVec 3) (s : State) : Host.Outcome State Fault Refusal :=
  vecWord (.vfmul d a b t) s

/-- Divides float lanes (R228). -/
def execVfdiv (d : BitVec 6) (a : BitVec 6) (b : BitVec 6) (t : BitVec 3) (s : State) : Host.Outcome State Fault Refusal :=
  vecWord (.vfdiv d a b t) s

/-- Adds lane products to the destination with one rounding (R228). -/
def execVfmac (d : BitVec 6) (a : BitVec 6) (b : BitVec 6) (t : BitVec 3) (s : State) : Host.Outcome State Fault Refusal :=
  vecWord (.vfmac d a b t) s

/-- Writes the lesser float lane operand (R228). -/
def execVfmin (d : BitVec 6) (a : BitVec 6) (b : BitVec 6) (t : BitVec 3) (s : State) : Host.Outcome State Fault Refusal :=
  vecWord (.vfmin d a b t) s

/-- Writes the greater float lane operand (R228). -/
def execVfmax (d : BitVec 6) (a : BitVec 6) (b : BitVec 6) (t : BitVec 3) (s : State) : Host.Outcome State Fault Refusal :=
  vecWord (.vfmax d a b t) s

/-- Clears the sign bit of float lanes (R228). -/
def execVfabs (d : BitVec 6) (a : BitVec 6) (t : BitVec 3) (s : State) : Host.Outcome State Fault Refusal :=
  vecWord (.vfabs d a t) s

/-- Inverts the sign bit of float lanes (R228). -/
def execVfneg (d : BitVec 6) (a : BitVec 6) (t : BitVec 3) (s : State) : Host.Outcome State Fault Refusal :=
  vecWord (.vfneg d a t) s

/-- Writes the rounded square root of float lanes (R228). -/
def execVfsqrt (d : BitVec 6) (a : BitVec 6) (t : BitVec 3) (s : State) : Host.Outcome State Fault Refusal :=
  vecWord (.vfsqrt d a t) s

/-- Scales lanes by block scale bytes and accumulates (R229). -/
def execVfscl (d : BitVec 6) (a : BitVec 6) (b : BitVec 6) (t : BitVec 3) (s : State) : Host.Outcome State Fault Refusal :=
  vecWord (.vfscl d a b t) s

/-- Writes all ones in lanes where a equals b (R230). -/
def execVceq (d : BitVec 6) (a : BitVec 6) (b : BitVec 6) (t : BitVec 3) (s : State) : Host.Outcome State Fault Refusal :=
  vecWord (.vceq d a b t) s

/-- Writes all ones in lanes where a is less than b (R230). -/
def execVclt (d : BitVec 6) (a : BitVec 6) (b : BitVec 6) (t : BitVec 3) (s : State) : Host.Outcome State Fault Refusal :=
  vecWord (.vclt d a b t) s

/-- Writes all ones in lanes where a is at most b (R230). -/
def execVcle (d : BitVec 6) (a : BitVec 6) (b : BitVec 6) (t : BitVec 3) (s : State) : Host.Outcome State Fault Refusal :=
  vecWord (.vcle d a b t) s

/-- Writes all ones in lanes where a is less than b as naturals (R230). -/
def execVcltn (d : BitVec 6) (a : BitVec 6) (b : BitVec 6) (t : BitVec 3) (s : State) : Host.Outcome State Fault Refusal :=
  vecWord (.vcltn d a b t) s

/-- Writes the bitwise AND of two vectors (R230). -/
def execVand (d : BitVec 6) (a : BitVec 6) (b : BitVec 6) (s : State) : Host.Outcome State Fault Refusal :=
  vecWord (.vand d a b) s

/-- Writes the bitwise OR of two vectors (R230). -/
def execVor (d : BitVec 6) (a : BitVec 6) (b : BitVec 6) (s : State) : Host.Outcome State Fault Refusal :=
  vecWord (.vor d a b) s

/-- Writes the bitwise XOR of two vectors (R230). -/
def execVxor (d : BitVec 6) (a : BitVec 6) (b : BitVec 6) (s : State) : Host.Outcome State Fault Refusal :=
  vecWord (.vxor d a b) s

/-- Writes a AND NOT b (R230). -/
def execVandn (d : BitVec 6) (a : BitVec 6) (b : BitVec 6) (s : State) : Host.Outcome State Fault Refusal :=
  vecWord (.vandn d a b) s

/-- Selects bits of a or b under the old destination as mask (R230). -/
def execVsel (d : BitVec 6) (a : BitVec 6) (b : BitVec 6) (s : State) : Host.Outcome State Fault Refusal :=
  vecWord (.vsel d a b) s

/-- Converts lanes between vector types into a signed or float destination (R234). -/
def execVcvt (d : BitVec 6) (a : BitVec 6) (n : BitVec 1) (p : BitVec 2) (sn : BitVec 3) (t : BitVec 3) (s : State) : Host.Outcome State Fault Refusal :=
  vecWord (.vcvt d a n p sn t) s

/-- Converts lanes into a natural integer destination (R234). -/
def execVcvtn (d : BitVec 6) (a : BitVec 6) (n : BitVec 1) (p : BitVec 2) (sn : BitVec 3) (t : BitVec 3) (s : State) : Host.Outcome State Fault Refusal :=
  vecWord (.vcvtn d a n p sn t) s

/-- Converts between i4 elements and lanes of type t (R235). -/
def execVcvt4 (d : BitVec 6) (a : BitVec 6) (r : BitVec 1) (p : BitVec 3) (t : BitVec 3) (s : State) : Host.Outcome State Fault Refusal :=
  vecWord (.vcvt4 d a r p t) s

/-- Packs i8 lanes into q4x quads by a shift-in write (R236). -/
def execVpack4 (d : BitVec 6) (a : BitVec 6) (b : BitVec 6) (s : State) : Host.Outcome State Fault Refusal :=
  vecWord (.vpack4 d a b) s

/-- Decodes q4x quads into lanes of type t (R235). -/
def execVunpk4 (d : BitVec 6) (a : BitVec 6) (p : BitVec 3) (t : BitVec 3) (s : State) : Host.Outcome State Fault Refusal :=
  vecWord (.vunpk4 d a p t) s

/-- Quantises float lanes in blocks of 32 into codes and scale bytes (R237). -/
def execVquant (g : BitVec 1) (d : BitVec 5) (a : BitVec 6) (gx : BitVec 1) (b : BitVec 5) (t : BitVec 3) (s : State) : Host.Outcome State Fault Refusal :=
  vecWord (.vquant g d a gx b t) s

/-- Keeps the two largest lanes of each group of four, with metadata (R238). -/
def execVprune24 (d : BitVec 5) (a : BitVec 6) (b : BitVec 5) (t : BitVec 3) (s : State) : Host.Outcome State Fault Refusal :=
  vecWord (.vprune24 d a b t) s

/-- Keeps the four largest lanes of each group of eight, with metadata (R238). -/
def execVprune48 (d : BitVec 5) (a : BitVec 6) (b : BitVec 5) (t : BitVec 3) (s : State) : Host.Outcome State Fault Refusal :=
  vecWord (.vprune48 d a b t) s

/-- Sums all lanes and old lane 0 into lane 0 (R239). -/
def execVradd (d : BitVec 6) (a : BitVec 6) (t : BitVec 3) (s : State) : Host.Outcome State Fault Refusal :=
  vecWord (.vradd d a t) s

/-- Writes the greatest of all lanes and old lane 0 into lane 0 (R239). -/
def execVrmax (d : BitVec 6) (a : BitVec 6) (t : BitVec 3) (s : State) : Host.Outcome State Fault Refusal :=
  vecWord (.vrmax d a t) s

/-- Writes the least of all lanes and old lane 0 into lane 0 (R239). -/
def execVrmin (d : BitVec 6) (a : BitVec 6) (t : BitVec 3) (s : State) : Host.Outcome State Fault Refusal :=
  vecWord (.vrmin d a t) s

/-- Permutes lanes of va by indices in vb (R240). -/
def execVperm (d : BitVec 6) (a : BitVec 6) (b : BitVec 6) (t : BitVec 3) (s : State) : Host.Outcome State Fault Refusal :=
  vecWord (.vperm d a b t) s

/-- Rotates lanes of va by a count in vb (R240). -/
def execVrot (d : BitVec 6) (a : BitVec 6) (b : BitVec 6) (t : BitVec 3) (s : State) : Host.Outcome State Fault Refusal :=
  vecWord (.vrot d a b t) s

/-- Writes the transpose of a row-major source matrix (R241). -/
def execVtld (d : BitVec 6) (a : BitVec 6) (b : BitVec 6) (t : BitVec 3) (s : State) : Host.Outcome State Fault Refusal :=
  vecWord (.vtld d a b t) s

/-- Exchanges 512 bytes with the mirrored partner core (R242). -/
def execVswap (d : BitVec 6) (a : BitVec 6) (s : State) : Host.Outcome State Fault Refusal :=
  vecWord (.vswap d a) s

/-- `vld` and `vst` at issue: EA := ga[47:0], a multiple of 64 (R243), tested before the x-operand of the word (DESIGN CHOICE, log entry 92). A
`vst` that leaves a lock-step pair takes a place in the release buffer (R210, R212). -/
def vecMemWord (i : Instr) (dir : BitVec 2) (s : State) : Host.Outcome State Fault Refusal :=
  wordG i s (vecGate s i) fun x vs s1 =>
    let a := addrOf (arg vs 0)
    let xs := xNums i
    if a % 64 ≠ 0 then raiseAt s x 1 2 0 a 63
    else match xs.find? fun n => xAddr x.t n % 64 != 0 with
    | some n => raiseAt s x 1 2 0 (xAddr x.t n) 63
    | none =>
      if debugOn s x.g && !inWindow x.t a 512 dir then raiseAt s x 9 2 512 a 63
      else match (if debugOn s x.g then xAudit i x.t else none) with
      | some u => raiseAt s x 9 2 (w64 u.2.1) (xAddr x.t u.1) 63
      | none =>
        if dir = 2 && leavesPair x a then
          let n := s1.nextId
          let hold (c : Core) : Core := { c with lock := c.lock.map fun l => { l with release := l.release ++ [n] } }
          if lockDue s1 x.g then waitFor s x .halt else enqueueVec (updCore s1 x.g hold) x i a
        else enqueueVec s1 x i a

/-- 512 bytes loaded from any device address (R243). -/
def execVld (d : BitVec 6) (g : BitVec 7) (s : State) : Host.Outcome State Fault Refusal :=
  vecMemWord (.vld d g) 1 s

/-- 512 bytes stored at any device address (R243). -/
def execVst (d : BitVec 6) (g : BitVec 7) (s : State) : Host.Outcome State Fault Refusal :=
  vecMemWord (.vst d g) 2 s

/-! ### Moves (R244, R245) and vx.sync (R223) -/

/-- What a word waits for that reaches a vector register from outside the engine (R224). -/
def vecDoneGate (s : State) (x : Iss) : Option Wait := if vecDone s x.g x.sid then none else some .engine

/-- A vector register of a strand. -/
def Strand.vreg (t : Strand) (n : Nat) : Vec := kget t.vregs n 0

/-- A lane as `vmovg` writes it: integers sign-extended, other bits zero-extended (R244). -/
def laneWord (t : BitVec 3) (x : Nat) : Word := if isInt t then BitVec.ofInt 64 (sval (laneBits t) x) else w64 x

/-- gd := lane gi mod L of va (R244). -/
def execVmovg (d : BitVec 7) (a : BitVec 6) (i : BitVec 5) (t : BitVec 3) (s : State) : Host.Outcome State Fault Refusal :=
  wordG (.vmovg d a i t) s (vecDoneGate s) fun x vs s =>
    finish s x d (laneWord t (lane (laneBits t) (x.t.vreg a.toNat).toNat ((arg vs 0).toNat % laneCount t)), 0)

/-- Lane gi mod L of vd := the low bits of ga (R244). -/
def execVmovv (d : BitVec 6) (g : BitVec 7) (i : BitVec 5) (t : BitVec 3) (s : State) : Host.Outcome State Fault Refusal :=
  wordG (.vmovv d g i t) s (vecDoneGate s) fun x vs s =>
    let w := laneBits t
    let n := (arg vs 1).toNat % laneCount t
    let put (st : Strand) : Strand :=
      { st with vregs := kset st.vregs d.toNat (BitVec.ofNat 4096 (putLanes w (st.vreg d.toNat).toNat n [(arg vs 0).toNat])) }
    retire (updStrand s x.g x.sid put) x

/-- xd := ga, all 64 bits (R245). -/
def execVmovx (x : BitVec 3) (g : BitVec 7) (s : State) : Host.Outcome State Fault Refusal :=
  word (.vmovx x g) s fun y vs s =>
    retire (updStrand s y.g y.sid fun t => { t with xptr := kset t.xptr x.toNat (arg vs 0) }) y

/-- gd := xa as it stands (R245). -/
def execVmovfx (d : BitVec 7) (x : BitVec 3) (s : State) : Host.Outcome State Fault Refusal :=
  scalar (.vmovfx d x) d s fun y _ => (kget y.t.xptr x.toNat 0, 0)

/-- Waits for the strand's vector instructions (R223). -/
def execVxSync (s : State) : Host.Outcome State Fault Refusal :=
  wordG .vxSync s (vecDoneGate s) fun x _ s => retire s x

/-! ### What an instruction computes -/

/-- What an instruction writes to each of its destinations: the specifier, whether it is the second register of a pair, the
512 bytes; and its flags. The sources come in the order in which usesOf lists them. -/
structure VOut where
  writes : List (BitVec 6 × Bool × Nat)
  flags : Flags

/-- One destination. -/
def vOne (d : BitVec 6) (r : VRes) : VOut := { writes := [(d, false, r.1)], flags := r.2 }

/-- A pair (R216). -/
def vTwo (d : BitVec 6) (lo hi : Nat) : VOut := { writes := [(d, false, lo), (d, true, hi)], flags := 0 }

/-- Two registers that shift-in writes fill (R237, R238). -/
def vBoth (d b : BitVec 5) (x y : Nat) (f : Flags) : VOut :=
  { writes := [(d.zeroExtend 6, false, x), (b.zeroExtend 6, false, y)], flags := f }

/-- The results of a queued instruction from its source values; `m` is the captured `rnd` (R226 to R241). `vld` and `vswap`
get their bytes at completion. -/
def vecOut (i : Instr) (m : BitVec 2) (v : List Nat) : VOut :=
  let A := v.getD 0 0
  let B := v.getD 1 0
  let C := v.getD 2 0
  match i with
  | .vadd d _ _ t => vOne d (sOp t (· + ·) A B)
  | .vsub d _ _ t => vOne d (sOp t (· - ·) A B)
  | .vmul d _ _ t => vOne d (sOp t (· * ·) A B)
  | .vmulh d _ _ t => vOne d (map2 t (fun a b => plain (mulhLane (laneBits t) a b)) A B)
  | .vmin d _ _ t => vOne d (sOp t min A B)
  | .vmax d _ _ t => vOne d (sOp t max A B)
  | .vminn d _ _ t => vOne d (map2 t (fun a b => plain (min a b)) A B)
  | .vmaxn d _ _ t => vOne d (map2 t (fun a b => plain (max a b)) A B)
  | .vadds d _ _ t => vOne d (sSat t (· + ·) A B)
  | .vsubs d _ _ t => vOne d (sSat t (· - ·) A B)
  | .vaddsn d _ _ t => vOne d (nSat t (· + ·) A B)
  | .vsubsn d _ _ t => vOne d (nSat t (· - ·) A B)
  | .vabs d _ t => vOne d (uSat t (fun a => if a < 0 then -a else a) A)
  | .vneg d _ t => vOne d (uSat t (fun a => -a) A)
  | .vshl d _ _ t => vOne d (map2 t (fun a b => plain (shlLane (laneBits t) a b)) A B)
  | .vshr d _ _ t => vOne d (map2 t (fun a b => plain (shrLane (laneBits t) a b)) A B)
  | .vsra d _ _ t => vOne d (map2 t (fun a b => plain (sraLane (laneBits t) a b)) A B)
  | .vdot d _ _ t => vOne d (vdotRes t C A B)
  | .vwadd d _ _ t => vTwo d (wideRes t 0 (· + ·) A B) (wideRes t 1 (· + ·) A B)
  | .vwmul d _ _ t => vTwo d (wideRes t 0 (· * ·) A B) (wideRes t 1 (· * ·) A B)
  | .vfadd d _ _ t => vOne d (fOp t (fun F a b => F.add m a b) A B)
  | .vfsub d _ _ t => vOne d (fOp t (fun F a b => F.add m a b.neg) A B)
  | .vfmul d _ _ t => vOne d (fOp t (fun F a b => F.mul m a b) A B)
  | .vfdiv d _ _ t => vOne d (fOp t (fun F a b => F.div m a b) A B)
  | .vfmac d _ _ t => vOne d (vfmacRes t m C A B)
  | .vfmin d _ _ t => vOne d (map2 t ((fmtOf t).minmax false) A B)
  | .vfmax d _ _ t => vOne d (map2 t ((fmtOf t).minmax true) A B)
  | .vfabs d _ t => vOne d (map1 t (fun a => plain (a % (fmtOf t).signBit)) A)
  | .vfneg d _ t => vOne d (map1 t (fun a => plain (a ^^^ (fmtOf t).signBit)) A)
  | .vfsqrt d _ t => vOne d (fOp1 t (fun F a => F.sqrt m a) A)
  | .vfscl d _ _ t => vOne d (vfsclRes t m C A B)
  | .vceq d _ _ t => vOne d (cmpRes t (fun a b => a == b) FFmt.cmpEq A B)
  | .vclt d _ _ t => vOne d (cmpRes t (fun a b => decide (a < b)) (fun F => F.cmpLt false) A B)
  | .vcle d _ _ t => vOne d (cmpRes t (fun a b => decide (a ≤ b)) (fun F => F.cmpLt true) A B)
  | .vcltn d _ _ t => vOne d (map2 t (fun a b => maskLane (laneBits t) (decide (a < b), 0)) A B)
  | .vand d _ _ => vOne d (plain (A &&& B))
  | .vor d _ _ => vOne d (plain (A ||| B))
  | .vxor d _ _ => vOne d (plain (A ^^^ B))
  | .vandn d _ _ => vOne d (plain (A &&& (B ^^^ (2 ^ 4096 - 1))))
  | .vsel d _ _ => vOne d (plain ((A &&& C) ||| (B &&& (C ^^^ (2 ^ 4096 - 1)))))
  | .vcvt d _ n p s t => vOne d (cvtRes m s (n == 1) t false p.toNat B A)
  | .vcvtn d _ n p s t => vOne d (cvtRes m s (n == 1) t true p.toNat B A)
  | .vcvt4 d _ r p t => vOne d (if r = 1 then cvt4To m t p.toNat B A else cvt4From m t p.toNat A)
  | .vpack4 d _ _ => vOne d (pack4Res C A B)
  | .vunpk4 d _ p t => vOne d (unpk4Res m t p.toNat A)
  | .vquant g d _ gx b t => let r := quantRes m (2 * g.toNat + gx.toNat) t B C A; vBoth d b r.1 r.2.1 r.2.2
  | .vprune24 d _ b t => let r := pruneRes 4 t B C A; vBoth d b r.1 r.2 0
  | .vprune48 d _ b t => let r := pruneRes 8 t B C A; vBoth d b r.1 r.2 0
  | .vradd d _ t => vOne d (vraddRes t m B A)
  | .vrmax d _ t => vOne d (vrextRes true t B A)
  | .vrmin d _ t => vOne d (vrextRes false t B A)
  | .vperm d _ _ t => vOne d (plain (vpermRes t A B))
  | .vrot d _ _ t => vOne d (plain (vrotRes t A B))
  | .vtld d _ _ t => vOne d (plain (vtldRes t A B))
  | .vswap d _ => vOne d (plain A)
  | .vst d _ => vOne d (plain A)
  | _ => { writes := [], flags := 0 }

/-! ### Start and completion (R218 to R222) -/

/-- The values of the sources in their order, with what is left of the channels. -/
def vecSources (s : State) (g : Nat) (t : Strand) (xs : List (Nat × Addr)) : List (BitVec 6) → KMap (List Vec) → List Nat × KMap (List Vec)
  | [], ch => ([], ch)
  | v :: r, ch =>
    let n := v.toNat
    if n < 32 then
      let q := vecSources s g t xs r ch
      ((t.vreg n).toNat :: q.1, q.2)
    else if n < 40 then
      let q := vecSources s g t xs r ch
      (readX s g ((kget? (xs.map fun p => (p.1, p.2.toNat)) (n - 32)).getD 0) :: q.1, q.2)
    else if n < 44 then
      let l := kget ch (n - 40) []
      let q := vecSources s g t xs r (kset ch (n - 40) l.tail)
      ((l.headD 0).toNat :: q.1, q.2)
    else
      let q := vecSources s g t xs r ch
      (0 :: q.1, q.2)

/-- The vectors that fields naming channels take, by channel, each from its channel's oldest on (R218). -/
def channelVecs (ch : KMap (List Vec)) : List Nat → List (Nat × Vec)
  | [] => []
  | n :: r => (n, (kget ch n []).headD 0) :: channelVecs (kset ch n (kget ch n []).tail) r

/-- The write of one destination. -/
def vecWrite (e : VEntry) (p : BitVec 6 × Bool × Nat) : VWrite :=
  let n := p.1.toNat
  let v := BitVec.ofNat 4096 p.2.2
  match e.instr with
  | .vst _ _ => .mem e.ea v
  | _ =>
    if n < 32 then .reg (n + if p.2.1 then 1 else 0) v
    else .mem (addr48 (((kget? (e.xs.map fun q => (q.1, q.2.toNat)) (n - 32)).getD 0 : Nat) + (if p.2.1 then 512 else 0))) v

/-- The mirrored partner of a core (R242, R315). -/
def partnerOf (g : Nat) : Nat := clusterOf g * 16 + (4 * (kOf g % 4) + kOf g / 4)

/-- The engine fault of a vector instruction (R313, R265): it has no command record, so addr and aux are 0 (DESIGN CHOICE, log entry 96). -/
def vecFault (s : State) (g : Nat) (e : VEntry) (code : Nat) : State :=
  raiseEngine s g { faultInfo s g e.sid e.pc 3 code 0 0 63 with word := 0 }

/-- What is wrong with the channels that an instruction names: 9 not bound, 10 exhausted (R313). -/
def channelFault (s : State) (g : Nat) (i : Instr) : Option Nat :=
  (chNums i).findSome? fun c =>
    match channelStream s g c with
    | none => some 9
    | some p => if exhausted p.2 (kOf g) ((chNums i).count c) then some 10 else none

/-- The head entry leaves without effect, its access with it. -/
def dropVec (s : State) (g : Nat) (e : VEntry) : State :=
  let s := updCore s g fun c => { c with vq := c.vq.tail }
  match e.acc with
  | none => s
  | some n => dropAcc s n

/-- The address that an entry captured from a pointer register (R217). -/
def entryAddr (e : VEntry) (n : Nat) : Nat := (kget? (e.xs.map fun p => (p.1, p.2.toNat)) n).getD 0

/-- The byte ranges of an entry that a watermark guard holds back (R173). -/
def entryRanges (e : VEntry) : List (Nat × Nat) :=
  (xUses e.instr).map (fun u => (entryAddr e u.1, u.2.1)) ++ match e.instr with
    | .vld _ _ => [(e.ea, 512)]
    | _ => []

/-- Whether the memory operands of an entry may be used now: earlier accesses to the same bytes are performed, and no
watermark guard holds them (R182, R173, R384). -/
def vecMemReady (s : State) (g : Nat) (e : VEntry) : Bool :=
  let may : Bool := match e.acc.bind (accAt? s) with
    | none => true
    | some x => s.accs.all fun b => !standsBefore b x
  may && (entryRanges e).all fun r => !guarded s g r.1 r.2

/-- Whether an instruction is a `vswap` on a core off the diagonal (R242). -/
def swapsOut (g : Nat) (i : Instr) : Bool :=
  match i with
  | .vswap _ _ => partnerOf g != g
  | _ => false

/-- The first poisoned x-source of an entry (R409). -/
def poisonedSource (s : State) (g : Nat) (e : VEntry) : Option Nat :=
  (xUses e.instr).findSome? fun u => if u.2.2 = 1 then poisonX s g (entryAddr e u.1) else none

/-- The access of a `vld` or `vst` that starts enters its path now, behind every access sent before; one that the release buffer of a lock-step
pair holds enters it as the buffer lets it go (R210, R305, R384). -/
def sendVec (s : State) (e : VEntry) : State :=
  match e.acc.bind (accAt? s) with
  | none => s
  | some a => if !reachesOut e.instr || heldBack s a then s else sendLate s a

/-- The entry at the head starts: its entry frees, its sources are read in full, its channels' vectors are consumed, a
`vswap` sends its vector (R217 to R220, R242). -/
def startVec (s : State) (g : Nat) (t : Strand) (e : VEntry) : State :=
  let s := sendVec s e
  let c := coreAt s g
  let q := vecSources s g t e.xs (usesOf e.instr).vs c.chans
  let o := vecOut e.instr e.rnd q.1
  let hole := (xUses e.instr).any fun u => holeX s g (entryAddr e u.1) || holeX s g (entryAddr e u.1 + u.2.1 - 512)
  let out := swapsOut g e.instr
  let run : VRun := { entry := e, writes := o.writes.map (vecWrite e), flags := o.flags, hole := hole, partner := out }
  let go (c : Core) : Core :=
    { c with vq := c.vq.tail, vrun := some run, chans := q.2,
             vswapStarted := c.vswapStarted + (match e.instr with
               | .vswap _ _ => 1
               | _ => 0),
             vswapSent := if out then c.vswapSent ++ [(c.vswapStarted + 1, BitVec.ofNat 4096 (q.1.getD 0 0))] else c.vswapSent,
             lock := c.lock.map fun l => { l with chUsed := l.chUsed ++ channelVecs c.chans (chNums e.instr) } }
  let s := updCore s g go
  (chNums e.instr).foldl (fun s ch => match channelStream s g ch with
    | some p => takeBlocks s p.1 (kOf g) 1
    | none => s) (if out then post s g (partnerOf g) .swap else s)

/-- VECTOR_START: the engine is free and every channel that the head names holds its vectors (R218, R219). -/
def stepVectorStart (s : State) (g : Nat) : Option State :=
  let c := coreAt s g
  if quiescing s g then none else
  match c.vrun, c.vq with
  | none, e :: _ =>
    match channelFault s g e.instr with
    | some code => some (vecFault (dropVec s g e) g e code)
    | none =>
      if (chNums e.instr).any fun ch => decide ((kget c.chans ch []).length < (chNums e.instr).count ch) then none
      else if !vecMemReady s g e then none
      else match poisonedSource s g e with
      | some w => some (raiseFault (dropVec s g e) g e.sid { faultInfo s g e.sid e.pc 5 3 0 w 63 with word := e.word })
      | none =>
        match kget? c.strands e.sid with
        | none => some (dropVec s g e)
        | some t => some (startVec s g t e)
  | _, _ => none

/-- VECTOR_START (R219). -/
def execVectorStart (g : Nat) (s : State) : Host.Outcome State Fault Refusal := device "VECTOR_START" (stepVectorStart s g)

/-- One write of a completing instruction. -/
def vecApply (g sid : Nat) (st : Bool) (s : State) (w : VWrite) : State :=
  match w with
  | .reg n v => updStrand s g sid fun t => { t with vregs := kset t.vregs n v }
  | .mem a v => if st then writeVal s a 512 v.toNat else writeX s g a v.toNat

/-- The end of the started instruction: the engine is free, its flags merged, its access performed (R221, R222). -/
def endVec (s : State) (g : Nat) (r : VRun) (f : Flags) : State :=
  let s := updCore s g fun c => { c with vrun := none }
  let s := match r.entry.acc with
    | none => s
    | some n => dropAcc s n
  mergeFlags s g r.entry.sid (f ||| flagIf r.hole fHole)

/-- A `vst` that has read its source: the engine is free and its write is in flight with the bytes (R232), or waits in the release buffer of a
lock-step pair (R210). -/
def holdStore (s : State) (g n : Nat) (v : Vec) : State :=
  updAcc (updCore s g fun c => { c with vrun := none }) n fun a => { a with kind := .vst, vdata := v }

/-- The 512 bytes of a `vld` and the first poisoned word among them: as they were read at another core's bank, or as they stand. -/
def vldBytes (s : State) (e : VEntry) : Vec × Option Nat :=
  match (e.acc.bind (accAt? s)).filter fun a => a.performed with
  | some a => (a.vdata, a.bad)
  | none => (readVec s e.ea, poisonIn? s e.ea 512)

/-- Completion of the started instruction (R220, R232, R242, R243). -/
def finishVec (s : State) (g : Nat) (r : VRun) : State :=
  let e := r.entry
  match e.instr with
  | .vld _ _ =>
    let b := vldBytes s e
    match b.2 with
    | some w => raiseFault (endVec s g r 0) g e.sid { faultInfo s g e.sid e.pc 5 3 0 w 63 with word := e.word }
    | none =>
      let ws := (usesOf e.instr).vd.map fun d => vecWrite e (d, false, b.1.toNat)
      endVec (ws.foldl (vecApply g e.sid false) s) g r (flagIf (anyHole s e.ea 512) fHole)
  | .vst _ _ =>
    match e.acc, r.writes with
    | some n, [.mem _ v] => holdStore (mergeFlags s g e.sid (flagIf (anyHole s e.ea 512 || r.hole) fHole)) g n v
    | _, _ => endVec (r.writes.foldl (vecApply g e.sid true) s) g r (flagIf (anyHole s e.ea 512) fHole)
  | _ => endVec (r.writes.foldl (vecApply g e.sid false) s) g r r.flags

/-- Whether a started `vld` may complete: its bytes have come from another core of the cluster in the order of messages, or its access may be
served now (R305, R384). -/
def vecTurn (s : State) (r : VRun) : Bool :=
  match r.entry.instr, r.entry.acc.bind (accAt? s) with
  | .vld _ _, some a =>
    if a.performed then answerInTurn s a.id
    else !a.byMessage && a.inTurn s && s.accs.all fun b => !standsBefore b a
  | _, _ => true

/-- VECTOR_COMPLETE: a `vswap` off the diagonal writes the partner's vector, which a lock-step pair keeps for a roll-back (R213, R242,
R315). -/
def stepVectorComplete (s : State) (g : Nat) : Option State :=
  let c := coreAt s g
  match c.vrun with
  | none => none
  | some r =>
    if r.partner then
      match c.vswapIn.find? fun p => p.1 == c.vswapStarted with
      | none => none
      | some p =>
        let ws := (usesOf r.entry.instr).vd.map fun d => vecWrite r.entry (d, false, p.2.toNat)
        let take (c : Core) : Core :=
          { c with vswapIn := c.vswapIn.filter (fun q => q.1 != p.1), lock := c.lock.map fun l => { l with swaps := l.swaps ++ [p] } }
        some (finishVec (updCore s g take) g { r with writes := ws })
    else if vecTurn s r then some (finishVec s g r)
    else none

/-- VECTOR_COMPLETE (R220, R222). -/
def execVectorComplete (g : Nat) (s : State) : Host.Outcome State Fault Refusal := device "VECTOR_COMPLETE" (stepVectorComplete s g)

/-- CHANNEL_VECTOR_ARRIVAL: the oldest vector on its way to a channel lands, if one of its two buffers is free (R218). -/
def stepChannelArrival (s : State) (g ch : Nat) : Option State :=
  let c := coreAt s g
  match c.chanFlight.find? fun p => p.1 == ch with
  | none => none
  | some p =>
    if 2 ≤ (kget c.chans ch []).length then none
    else
      let land (c : Core) : Core := { c with chans := kset c.chans ch (kget c.chans ch [] ++ [p.2]), chanFlight := c.chanFlight.eraseP fun q => q.1 == ch }
      some (updCore s g land)

/-- CHANNEL_VECTOR_ARRIVAL (R218). -/
def execChannelVectorArrival (g ch : Nat) (s : State) : Host.Outcome State Fault Refusal :=
  device "CHANNEL_VECTOR_ARRIVAL" (stepChannelArrival s g ch)

/-- Whether a core received its partner's n-th vector before: it waits there, or the core's own n-th `vswap` has completed (R242). -/
def swapKnown (c : Core) (n : Nat) : Bool :=
  c.vswapIn.any (fun p => p.1 == n) || decide (n + (if (c.vrun.map fun r => r.partner).getD false then 1 else 0) ≤ c.vswapStarted)

/-- VSWAP_VECTOR_ARRIVAL: the oldest vector that the partner sent is at the core, where it waits for the `vswap` of its number; a copy of
one received before is discarded (R242, R315). -/
def stepSwapArrival (s : State) (g : Nat) : Option State :=
  match (coreAt s (partnerOf g)).vswapSent with
  | [] => none
  | p :: rest =>
    if partnerOf g = g || !firstOnWay s (partnerOf g) g .swap then none
    else some (updCore (updCore (delivered s (partnerOf g) g .swap) (partnerOf g) fun c => { c with vswapSent := rest }) g fun c =>
      if swapKnown c p.1 then c else { c with vswapIn := c.vswapIn ++ [p] })

/-- VSWAP_VECTOR_ARRIVAL (R315). -/
def execVswapVectorArrival (g : Nat) (s : State) : Host.Outcome State Fault Refusal :=
  device "VSWAP_VECTOR_ARRIVAL" (stepSwapArrival s g)

end Sys2Proof.Machine
end

