-- ==== Sys2Proof/Machine/Matrix.lean ====
section
/-! DEFINITION. The matrix unit: `mx.issue` and `mx.wait` (R249 to R252), the checks and the gate at the head of the queue
(R262, R265), the start of each command (R254 to R257, R267 to R276), remote chunks (R512), gather chunks (R274), and
completion (R248, R258, R261, R263). -/

namespace Sys2Proof.Machine

/-! ### Words of strands -/

/-- What `mx.issue` waits for: earlier accesses, for metadata the strand's vector work, a queue entry (R250). -/
def mxGate (s : State) (x : Iss) (m : Bool) : Option Wait :=
  if !(accsOf s x.g x.sid).isEmpty then some .access
  else if m && !vecDone s x.g x.sid then some .engine
  else if 2 ≤ x.c.mq.length then some .queue
  else none

/-- `mx.issue`: a misaligned address faults; otherwise the record is read in the issuing core's own slot and queued with the
copy of a vector register, if any (R250). -/
def mxWord (i : Instr) (v : Option (BitVec 5)) (s : State) : Host.Outcome State Fault Refusal :=
  word i s fun x vs s1 =>
    let a := addrOf (arg vs 0)
    if a % 64 ≠ 0 then raiseAt s x 1 2 0 a 63
    else if debugOn s x.g && !inWindow x.t a 64 1 then raiseAt s x 9 2 64 a 63
    else match mxGate s x v.isSome with
    | some w => waitFor s x w
    | none =>
      let own := ownBytes x.g a
      if own && poisonedIn s a 64 then raiseAt s x 5 3 0 (poisonedAt s a 64) 63
      else
        let m : MCmd :=
          { record := if own then BitVec.ofNat 512 (readVal s a 64) else 0,
            meta? := v.map fun v => x.t.vreg v.toNat, sid := x.sid, addr := a, pc := x.t.pc, headOk := false, gateOk := false }
        let s2 := updCore s1 x.g fun c => { c with mq := c.mq ++ [m] }
        retire (mergeFlags s2 x.g x.sid (flagIf (!own || anyHole s a 64) fHole)) x

/-- Reads a command record and queues it (R250). -/
def execMxIssue (a : BitVec 7) (s : State) : Host.Outcome State Fault Refusal := mxWord (.mxIssue a) none s

/-- Reads a command record and queues it with a copy of vb (R250). -/
def execMxIssueMeta (a : BitVec 7) (v : BitVec 5) (s : State) : Host.Outcome State Fault Refusal := mxWord (.mxIssueMeta a v) (some v) s

/-- Whether commands that a strand queued are not complete (R251). -/
def mxBusy (c : Core) (sid : Nat) : Bool :=
  c.mq.any (fun m => m.sid == sid) || (c.mrun.map fun r => r.cmd.sid == sid).getD false

/-- Waits for the strand's commands and merges their flags (R251). -/
def execMxWait (s : State) : Host.Outcome State Fault Refusal :=
  wordG .mxWait s (fun x => if mxBusy x.c x.sid then some .engine else none) fun x _ s =>
    retire (updStrand s x.g x.sid fun t => { t with flags := t.flags ||| t.mxFlags, mxFlags := 0 }) x

/-! ### Faults and local ranges (R265) -/

/-- The window that an engine of a core reads: the issuing strand's, else the escapement processor's, which R25 loads alike. -/
def coreWin (s : State) (g sid n : Nat) : Window :=
  match strandAt? s g sid, strandAt? s g 64 with
  | some t, _ => t.win n
  | none, some t => t.win n
  | none, none => default

/-- A fault of a matrix command: addr its record, aux bits 63:0 of it, word 0 (R265). -/
def mxFault (s : State) (g : Nat) (m : MCmd) (cls code win : Nat) : State :=
  raiseEngine s g { faultInfo s g m.sid m.pc cls code (w64 (bits m.record 0 64)) m.addr win with word := 0 }

/-- Machine fault 0x0003 of a matrix command that met a poisoned word (R404, R409). -/
def mxPoison (s : State) (g : Nat) (m : MCmd) (a win : Nat) : State :=
  raiseEngine s g { faultInfo s g m.sid m.pc 5 3 0 a win with word := 0 }

/-- Whether an engine of a core may go on: its task or stage has not come to step 3 of R122, and no engine or storage of the core has
faulted (R122, R225, R331). -/
def engineOn (s : State) (g : Nat) : Bool :=
  match taskOn s g with
  | none => true
  | some t => !t.stopped && t.confined != some g && t.faults.all fun f => f.gcn != g || !(f.eng || f.cls == 5)

/-- The first slot offset that no local byte of a command may reach (R257). -/
def localEnd : Nat := 0x140000

/-! ### The head of the queue -/

/-- The code of a gate or done field that fails at the head (R265). With both codes due, 1 stands first (log entry 75). -/
def headFault (r : MRec) : Option Nat :=
  if r.gate % 8 ≠ 0 ∨ r.done % 8 ≠ 0 then some 1
  else if localEnd ≤ r.gate ∨ localEnd ≤ r.done then some 4
  else none

/-- The command at the head replaced. -/
def setHead (s : State) (g : Nat) (m : MCmd) : State := updCore s g fun c => { c with mq := m :: c.mq.tail }

/-- MATRIX_HEAD_CHECK: gt, gate, dn and done of the head are checked (R265). -/
def stepHeadCheck (s : State) (g : Nat) : Option State :=
  match (coreAt s g).mq with
  | [] => none
  | m :: _ =>
    if m.headOk || !engineOn s g || quiescing s g then none
    else match headFault m.record with
    | some code => some (mxFault (updCore s g fun c => { c with mq := c.mq.tail }) g m 3 code 63)
    | none => some (setHead s g { m with headOk := true })

/-- MATRIX_HEAD_CHECK (R265). -/
def execMatrixHeadCheck (g : Nat) (s : State) : Host.Outcome State Fault Refusal := device "MATRIX_HEAD_CHECK" (stepHeadCheck s g)

/-- MATRIX_GATE_TEST: the gate word of the checked head is full; it is left full (R262). The test waits for the unit to be free (log entry
75). -/
def stepGateTest (s : State) (g : Nat) : Option State :=
  match (coreAt s g).mq, (coreAt s g).mrun with
  | m :: _, none =>
    let a := slotBase g + MRec.gate m.record
    if m.headOk && MRec.gt m.record && !m.gateOk && engineOn s g && !quiescing s g && (holeAt s a || !isEmpty s a) then
      some (setHead s g { m with gateOk := true })
    else none
  | _, _ => none

/-- MATRIX_GATE_TEST (R262). -/
def execMatrixGateTest (g : Nat) (s : State) : Host.Outcome State Fault Refusal := device "MATRIX_GATE_TEST" (stepGateTest s g)

/-! ### The checks at the start (R254 to R257, R265, R267 to R277) -/

/-- Fields that must be zero: low bit and length. -/
def zeros (r : MRec) (l : List (Nat × Nat)) : Bool := l.all fun p => bits r p.1 p.2 == 0

/-- The reserved fields of a record (R253). -/
def mxReserved : List (Nat × Nat) :=
  [(469, 11), (405, 43), (376, 8), (341, 11), (312, 8), (277, 11), (240, 16), (168, 24), (104, 24), (28, 4), (21, 3)]

/-- The fields of a B operand. -/
def bFields : List (Nat × Nat) := [(8, 4), (14, 2), (128, 36), (164, 4), (216, 24), (18, 1)]
/-- The fields of an A operand without its format. -/
def aFields : List (Nat × Nat) := [(12, 2), (64, 36), (100, 4), (192, 24)]
/-- The scale fields. -/
def sFields : List (Nat × Nat) := [(256, 21), (288, 24), (320, 21), (352, 24)]

/-- The fields that an op does not use (R255, R268). -/
def mxUnused (op : Nat) : List (Nat × Nat) :=
  match op with
  | 1 => sFields
  | 2 => []
  | 3 => [(4, 4), (16, 2), (48, 16)] ++ aFields ++ bFields ++ sFields
  | 4 => [(16, 2), (48, 16)] ++ bFields ++ sFields
  | 5 => [(16, 2), (48, 16)] ++ bFields ++ sFields
  | 6 => [(4, 4), (16, 2), (56, 8)] ++ aFields ++ bFields ++ sFields
  | 8 => [(17, 1), (320, 21), (352, 24)]
  | 9 => [(17, 1), (320, 21), (352, 24)]
  | 10 => [(4, 8), (14, 2), (16, 3), (24, 4), (40, 8), (164, 4)] ++ sFields
  | _ => [(256, 21), (288, 24), (320, 21)]

/-- The group size of a sparse op. -/
def sparseG (op : Nat) : Nat := if op = 8 then 4 else 8

/-- Whether an op forms products. -/
def isProduct (op : Nat) : Bool := [1, 2, 8, 9, 11].contains op

/-- The contiguous length of A: K, compressed K, or M (R257, R269). -/
def aContig (r : MRec) : Nat := if r.ta then r.M else if r.op = 8 ∨ r.op = 9 then r.K / 2 else r.K
/-- The contiguous length of B. -/
def bContig (r : MRec) : Nat := if r.tb then r.K else r.N
/-- The rows of A. -/
def aRows (r : MRec) : Nat := if r.ta then r.K else r.M
/-- The rows of B. -/
def bRows (r : MRec) : Nat := if r.tb then r.N else r.K

/-- Whether a command is bad whatever memory holds: code 0x0001 (R265). -/
def badCmd (r : MRec) : Bool :=
  let op := r.op
  let block := decide (r.M ≤ 128) && decide (r.N ≤ 128) && decide (lastTile r.t0 r.M r.N ≤ 15)
  let stream (src off : Nat) : Bool := src != 2 || off / 64 == 0
  !(zeros r mxReserved && [1, 2, 3, 4, 5, 6, 8, 9, 10, 11].contains op && zeros r (mxUnused op) &&
    (op == 10 || block) &&
    (!isProduct op ||
      (fmtOk r.afmt && fmtOk r.bfmt && r.K != 0 && r.asrc != 3 && r.bsrc != 3 &&
       contigOk r.afmt (aContig r) && contigOk r.bfmt (bContig r) && stream r.asrc r.aoff && stream r.bsrc r.boff)) &&
    (op != 2 || r.K % 32 == 0) &&
    (!(op == 4 || op == 5) || (r.asrc == 0 && (if op = 4 then r.afmt == 7 else [0, 3, 4, 5, 6, 7].contains r.afmt))) &&
    (!(op == 8 || op == 9) || (r.K % sparseG op == 0 &&
       decide (r.sa < 512) && decide ((if op = 8 then 8 else 4) * (r.sa + (r.M - 1) * r.sastride) + r.K ≤ (if op = 8 then 4096 else 2048)))) &&
    (op != 10 || (r.K != 0 && decide (r.asrc ≤ 1))) &&
    (op != 11 || decide (r.bsrc ≤ 1)))

/-- A row of bytes of an operand: source code, window, absolute start, length. -/
structure Rows where
  src : Nat
  win : Nat
  lo : Nat
  hi : Nat

/-- The absolute address of row r of an operand. -/
def rowAt (s : State) (g sid src win off stride r : Nat) : Nat :=
  if src = 1 then addr48 (((coreWin s g sid win).base.toNat + off + r * stride : Nat))
  else slotBase g + off + r * stride

/-- The rows of an operand as byte ranges; none for a stream. -/
def operandRows (s : State) (g sid src win off stride rows len : Nat) : List Rows :=
  if src = 2 then [] else
  (List.range rows).map fun r => let a := rowAt s g sid src win off stride r; { src := src, win := win, lo := a, hi := a + len }

/-- The ragged groups that have rows (R275). -/
def liveGroups (v : Vec) : List Nat :=
  (List.range (meta16 v 0)).filter fun g => decide ((if g = 0 then 0 else meta16 v (2 * g)) < meta16 v (2 + 2 * g))

/-- The offsets of the B operands that a command reads. -/
def bOffsets (m : MCmd) : List Nat :=
  let r : MRec := m.record
  if r.op = 11 then (liveGroups (m.meta?.getD 0)).map fun g => r.boff + g * r.sbstride else [r.boff]

/-- All byte ranges that a product, `tload` or `tstore` touches, scale rows included. Of a sparse product all of B counts, also at a k that no
row of A keeps, for range checks, chunks, holes and poison (DESIGN CHOICE, log entry 76). -/
def touched (s : State) (g : Nat) (m : MCmd) : List Rows :=
  let r : MRec := m.record
  let sid := m.sid
  if isProduct r.op then
    operandRows s g sid r.asrc r.awin r.aoff r.astride (aRows r) (rowBytes r.afmt (aContig r)) ++
    (bOffsets m).flatMap (fun o => operandRows s g sid r.bsrc r.bwin o r.bstride (bRows r) (rowBytes r.bfmt (bContig r))) ++
    (if r.op = 2 then
      operandRows s g sid 0 0 r.sa r.sastride r.M (r.K / 32) ++ operandRows s g sid 0 0 r.sb r.sbstride r.N (r.K / 32)
     else [])
  else if r.op = 4 ∨ r.op = 5 then operandRows s g sid 0 0 r.aoff r.astride r.M (rowBytes r.afmt r.N)
  else []

/-- The window of an operand whose rows break the alignment of its format, 63 without one: code 0x0002 (R257, R265). The
start of a remote row is its whole address, the window's base included (log entry 75). -/
def misalignedRows (s : State) (g : Nat) (m : MCmd) : Option Nat :=
  let r : MRec := m.record
  let off (f src win o stride n : Nat) : Bool :=
    if src = 2 then decide (1 < n) && stride % fmtAlign f != 0
    else (List.range n).any fun i => rowAt s g m.sid src win o stride i % fmtAlign f != 0
  if isProduct r.op then
    if off r.afmt r.asrc r.awin r.aoff r.astride (aRows r) then some (if r.asrc = 1 then r.awin else 63)
    else if (bOffsets m).any fun o => off r.bfmt r.bsrc r.bwin o r.bstride (bRows r) then some (if r.bsrc = 1 then r.bwin else 63)
    else none
  else if (r.op == 4 || r.op == 5) && off r.afmt 0 0 r.aoff r.astride r.M then some 63
  else none

/-- Whether a remote byte lies outside the cluster's other slots: code 0x0003 (R257). -/
def outsideCluster (g : Nat) (x : Rows) : Bool :=
  x.src == 1 && (!isSpad x.lo || clusterOf (slotOf x.lo) != clusterOf g || slotOf x.lo == g ||
    !isSpad (x.hi - 1) || clusterOf (slotOf (x.hi - 1)) != clusterOf g || slotOf (x.hi - 1) == g)

/-- Whether a local byte lies at 0x14_0000 or above: code 0x0004 (R257). -/
def outsideLocal (g : Nat) (x : Rows) : Bool := x.src == 0 && decide (slotBase g + localEnd < x.hi)

/-- Whether a byte lies outside its window: code 0x0005. -/
def outsideWindow (s : State) (g sid : Nat) (x : Rows) : Bool :=
  let w := coreWin s g sid x.win
  x.src == 1 && (decide (x.lo < w.base.toNat) || decide (w.limit.toNat < x.hi))

/-- The source row of gather index r: none for a zero row (R273). -/
def gatherSrc (s : State) (g : Nat) (m : MCmd) (r : Nat) : Option Nat :=
  let q : MRec := m.record
  let x := meta16 (m.meta?.getD 0) (2 * r)
  if x = 0xFFFF then none else some (rowAt s g m.sid q.asrc q.awin q.aoff q.astride x)

/-- Whether a source row of a gather through a window lies where none may: in the issuing core's slot, or outside HBM and the slots of
cores (R273). -/
def gatherBarred (g : Nat) (x : Rows) : Bool :=
  let bad (a : Nat) : Bool := !isHbm a && (!isSpad a || slotOf a == g)
  x.src == 1 && (bad x.lo || bad (x.hi - 1))

/-- The fault of a gather's ranges (R273). The order of the checks, and code 3 for a row within its window and in the issuing core's own
slot, are the model's (log entry 76). -/
def gatherFault (s : State) (g : Nat) (m : MCmd) : Option (Nat × Nat) :=
  let q : MRec := m.record
  let srcs := (List.range q.M).filterMap fun r => (gatherSrc s g m r).map fun a => ({ src := q.asrc, win := q.awin, lo := a, hi := a + q.K } : Rows)
  let dsts := operandRows s g m.sid 0 0 q.boff q.bstride q.M q.K
  let d0 := slotBase g + q.boff
  let dn := (q.M - 1) * q.bstride + q.K
  if q.asrc = 0 ∧ srcs.any (fun x => overlap x.lo q.K d0 dn) = true then some (1, 63)
  else if (srcs ++ dsts).any (outsideLocal g) then some (4, 63)
  else if srcs.any (outsideWindow s g m.sid) then some (5, q.awin)
  else if srcs.any (gatherBarred g) then some (3, q.awin)
  else none

/-- The blocks that a stream operand needs (R312). -/
def blocksNeeded (rows stride len : Nat) : Nat := ((rows - 1) * stride + len + 511) / 512

/-- The stream operands of a command: stream number and blocks. -/
def streamOps (m : MCmd) : List (Nat × Nat) :=
  let r : MRec := m.record
  if isProduct r.op then
    (if r.asrc = 2 then [(r.aoff % 64, blocksNeeded (aRows r) r.astride (rowBytes r.afmt (aContig r)))] else []) ++
    (if r.bsrc = 2 then [(r.boff % 64, blocksNeeded (bRows r) r.bstride (rowBytes r.bfmt (bContig r)))] else [])
  else []

/-- The blocks that a command takes from one stream. -/
def blocksOf (m : MCmd) (st : Nat) : Nat := (((streamOps m).filter fun p => p.1 == st).map fun p => p.2).sum

/-- The window count of core k for a stream. -/
def streamWin (e : BitVec 256) (k : Nat) : Nat := bits e (192 + 4 * k) 4

/-- The fault of a command's streams: 9 not bound, 10 exhausted, 11 window too small in a debug launch (R312, R313). -/
def streamFault (s : State) (g : Nat) (m : MCmd) : Option Nat :=
  (streamOps m).findSome? fun p =>
    match kget? s.streams (streamKey g p.1) with
    | none => some 9
    | some st =>
      if !st.valid || !subscribes st.entry (kOf g) 0 then some 9
      else if exhausted st (kOf g) (blocksOf m p.1) then some 10
      else if debugOn s g && decide (min (streamWin st.entry (kOf g)) (bits st.entry 88 4) < blocksOf m p.1) then some 11
      else none

/-- The first check that fails when a command starts: its code and window (R265, R277, R313, R504). The spec gives no order among the
checks; this one is the model's (log entry 75). -/
def startFault (s : State) (g : Nat) (m : MCmd) : Option (Nat × Nat) :=
  let r : MRec := m.record
  let v := m.meta?.getD 0
  if badCmd r then some (1, 63)
  else if s.service = .reduced ∧ isProduct r.op = true ∧ ((r.afmt ≠ 5 ∧ r.afmt ≠ 6) ∨ (r.bfmt ≠ 5 ∧ r.bfmt ≠ 6)) then some (1, 63)
  else if 8 ≤ r.op ∧ m.meta? = none then some (8, 63)
  else if r.op = 10 then gatherFault s g m
  else if r.op = 11 && !raggedOk v r.M then some (6, 63)
  else if (r.op == 8 || r.op == 9) && !((List.range r.M).all fun i => (List.range (r.K / sparseG r.op)).all fun h => keptOk (sparseG r.op) v (r.sa + i * r.sastride) h) then some (7, 63)
  else
    let t := touched s g m
    match misalignedRows s g m with
    | some w => some (2, w)
    | none => match t.find? (outsideCluster g), t.find? (outsideLocal g), t.find? (outsideWindow s g m.sid), streamFault s g m with
    | some x, _, _, _ => some (3, x.win)
    | none, some _, _, _ => some (4, 63)
    | none, none, some x, _ => some (5, x.win)
    | none, none, none, some c => some (c, 63)
    | none, none, none, none => none

/-! ### Chunks (R26, R512, R274) -/

/-- The 512-byte blocks that ranges touch, ascending. -/
def blocksTouched (l : List (Nat × Nat)) : List Nat :=
  l.foldl (fun acc p => ((List.range ((p.2 - 1) / 512 - p.1 / 512 + 1)).map fun i => p.1 / 512 + i).foldl sinsert acc) []

/-- One chunk for each block: the touched bytes within it. -/
def chunksOf (l : List (Nat × Nat)) : List Chunk :=
  (blocksTouched l).map fun b =>
    let parts := (l.map fun p => (max p.1 (b * 512), min p.2 (b * 512 + 512))).filter fun p => decide (p.1 < p.2)
    let lo := parts.foldl (fun a p => min a p.1) (b * 512 + 512)
    let hi := parts.foldl (fun a p => max a p.2) (b * 512)
    { src := lo, dst := 0, len := hi - lo, iter := 0, zero := false }

/-- The byte ranges of an operand that a group of k reads: along its rows, or across rows (R257, R512). -/
def groupRanges (along : Bool) (f : Nat) (rowAddr : Nat → Nat) (rows n k0 k1 : Nat) : List (Nat × Nat) :=
  if along then (List.range rows).map fun r => (rowAddr r + k0 * fmtBits f / 8, rowAddr r + rowBytes f k1)
  else (List.range (k1 - k0)).map fun r => (rowAddr (k0 + r), rowAddr (k0 + r) + rowBytes f n)

/-- Chunks without those that an earlier one contains. -/
def dropRepeats : List Chunk → List Chunk → List Chunk
  | seen, [] => seen
  | seen, c :: r =>
    if seen.any fun d => d.iter == c.iter && decide (d.src ≤ c.src) && decide (c.src + c.len ≤ d.src + d.len) then dropRepeats seen r
    else dropRepeats (seen ++ [c]) r

/-- The remote chunks of a product in the order of R512: by groups of 32 along k, those of A before those of B, which for `gmma` are those of
every group that has rows. `iter` is 0 for A and 1 for B. -/
def remoteChunks (s : State) (g : Nat) (m : MCmd) : List Chunk :=
  let r : MRec := m.record
  if !isProduct r.op then [] else
  let half := if r.op = 8 ∨ r.op = 9 then 2 else 1
  dropRepeats [] <| (List.range ((r.K + 31) / 32)).flatMap fun q =>
    let k0 := 32 * q
    let k1 := min (32 * q + 32) r.K
    (if r.asrc = 1 then
      chunksOf (groupRanges (!r.ta) r.afmt (rowAt s g m.sid 1 r.awin r.aoff r.astride) (aRows r) r.M (k0 / half) (k1 / half))
     else []) ++
    (if r.bsrc = 1 then
      (chunksOf ((bOffsets m).flatMap fun o => groupRanges r.tb r.bfmt (rowAt s g m.sid 1 r.bwin o r.bstride) (bRows r) r.N k0 k1)).map
        fun c => { c with iter := 1 }
     else [])

/-- A range cut at 512-byte boundaries of an address, from there on `fuel` pieces at most. -/
def cut : Nat → Nat → Nat → List (Nat × Nat)
  | 0, _, _ => []
  | f + 1, a, n =>
    if n = 0 then [] else
    let l := min n (512 - a % 512)
    (a, l) :: cut f (a + l) (n - l)

/-- The chunks of a gather: rows in order, each cut at its source's boundaries, a zero row at its destination's (R274, log entry 76). -/
def gatherChunks (s : State) (g : Nat) (m : MCmd) : List Chunk :=
  let q : MRec := m.record
  (List.range q.M).flatMap fun r =>
    let d := slotBase g + q.boff + r * q.bstride
    match gatherSrc s g m r with
    | none => (cut (q.K + 1) d q.K).map fun p => { src := 0, dst := p.1, len := p.2, iter := r, zero := true }
    | some a => (cut (q.K + 1) a q.K).map fun p => { src := p.1, dst := d + (p.1 - a), len := p.2, iter := r, zero := false }

/-! ### Starting a command -/

/-- Whether a command starts by the step of an op: its own, or, for a reserved op, that of op 1, whose start it fails (R253, R265). -/
def startsBy (op o : Nat) : Bool := o == op || (op == 1 && !([1, 2, 3, 4, 5, 6, 8, 9, 10, 11].contains o))

/-- The start of the command at the head, if it is the op named, has passed its checks and its gate, and the unit is free
(R248, R262, R265). -/
def startCmd (s : State) (g op : Nat) : Option State :=
  let c := coreAt s g
  match c.mq, c.mrun with
  | m :: rest, none =>
    let r : MRec := m.record
    if !startsBy op r.op || !m.headOk || (r.gt && !m.gateOk) || !engineOn s g || quiescing s g then none
    else
      let s1 := updCore s g fun c => { c with mq := rest }
      match startFault s g m with
      | some f => some (mxFault s1 g m 3 f.1 f.2)
      | none =>
        let run : MRun :=
          { cmd := m, awin := coreWin s g m.sid r.awin, bwin := coreWin s g m.sid r.bwin,
            chunks := if op = 10 then gatherChunks s g m else remoteChunks s g m,
            buf := [], flags := flagIf (r.gt && holeAt s (slotBase g + r.gate)) fHole, effectDone := false, landed := [], sent := s.nextId }
        some (updCore s1 g fun c => { c with mrun := some run })
  | _, _ => none

/-- Starts a dense product (R258). -/
def execMma (g : Nat) (s : State) : Host.Outcome State Fault Refusal := device "MMA" (startCmd s g 1)
/-- Starts a scaled dense product (R258). -/
def execMmas (g : Nat) (s : State) : Host.Outcome State Fault Refusal := device "MMAS" (startCmd s g 2)
/-- Starts a 2:4 structured-sparse product (R271). -/
def execSmma24 (g : Nat) (s : State) : Host.Outcome State Fault Refusal := device "SMMA24" (startCmd s g 8)
/-- Starts a 4:8 structured-sparse product (R271). -/
def execSmma48 (g : Nat) (s : State) : Host.Outcome State Fault Refusal := device "SMMA48" (startCmd s g 9)
/-- Starts a row gather (R273). -/
def execGather (g : Nat) (s : State) : Host.Outcome State Fault Refusal := device "GATHER" (startCmd s g 10)
/-- Starts a ragged grouped product (R276). -/
def execGmma (g : Nat) (s : State) : Host.Outcome State Fault Refusal := device "GMMA" (startCmd s g 11)

/-- A tile element of a core (R247). -/
def tileAt (c : Core) (i : Nat) : Nat := (kget c.tiles i 0).toNat

/-- The elements of a block, row by row: tile place, i and j (R256). -/
def blockCells (r : MRec) : List (Nat × Nat × Nat) :=
  (List.range r.M).flatMap fun i => (List.range r.N).map fun j => (tileIndex r.t0 r.N i j, i, j)

/-- Tile elements set. -/
def setTiles (m : KMap (BitVec 32)) (l : List (Nat × Nat)) : KMap (BitVec 32) :=
  l.foldl (fun m p => kset m p.1 (BitVec.ofNat 32 p.2)) m

/-- The running command with its effect done and flags. -/
def effectOf (g : Nat) (s : State) (f : Flags) : State :=
  updCore s g fun c => { c with mrun := c.mrun.map fun r => { r with effectDone := true, flags := r.flags ||| f } }


/-- What the running command has landed (R407). -/
def runLanded (c : Core) : List Landed := (c.mrun.map fun r => r.landed).getD []

/-- A running command abandoned by a fault: what it landed stays noted (R265, R407). -/
def abandon (s : State) (g : Nat) : State :=
  updCore s g fun c => { c with mrun := none, landed := c.landed ++ runLanded c }

/-- A tile command: it starts and has its effect on the block (R261). -/
def tileCmd (s : State) (g op : Nat) (eff : State → MCmd → State) : Option State :=
  match startCmd s g op with
  | none => none
  | some s1 =>
    match (coreAt s1 g).mrun with
    | none => some s1
    | some r => some (eff s1 r.cmd)

/-- C := +0 in the block (R261). -/
def tzeroEff (g : Nat) (s : State) (m : MCmd) : State :=
  effectOf g (updCore s g fun c => { c with tiles := setTiles c.tiles ((blockCells m.record).map fun p => (p.1, 0)) }) 0

/-- Sets the block to +0 (R261). -/
def execTzero (g : Nat) (s : State) : Host.Outcome State Fault Refusal := device "TZERO" (tileCmd s g 3 (tzeroEff g))

/-- The first poisoned word of some byte ranges (R409). -/
def poisonedRows (s : State) (l : List Rows) : Option Nat :=
  (l.find? fun x => x.src != 2 && poisonedIn s x.lo (x.hi - x.lo)).map fun x => poisonedAt s x.lo (x.hi - x.lo)

/-- Whether some local byte of some ranges lies in a hole (R377, R212). -/
def holeRows (s : State) (l : List Rows) : Bool := l.any fun x => x.src == 0 && anyHole s x.lo (x.hi - x.lo)

/-- C := the f32 bits of the rows (R261). -/
def tloadEff (g : Nat) (s : State) (m : MCmd) : State :=
  let r : MRec := m.record
  let t := touched s g m
  match poisonedRows s t with
  | some a => mxPoison (abandon s g) g m a 63
  | none =>
    let l := (blockCells r).map fun p => (p.1, readVal s (slotBase g + r.aoff + p.2.1 * r.astride + 4 * p.2.2) 4)
    effectOf g (updCore s g fun c => { c with tiles := setTiles c.tiles l }) (flagIf (holeRows s t) fHole)

/-- Loads f32 rows into the block (R261). -/
def execTload (g : Nat) (s : State) : Host.Outcome State Fault Refusal := device "TLOAD" (tileCmd s g 4 (tloadEff g))

/-- An element converted to the output format, nearest even; f32 bits unchanged (R261). -/
def outElem (f v : Nat) : Nat × Flags :=
  if f = 7 then (v, 0)
  else if f = 0 then valToInt 0 8 false (f32.decode v)
  else (fmtOf (BitVec.ofNat 3 f)).ofVal 0 (f32.decode v)

/-- The block converted and stored as rows, each word set full (R261). -/
def tstoreEff (g : Nat) (s : State) (m : MCmd) : State :=
  let r : MRec := m.record
  let c := coreAt s g
  let t := touched s g m
  match t.findSome? fun x => (wordsOf x.lo (x.hi - x.lo)).find? fun w => wordBad s w && !covers x.lo (x.hi - x.lo) w with
  | some a => mxPoison (abandon s g) g m a 63
  | none =>
    let rows := (List.range r.M).map fun i =>
      let es := (List.range r.N).map fun j => outElem r.afmt (tileAt c (tileIndex r.t0 r.N i j))
      (i, es)
    let s1 := rows.foldl (fun s q =>
      landLogged s (slotBase g + r.aoff + q.1 * r.astride) (leBytes (rowBytes r.afmt r.N) (pack (fmtBits r.afmt) (q.2.map fun e => e.1)))) s
    let l := t.foldl (fun l x => addLanding s g l x.lo (x.hi - x.lo)) []
    let note (c : Core) : Core := { c with mrun := c.mrun.map fun q => { q with landed := l } }
    effectOf g (updCore s1 g note) (rows.foldl (fun f q => f ||| orFlags q.2) (flagIf (holeRows s t) fHole))

/-- Converts the block and stores it as rows (R261). -/
def execTstore (g : Nat) (s : State) : Host.Outcome State Fault Refusal := device "TSTORE" (tileCmd s g 5 (tstoreEff g))

/-- An element times 2^(s − 127), rounded nearest even (R261). -/
def scaleElem (k v : Nat) : Nat × Flags :=
  match f32.decode v with
  | .nan _ => (0x7FC00000, 0)
  | .inf _ => (v, 0)
  | .fin n m e => f32.round 0 n m (e + k - 127)

/-- The block scaled by a power of two (R261). -/
def tscaleEff (g : Nat) (s : State) (m : MCmd) : State :=
  let r : MRec := m.record
  let c := coreAt s g
  let l := (blockCells r).map fun p => (p.1, scaleElem (r.K % 256) (tileAt c p.1))
  effectOf g (updCore s g fun c => { c with tiles := setTiles c.tiles (l.map fun q => (q.1, q.2.1)) }) (l.foldl (fun f q => f ||| q.2.2) 0)

/-- Scales the block by a power of two (R261). -/
def execTscale (g : Nat) (s : State) : Host.Outcome State Fault Refusal := device "TSCALE" (tileCmd s g 6 (tscaleEff g))

/-! ### Chunk arrivals -/

/-- Bytes kept under their addresses. -/
def keepBytes (m : KMap Byte) (a : Nat) : List Byte → KMap Byte
  | [] => m
  | b :: r => keepBytes (kset m a b) (a + 1) r

/-- REMOTE_OPERAND_CHUNK_ARRIVAL: the next remote chunk is checked and kept, or refused, behind what fences have passed to its bank (R26, R265,
R384, R512). Of bytes in a hole it brings zeros and sets no flag (DESIGN CHOICE, log entry 76). -/
def stepOperandChunk (s : State) (g : Nat) : Option State :=
  match (coreAt s g).mrun with
  | none => none
  | some r =>
    let op := MRec.op r.cmd.record
    match r.chunks with
    | [] => none
    | c :: rest =>
      if op = 10 || !pathClear s g r.sent [(c.src, c.len)] then none
      else
        let w := if c.iter = 0 then r.awin else r.bwin
        let win := if c.iter = 0 then MRec.awin r.cmd.record else MRec.bwin r.cmd.record
        match chunkCheck s w (tenantOn s g) false c.src c.len with
        | .wait => none
        | .fail => some (mxFault (abandon s g) g r.cmd 3 0x10 win)
        | .pass =>
          if poisonedIn s c.src c.len then some (mxPoison (abandon s g) g r.cmd (poisonedAt s c.src c.len) win)
          else
            let keep := keepBytes r.buf c.src (readBytes s c.src c.len)
            some (updCore s g fun q => { q with mrun := some { r with chunks := rest, buf := keep } })

/-- REMOTE_OPERAND_CHUNK_ARRIVAL (R512). -/
def execRemoteOperandChunkArrival (g : Nat) (s : State) : Host.Outcome State Fault Refusal :=
  device "REMOTE_OPERAND_CHUNK_ARRIVAL" (stepOperandChunk s g)

/-- GATHER_CHUNK_LANDING: chunk i of those not landed; chunks land in any order (R273, R274). A hole in the destination or in a local row
sets `hole`, one in a row through a window does not (log entry 76). A row is read behind what fences have passed to its bank (R384). -/
def stepGatherChunk (s : State) (g i : Nat) : Option State :=
  match (coreAt s g).mrun with
  | none => none
  | some r =>
    let q : MRec := r.cmd.record
    match q.op == 10, r.chunks[i]? with
    | true, some c =>
      let check := if c.zero || q.asrc == 0 then Check.pass
        else if !pathClear s g r.sent [(c.src, c.len)] then Check.wait
        else chunkCheck s r.awin (tenantOn s g) false c.src c.len
      match check with
      | .wait => none
      | .fail => some (mxFault (abandon s g) g r.cmd 3 0x10 q.awin)
      | .pass =>
        if !c.zero && poisonedIn s c.src c.len then some (mxPoison (abandon s g) g r.cmd (poisonedAt s c.src c.len) (if q.asrc = 0 then 63 else q.awin))
        else if (wordsOf c.dst c.len).any fun w => wordBad s w && !covers c.dst c.len w then
          some (mxPoison (abandon s g) g r.cmd (poisonedAt s c.dst c.len) 63)
        else
          let bs := if c.zero then List.replicate c.len 0 else readBytes s c.src c.len
          let hole := anyHole s c.dst c.len || (!c.zero && q.asrc == 0 && anyHole s c.src c.len)
          let s1 := landLogged s c.dst bs
          some (updCore s1 g fun k => { k with mrun := some { r with chunks := r.chunks.eraseIdx i, flags := r.flags ||| flagIf hole fHole, landed := addLanding s g r.landed c.dst c.len } })
    | _, _ => none

/-- GATHER_CHUNK_LANDING (R274). -/
def execGatherChunkLanding (g i : Nat) (s : State) : Host.Outcome State Fault Refusal := device "GATHER_CHUNK_LANDING" (stepGatherChunk s g i)

/-! ### Completion -/

/-- The bytes of one row of an operand as a number: from the own slot, from the kept chunks, or from stream blocks. -/
def rowValue (s : State) (g : Nat) (run : MRun) (src win off stride row len : Nat) (blocks : Nat) : Nat :=
  match src with
  | 0 => readVal s (slotBase g + off + row * stride) len
  | 1 =>
    let a := rowAt s g run.cmd.sid 1 win off stride row
    leNat ((List.range len).map fun i => kget run.buf (a + i) 0)
  | _ => blocks / 2 ^ (8 * (row * stride)) % 2 ^ (8 * len)

/-- The buffered blocks of a stream from one on, as one number. -/
def streamValue (c : Core) (st skip n : Nat) : Nat :=
  pack 4096 ((((kget c.streamBufs st []).drop skip).take n).map fun v => v.toNat)

/-- A's rows along k, elements not kept absent; and the flags of its quads (R257, R269). -/
def aMatrix (s : State) (g : Nat) (run : MRun) : List (List (Option FVal)) × Flags :=
  let r : MRec := run.cmd.record
  let n := aContig r
  let len := rowBytes r.afmt n
  let blocks := streamValue (coreAt s g) (r.aoff % 64) 0 (blocksNeeded (aRows r) r.astride len)
  let rows := (List.range (aRows r)).map fun i => rowElems r.afmt n (rowValue s g run r.asrc r.awin r.aoff r.astride i len blocks)
  let f := rows.foldl (fun f p => f ||| p.2) 0
  let es := rows.map fun p => p.1
  let full := if r.ta then columns r.M es else es
  if r.op = 8 ∨ r.op = 9 then
    (full.zipIdx.map fun p => spreadRow (sparseG r.op) (run.cmd.meta?.getD 0) (r.sa + p.2 * r.sastride) (r.K / sparseG r.op) 0 p.1, f)
  else (full.map fun l => l.map some, f)

/-- Whether some row of the block reads B at a k: a sparse product only where an element of A is kept (R271). -/
def readsB (m : MCmd) (k : Nat) : Bool :=
  let r : MRec := m.record
  !(r.op == 8 || r.op == 9) ||
    (List.range r.M).any fun i => (keptIdx (sparseG r.op) (m.meta?.getD 0) (r.sa + i * r.sastride) (k / sparseG r.op)).contains (k % sparseG r.op)

/-- The flags of the quads of a row from its bytes, of which those with a used element are decoded (R50, R271). -/
def quadFlags (f n x : Nat) (used : Nat → Bool) : Flags :=
  if f = 9 then
    ((lanes 16 (n / 4) x).zipIdx.filter fun q => (List.range 4).any fun e => used (4 * q.2 + e)).foldl (fun a q => a ||| (decodeQuad q.1).2) 0
  else 0

/-- B's columns along k, for an offset; and the flags of its quads that the product decodes (R271). -/
def bMatrix (s : State) (g : Nat) (run : MRun) (off : Nat) : List (List FVal) × Flags :=
  let r : MRec := run.cmd.record
  let n := bContig r
  let len := rowBytes r.bfmt n
  let skip := if r.asrc = 2 ∧ r.aoff % 64 = r.boff % 64 then blocksNeeded (aRows r) r.astride (rowBytes r.afmt (aContig r)) else 0
  let blocks := streamValue (coreAt s g) (r.boff % 64) skip (blocksNeeded (bRows r) r.bstride len)
  let rows := (List.range (bRows r)).map fun i => rowValue s g run r.bsrc r.bwin off r.bstride i len blocks
  let es := rows.map fun x => (rowElems r.bfmt n x).1
  let flags (p : Nat × Nat) : Flags := quadFlags r.bfmt n p.1 (if r.tb then readsB run.cmd else fun _ => readsB run.cmd p.2)
  (if r.tb then es else columns r.N es, orFlags (rows.zipIdx.map fun p => (p.1, flags p)))

/-- The scale exponents of element (i, j) by group: none for an op without scales (R258). -/
def scaleExps (s : State) (g : Nat) (r : MRec) (i j : Nat) : List Int :=
  (List.range ((r.K + 31) / 32)).map fun q =>
    if r.op = 2 then
      ((readByte s (slotBase g + r.sa + i * r.sastride + q)).toNat : Int) + (readByte s (slotBase g + r.sb + j * r.sbstride + q)).toNat - 254
    else 0

/-- The B operand that row i of A meets: by its ragged group for `gmma` (R276). -/
def bFor (r : MRec) (v : Vec) (i : Nat) : Nat := if r.op = 11 then r.boff + groupOf v i * r.sbstride else r.boff

/-- The products of a block: tile places with their new elements, and the flags (R258, R259, R271, R276). -/
def productCells (s : State) (g : Nat) (run : MRun) : List (Nat × Nat) × Flags :=
  let r : MRec := run.cmd.record
  let v := run.cmd.meta?.getD 0
  let c := coreAt s g
  let A := aMatrix s g run
  let Bs := (bOffsets run.cmd).map fun o => (o, bMatrix s g run o)
  let fB := Bs.foldl (fun f p => f ||| p.2.2) 0
  let n := (r.K + 31) / 32
  let cells := A.1.zipIdx.flatMap fun a =>
    let B := ((Bs.find? fun p => p.1 == bFor r v a.2).map fun p => p.2.1).getD []
    B.zipIdx.map fun b =>
      let t := tileIndex r.t0 r.N a.2 b.2
      (t, dotGroups n (a.1.zip b.1) (scaleExps s g r a.2 b.2) (if r.acc then tileAt c t else 0) 0)
  (cells.map fun p => (p.1, p.2.1), cells.foldl (fun f p => f ||| p.2.2) (A.2 ||| fB))

/-- The end of the running command: the done word, the flags kept for `mx.wait`, the unit free (R248, R251, R263). -/
def endCmd (s : State) (g : Nat) (run : MRun) (f : Flags) : State :=
  let r : MRec := run.cmd.record
  let f := f ||| flagIf (r.dn && holeAt s (slotBase g + r.done)) fHole
  let s := if r.dn then landLogged s (slotBase g + r.done) (leBytes 8 r.dval) else s
  let s := updCore s g fun c => { c with mrun := none, landed := c.landed ++ (if r.dn then addLanding s g run.landed (slotBase g + r.done) 8 else run.landed) }
  updStrand s g run.cmd.sid fun t => { t with mxFlags := t.mxFlags ||| run.flags ||| f }

/-- n blocks taken from the buffer of a stream; a lock-step pair notes them (R213). -/
def takeBuffered (st n : Nat) (c : Core) : Core :=
  let l := kget c.streamBufs st []
  { c with streamBufs := kset c.streamBufs st (l.drop n),
           lock := c.lock.map fun k => { k with bufUsed := k.bufUsed ++ (l.take n).map fun v => (st, v) } }

/-- Stream blocks consumed by a completing command (R312). -/
def takeStreams (s : State) (g : Nat) (m : MCmd) : State :=
  (streamOps m).foldl (fun s p => takeBlocks (updCore s g (takeBuffered p.1 p.2)) (streamKey g p.1) (kOf g) p.2) s

/-- Whether the blocks that a command needs have been delivered. -/
def streamsReady (c : Core) (m : MCmd) : Bool :=
  (streamOps m).all fun p => decide (blocksOf m p.1 ≤ (kget c.streamBufs p.1 []).length)

/-- MATRIX_COMMAND_COMPLETE: every chunk has arrived or landed and every stream block is there; a product updates its tiles
(R248, R258). -/
def stepMatrixComplete (s : State) (g : Nat) : Option State :=
  let c := coreAt s g
  match c.mrun with
  | none => none
  | some run =>
    let op := MRec.op run.cmd.record
    if !run.chunks.isEmpty || !streamsReady c run.cmd then none
    else if isProduct op then
      let t := (touched s g run.cmd).filter fun x => x.src == 0
      match poisonedRows s t with
      | some a => some (mxPoison (abandon s g) g run.cmd a 63)
      | none =>
        let p := productCells s g run
        let s1 := updCore s g fun c => { c with tiles := setTiles c.tiles p.1 }
        some (endCmd (takeStreams s1 g run.cmd) g run (p.2 ||| flagIf (holeRows s t) fHole))
    else if op = 10 then some (endCmd s g run 0)
    else if run.effectDone then some (endCmd s g run 0)
    else none

/-- MATRIX_COMMAND_COMPLETE (R248). -/
def execMatrixCommandComplete (g : Nat) (s : State) : Host.Outcome State Fault Refusal :=
  device "MATRIX_COMMAND_COMPLETE" (stepMatrixComplete s g)

end Sys2Proof.Machine
end

