-- ==== Sys2Proof/Machine/Copy.lean ====
section
/-! DEFINITION. The escapement processor's copies: `cp.req` and the mailbox (R283, R284, R296), the copy control block and its
checks (R285 to R289), the walk and its chunks (R290 to R294), event records (R295), majors 42 to 45 (R287 to R300). -/

namespace Sys2Proof.Machine

/-! ### cp.req (R283) -/

/-- Appends a request to the mailbox; without a movement program, the synchronisation fault 0x0003 (R283, R284). -/
def execCpReq (a : BitVec 7) (b : BitVec 7) (s : State) : Host.Outcome State Fault Refusal :=
  wordG (.cpReq a b) s (fun x => if (accsOf s x.g x.sid).isEmpty then none else some .access) fun x vs s1 =>
    if x.c.epHalted then raiseAt s x 4 3 0 0 63
    else if 32 ≤ x.c.mailbox.length then waitFor s x .mailbox
    else retire (updCore s1 x.g fun c => { c with mailbox := c.mailbox ++ [(arg vs 0, arg vs 1)] }) x

/-! ### The control block (R285, R286) -/

/-- The captured 128 bytes. -/
abbrev Blk := BitVec 1024

/-- Kind. -/
def Blk.kind (b : Blk) : Nat := bits b 0 4
/-- Guard. -/
def Blk.guard (b : Blk) : Bool := bit1 b 6
/-- An event after each iteration. -/
def Blk.ie (b : Blk) : Bool := bit1 b 7
/-- Source offset. -/
def Blk.soff (b : Blk) : Nat := bits b 192 48
/-- Source window. -/
def Blk.swin (b : Blk) : Nat := bits b 252 4
/-- Destination offset. -/
def Blk.doff (b : Blk) : Nat := bits b 256 48
/-- Destination window. -/
def Blk.dwin (b : Blk) : Nat := bits b 316 4
/-- Slot offset of release word 0. -/
def Blk.rel (b : Blk) : Nat := bits b 336 21
/-- Ring stages. -/
def Blk.stages (b : Blk) : Nat := bits b 364 4
/-- Iterations − 1. -/
def Blk.iters (b : Blk) : Nat := bits b 368 16
/-- Source step. -/
def Blk.sstep (b : Blk) : Int := sbits b 384 32
/-- Destination step. -/
def Blk.dstep (b : Blk) : Int := sbits b 416 32
/-- Tag. -/
def Blk.tag (b : Blk) : Nat := bits b 448 64
/-- Extent of dimension d. -/
def Blk.ext (b : Blk) (d : Nat) : Nat := bits b (512 + 16 * d) 16
/-- log2 of the element size. -/
def Blk.esz (b : Blk) : Nat := bits b 576 4
/-- Source stride of dimension d. -/
def Blk.ss (b : Blk) (d : Nat) : Int := sbits b (768 + 32 * d) 32
/-- Destination stride of dimension d. -/
def Blk.ds (b : Blk) (d : Nat) : Int := sbits b (896 + 32 * d) 32

/-- The reserved fields of both records. -/
def blkReserved : List (Nat × Nat) := [(4, 2), (8, 184), (240, 12), (304, 12), (320, 16), (357, 7), (580, 188)]

/-- The least and the greatest offset that steps over 0 to n−1 reach. -/
def reach (n : Nat) (step : Int) : Int × Int := (min 0 ((n - 1 : Nat) * step), max 0 ((n - 1 : Nat) * step))

/-- The envelope of one end: from the lowest byte to beyond the highest, over every iteration (R289). -/
def envelope (b : Blk) (base : Int) (n : Nat) (step : Int) (stride : Nat → Int) : Int × Int :=
  let r := reach n step
  let d := (List.range 4).map fun i => reach (b.ext i) (stride i)
  (base + r.1 + (d.map fun p => p.1).sum, base + r.2 + (d.map fun p => p.2).sum + (2 ^ b.esz : Nat))

/-- The source envelope. -/
def srcEnv (b : Blk) (w : Window) : Int × Int :=
  envelope b ((w.base.toNat + b.soff : Nat) : Int) (b.iters + 1) b.sstep b.ss

/-- How many destination steps the walk takes: iterations, or ring stages (R290). -/
def dstSteps (b : Blk) : Nat := if b.stages = 0 then b.iters + 1 else min (b.iters + 1) b.stages

/-- The destination envelope. -/
def dstEnv (b : Blk) (w : Window) : Int × Int :=
  envelope b ((w.base.toNat + b.doff : Nat) : Int) (dstSteps b) b.dstep b.ds

/-- Whether the destination walk ascends strictly: each element above the one before, across iterations (R289). -/
def ascends (b : Blk) : Bool :=
  let E : Int := (2 ^ b.esz : Nat)
  let span (d : Nat) : Int := ((List.range d).map fun i => ((b.ext i - 1 : Nat) : Int) * b.ds i).sum
  (List.range 4).all (fun d => b.ext d == 1 || decide (E ≤ b.ds d - span d)) && (b.iters == 0 || decide (E ≤ b.dstep - span 4))

/-- The check of a captured block that fails: its code and window (R289). With several due the first in the order of R289's table stands, and
of both envelopes the source's window is named (log entry 82). -/
def blockFault (b : Blk) (g : Nat) (sw dw : Window) : Option (Nat × Nat) :=
  let se := srcEnv b sw
  let de := dstEnv b dw
  let inSlot := decide (slotBase g ≤ dw.base.toNat) && decide (dw.limit.toNat ≤ slotBase g + 2 ^ 21)
  if b.kind ≠ 1 || !(blkReserved.all fun p => bits b p.1 p.2 == 0) || decide (9 < b.esz) || (List.range 4).any (fun d => b.ext d == 0) then some (0x11, 63)
  else if b.stages == 1 || (b.stages == 0 && b.rel != 0) || (b.stages != 0 && decide (0x140000 < b.rel + 8 * b.stages)) then some (0x11, 63)
  else if b.guard && (b.stages != 0 || !inSlot || !ascends b) then some (0x11, 63)
  else if se.1 < de.2 ∧ de.1 < se.2 then some (0x11, 63)
  else if se.1 < sw.base.toNat ∨ (sw.limit.toNat : Int) < se.2 then some (0x12, b.swin)
  else if de.1 < dw.base.toNat ∨ (dw.limit.toNat : Int) < de.2 then some (0x12, b.dwin)
  else none

/-! ### The walk (R290, R291) -/

/-- The indexes i0 to i3 of element n in walk order, i0 fastest. -/
def walkIdx (b : Blk) (n : Nat) : List Nat :=
  [n % b.ext 0, n / b.ext 0 % b.ext 1, n / (b.ext 0 * b.ext 1) % b.ext 2, n / (b.ext 0 * b.ext 1 * b.ext 2)]

/-- The offset of an element by its indexes. -/
def walkOff (idx : List Nat) (stride : Nat → Int) : Int := (idx.zipIdx.map fun p => (p.1 : Int) * stride p.2).sum

/-- The addresses of an iteration's elements at both ends, in walk order (R290). -/
def elementsOf (b : Blk) (sw dw : Window) (it : Nat) : List (Nat × Nat) :=
  let st := if b.stages = 0 then it else it % b.stages
  let sb : Int := ((sw.base.toNat + b.soff : Nat) : Int) + (it : Int) * b.sstep
  let db : Int := ((dw.base.toNat + b.doff : Nat) : Int) + (st : Int) * b.dstep
  (List.range (b.ext 0 * b.ext 1 * b.ext 2 * b.ext 3)).map fun n =>
    (addr48 (sb + walkOff (walkIdx b n) b.ss), addr48 (db + walkOff (walkIdx b n) b.ds))

/-- Pieces joined into runs that continue contiguously at both ends: source, destination, length (R291). -/
def joinRuns : Option (Nat × Nat × Nat) → List (Nat × Nat × Nat) → List (Nat × Nat × Nat)
  | none, [] => []
  | some r, [] => [r]
  | none, e :: l => joinRuns (some e) l
  | some r, e :: l =>
    if e.1 = (r.1 + r.2.2) % 2 ^ 48 ∧ e.2.1 = (r.2.1 + r.2.2) % 2 ^ 48 then joinRuns (some (r.1, r.2.1, r.2.2 + e.2.2)) l
    else r :: joinRuns (some e) l

/-- A run cut at the 512-byte boundaries of both ends (R291). -/
def cutRun (it : Nat) : Nat → Nat → Nat → Nat → List Chunk
  | 0, _, _, _ => []
  | f + 1, a, d, n =>
    if n = 0 then [] else
    let l := min n (min (512 - a % 512) (512 - d % 512))
    { src := a, dst := d, len := l, iter := it, zero := false } :: cutRun it f ((a + l) % 2 ^ 48) ((d + l) % 2 ^ 48) (n - l)

/-- Pieces of an iteration joined and cut into chunks, in walk order (R291). -/
def chunkRuns (it : Nat) (l : List (Nat × Nat × Nat)) : List Chunk :=
  (joinRuns none l).flatMap fun r => cutRun it (r.2.2 + 1) r.1 r.2.1 r.2.2

/-- The chunks of an iteration, in walk order (R291). -/
def iterChunks (b : Blk) (sw dw : Window) (it : Nat) : List Chunk :=
  chunkRuns it ((elementsOf b sw dw it).map fun e => (e.1, e.2, 2 ^ b.esz))

/-- The release word of a stage (R290). -/
def releaseWord (g : Nat) (b : Blk) (it : Nat) : Nat := slotBase g + b.rel + 8 * (it % max b.stages 1)

/-- Every release word set empty at the start, data unchanged (R290). -/
def emptyStages (s : State) (g : Nat) (b : Blk) : State :=
  (List.range b.stages).foldl (fun s i => let a := slotBase g + b.rel + 8 * i; if holeAt s a then s else makeEmpty s a) s

/-! ### Channels -/

/-- A channel that has never been started. -/
def idleChannel : Channel :=
  { st := 0, block := 0, blockAddr := 0, sw := default, dw := default, iter := 0, begun := false, todo := [], flight := [],
    iterDone := 0, early := [], owed := [], env := (0, 0), wm := 0, bc := 0, nb := 0, landed := none, pc := 0 }

/-- Channel c of a core. -/
def chanAt (c : Core) (n : Nat) : Channel := kget c.channels n idleChannel

/-- A channel replaced. -/
def setChan (s : State) (g n : Nat) (ch : Channel) : State := updCore s g fun c => { c with channels := kset c.channels n ch }

/-- The range that n more bytes landed at an address of a channel's destination window add, by its region, lowest to beyond the highest
(R407). -/
def chanLanding (s : State) (g n : Nat) (ch : Channel) (a len : Nat) : Option Landed :=
  match kget? s.regions ch.dw.region.toNat with
  | none => ch.landed
  | some r =>
    let e : Landed := { gcn := g, chan := some n, region := ch.dw.region, lo := a - r.base, hi := a + len - r.base }
    if len = 0 then ch.landed else (joinLanded ch.landed.toList e).head?

/-- The core's list takes over what a channel's command has landed as the channel's next command starts (R407). -/
def keepLanded (old : Channel) (c : Core) : Core := { c with landed := c.landed ++ old.landed.toList }

/-- What the engines of a core have landed since its placement: one entry for each matrix command and region, and one for each channel and
region (R407). -/
def landingsOn (c : Core) : List Landed :=
  let l := c.landed ++ runLanded c ++ c.channels.filterMap fun p => p.2.landed
  (l.filter fun e => e.chan.isNone) ++ (l.filter fun e => e.chan.isSome).foldl joinLanded []

/-- Whether every channel of a core is idle (R299). -/
def channelsIdle (c : Core) : Bool := c.channels.all fun p => p.2.st == 0

/-- A fault of a copy channel: eng 1, sid 63, the address of its cp.start (R302). -/
def copyFault (s : State) (g : Nat) (ch : Channel) (cls code : Nat) (aux : Word) (addr win : Nat) : State :=
  raiseEngine s g (faultInfo s g 64 ch.pc cls code aux addr win)

/-- The channel that a value names in `cp.abort`, `cp.wait` and `cp.stat` (R300). -/
def chanNo (v : Word) : Nat := bits v 0 7 % 96

/-- A channel that its command has made active (R288). -/
def startedChannel (blk : Blk) (ad : Nat) (sw dw : Window) (pc : Addr) : Channel :=
  let de := dstEnv blk dw
  { idleChannel with st := 1, block := blk, blockAddr := ad, sw := sw, dw := dw, env := (de.1.toNat, de.2.toNat), wm := de.1.toNat, pc := pc }

/-- An engine fault that a word of the escapement processor raises: the word has no effect, and its record holds word 0 (R122, R124, R300). -/
def raiseEngineAt (s : State) (x : Iss) (cls code : Nat) (aux : Word) (addr win : Nat) : State :=
  raiseFault s x.g x.sid { faultInfo s x.g x.sid (savePc x.t) cls code aux addr win with word := 0 }

/-- `cp.start`: the block is read, a hole in it setting `hole`, and checked, and the channel made active, its release words empty (R19,
R288 to R290). -/
def execCpStart (a : BitVec 7) (b : BitVec 7) (s : State) : Host.Outcome State Fault Refusal :=
  word (.cpStart a b) s fun x vs s =>
    let ad := addrOf (arg vs 0)
    let n := (arg vs 1).toNat
    if 96 ≤ n then raiseEngineAt s x 3 0x11 0 ad 63
    else if ad % 64 ≠ 0 then raiseAt s x 1 2 0 ad 63
    else if debugOn s x.g && !inWindow x.t ad 128 1 then raiseAt s x 9 2 128 ad 63
    else if !(accsOf s x.g x.sid).isEmpty then waitFor s x .access
    else if (chanAt x.c n).st ≠ 0 then waitFor s x .channel
    else if poisonedIn s ad 128 then raiseAt s x 5 3 0 (poisonedAt s ad 128) 63
    else
      let blk : Blk := BitVec.ofNat 1024 (readVal s ad 128)
      let sw := x.t.win blk.swin
      let dw := x.t.win blk.dwin
      let ch := startedChannel blk ad sw dw x.t.pc
      let s := holeFlag s x ad 128
      match blockFault blk x.g sw dw with
      | some f => retire (copyFault s x.g ch 3 f.1 0 ad f.2) x
      | none => retire (emptyStages (setChan (updCore s x.g (keepLanded (chanAt x.c n))) x.g n ch) x.g blk) x

/-- Stops a channel after its next chunk boundary: the chunks it has not issued stay in its walk, not landed (R293), and no further record
than that of the abort comes (R297). -/
def execCpAbort (b : BitVec 7) (s : State) : Host.Outcome State Fault Refusal :=
  word (.cpAbort b) s fun x vs s =>
    let n := chanNo (arg vs 0)
    let ch := chanAt x.c n
    retire (if ch.st = 1 then setChan s x.g n { ch with st := 4, owed := [] } else s) x

/-- Waits until a channel is idle (R297). -/
def execCpWait (b : BitVec 7) (s : State) : Host.Outcome State Fault Refusal :=
  word (.cpWait b) s fun x vs s =>
    if (chanAt x.c (chanNo (arg vs 0))).st ≠ 0 then waitFor s x .channel else retire s x

/-- The chunks of a channel that have issued and not landed: those in flight, and those refused at their landing (R293, R409). -/
def unlanded (ch : Channel) : List CopyFlight := ch.flight ++ ch.lost

/-- Whether every chunk of an iteration has been issued and has landed. -/
def iterLanded (ch : Channel) (it : Nat) : Bool := decide (it < ch.iter) && (unlanded ch).all fun f => f.chunk.iter != it

/-- Whether a channel's iterations end with a release word or a record (R290). -/
def iterEnds (ch : Channel) : Bool := Blk.stages ch.block != 0 || Blk.ie ch.block

/-- The next iteration to end: the first issued one whose chunks have landed and that has not ended (R290). -/
def endingIter (ch : Channel) : Option Nat :=
  ((List.range (min ch.iter (Blk.iters ch.block + 1) - ch.iterDone)).map fun j => ch.iterDone + j).find? fun it => !ch.early.contains it && iterLanded ch it

/-- Whether every iteration of a channel's command has landed and ended, its records entered (R290). -/
def walkDone (ch : Channel) : Bool :=
  decide (Blk.iters ch.block < ch.iter) && (unlanded ch).isEmpty && (!iterEnds ch || (decide (Blk.iters ch.block < ch.iterDone) && ch.owed.isEmpty))

/-- Whether a channel's next record could enter the queue but for its room. -/
def recordDue (ch : Channel) : Bool :=
  (ch.st == 1 && ((Blk.ie ch.block && (!ch.owed.isEmpty || (endingIter ch).isSome)) || walkDone ch)) || (ch.st == 4 && (unlanded ch).isEmpty)

/-- Whether a channel waits for its stage's release word (R290). -/
def stageWaits (s : State) (g : Nat) (ch : Channel) : Bool :=
  ch.st == 1 && Blk.stages ch.block != 0 && !ch.begun && decide (ch.iter ≤ Blk.iters ch.block) &&
  !holeAt s (releaseWord g ch.block ch.iter) && !isEmpty s (releaseWord g ch.block ch.iter)

/-- The state of a channel as `cp.stat.st` reads it (R298). -/
def chanState (s : State) (g : Nat) (c : Core) (ch : Channel) : Nat :=
  if ch.st = 0 then 0
  else if decide (64 ≤ c.events.length) && recordDue ch then 3
  else if ch.st = 4 then 4
  else if stageWaits s g ch then 2
  else 1

/-- Reads a channel's iteration and state: the iteration whose chunks issue, the last one once all have issued, also when the channel is idle again
(R298; DESIGN CHOICE, log entry 96). -/
def execCpStatSt (d : BitVec 7) (b : BitVec 7) (s : State) : Host.Outcome State Fault Refusal :=
  scalar (.cpStatSt d b) d s fun x vs =>
    let ch := chanAt x.c (chanNo (arg vs 0))
    (w64 (min ch.iter (Blk.iters ch.block) * 2 ^ 48 + chanState s x.g x.c ch), 0)

/-- Reads a channel's watermark; 0 if unguarded or idle (R293, R298). -/
def execCpStatWm (d : BitVec 7) (b : BitVec 7) (s : State) : Host.Outcome State Fault Refusal :=
  scalar (.cpStatWm d b) d s fun x vs =>
    let ch := chanAt x.c (chanNo (arg vs 0))
    (if ch.st = 0 || !Blk.guard ch.block then 0 else w64 ch.wm, 0)

/-- Reads a channel's bank-conflict counter (R294, R298). -/
def execCpStatBc (d : BitVec 7) (b : BitVec 7) (s : State) : Host.Outcome State Fault Refusal :=
  scalar (.cpStatBc d b) d s fun x vs => (w64 (chanAt x.c (chanNo (arg vs 0))).bc, 0)

/-- Reads the bytes landed by a channel's command (R298). -/
def execCpStatNb (d : BitVec 7) (b : BitVec 7) (s : State) : Host.Outcome State Fault Refusal :=
  scalar (.cpStatNb d b) d s fun x vs => (w64 (chanAt x.c (chanNo (arg vs 0))).nb, 0)

/-- A pair and a predicate written by a pop (R296). -/
def popPair (s : State) (x : Iss) (d : RCode) (p : Nat) (lo hi : Word) (got : Bool) : State :=
  retire (updStrand (writePair s x.g x.sid d lo hi) x.g x.sid fun t => t.setP p got) x

/-- The cores that a task holds: its members, but a core that a bound handler has taken over (R332). -/
def coresOf (s : State) (k : Nat) (t : Task) : List Nat := t.members.filter fun g => (coreAt s g).task == some k

/-- Whether a core has a strand, or one that waits to be admitted there. -/
def strandsOn (c : Core) : Bool :=
  c.strands.any (fun p => p.1 != 64) || !c.deque.isEmpty || !c.startQ.isEmpty || !c.arrivals.isEmpty || !c.spilled.isEmpty ||
  c.refilled.isSome || !c.stolen.isEmpty || c.steal.asked.isSome

/-- Whether a task has a strand left on a core or in a queue (R296, R357). -/
def strandsLeft (s : State) (k : Nat) : Bool :=
  match kget? s.tasks k with
  | none => false
  | some t =>
    !t.spawnsLeft.isEmpty || s.flights.any (fun f => t.members.contains f.src) || (coresOf s k t).any fun g => strandsOn (coreAt s g)

/-- Pops one mailbox request into a pair (R296). -/
def execCpMbox (d : BitVec 7) (p : BitVec 5) (s : State) : Host.Outcome State Fault Refusal :=
  word (.cpMbox d p) s fun x _ s =>
    match x.c.mailbox with
    | m :: rest => popPair (updCore s x.g fun c => { c with mailbox := rest }) x d p.toNat m.1 m.2 true
    | [] =>
      if (x.c.task.map (strandsLeft s)).getD false then waitFor s x .mailbox
      else popPair s x d p.toNat 0 0 false

/-- Pops one event record into a pair (R296). -/
def execCpEv (d : BitVec 7) (p : BitVec 5) (s : State) : Host.Outcome State Fault Refusal :=
  word (.cpEv d p) s fun x _ s =>
    match x.c.events with
    | e :: rest => popPair (updCore s x.g fun c => { c with events := rest }) x d p.toNat (e.truncate 64) ((e >>> 64).truncate 64) true
    | [] => if channelsIdle x.c then popPair s x d p.toNat 0 0 false else waitFor s x .event

/-- Waits for all channels idle and halts the escapement processor (R299). The wait for the engine marks that event records
are discarded meanwhile. -/
def execCpHalt (s : State) : Host.Outcome State Fault Refusal :=
  word .cpHalt s fun x _ s =>
    if !channelsIdle x.c then waitFor s x .engine
    else retire (updCore s x.g fun c => { c with epHalted := true, events := [], mailbox := [] }) x

/-! ### The copy engine's steps (R290 to R297) -/

/-- A channel whose next iteration has begun, if it waits for no release word: its chunks to issue (R290). -/
def beginIter (ch : Channel) : Channel :=
  if ch.st = 1 ∧ ch.begun = false ∧ ch.iter ≤ Blk.iters ch.block ∧ Blk.stages ch.block = 0 then
    { ch with begun := true, todo := iterChunks ch.block ch.sw ch.dw ch.iter }
  else ch

/-- The check of a copy chunk at both ends: source for read, destination for write (R292). Of a chunk refused at both the record names the
source (log entry 82). -/
def copyCheck (s : State) (g : Nat) (ch : Channel) (c : Chunk) : Check × Bool :=
  match chunkCheck s ch.sw (tenantOn s g) false c.src c.len, chunkCheck s ch.dw (tenantOn s g) true c.dst c.len with
  | .wait, _ => (.wait, false)
  | _, .wait => (.wait, false)
  | .fail, _ => (.fail, false)
  | .pass, .fail => (.fail, true)
  | .pass, .pass => (.pass, false)

/-- Whether a chunk's local source and local destination lie in one bank of the core (R294). -/
def sameBank (g : Nat) (c : Chunk) : Bool :=
  isSpad c.src && isSpad c.dst && slotOf c.src == g && slotOf c.dst == g && offOf c.src / 2 ^ 19 == offOf c.dst / 2 ^ 19

/-- A channel without its first chunk to issue; the iteration's last one ends it (R290). -/
def popChunk (ch : Channel) : Channel :=
  let l := ch.todo.tail
  if l.isEmpty then { ch with todo := [], begun := false, iter := ch.iter + 1 } else { ch with todo := l }

/-- Whether a chunk of a lock-step pair's copy engine lands outside the pair: it passes through the release buffer (R281). -/
def outsidePair (s : State) (g : Nat) (c : Chunk) : Bool := (coreAt s g).lock.isSome && !(isSpad c.dst && slotOf c.dst / 2 == g / 2)

/-- Whether a chunk makes a local read, which the banks of the core's own scratchpad may hold back (R160, R294, log entry 84). -/
def readsLocal (g : Nat) (c : Chunk) : Bool := ownBytes g c.src

/-- Whether a chunk finds the release buffer full (R212, R281). -/
def releaseFull (s : State) (g : Nat) (c : Chunk) : Bool :=
  outsidePair s g c && ((coreAt s g).lock.map fun l => decide (64 ≤ l.release.length)).getD false

/-- The issue of a channel's next chunk: it reads its source, or its check fails (R292, R302, R409). The cycles in which bank arbitration
holds it back are a free value (R294). -/
def issueChunk (s : State) (g n : Nat) (ch : Channel) (c : Chunk) : State :=
  let s := updCore s g fun q => { q with rr := (n + 1) % 96 }
  match copyCheck s g ch c with
  | (.wait, _) => s
  | (.fail, dst) =>
    let w := if dst then ch.dw else ch.sw
    copyFault (setChan s g n ch) g ch 3 0x10 (regionAux w) (if dst then c.dst else c.src) (if dst then Blk.dwin ch.block else Blk.swin ch.block)
  | (.pass, _) =>
    if poisonedIn s c.src c.len then copyFault (setChan s g n ch) g ch 5 3 0 (poisonedAt s c.src c.len) (Blk.swin ch.block)
    else
      let r := fresh s
      let f : CopyFlight := { id := r.1, chunk := c, bytes := readBytes s c.src c.len, hole := anyHole s c.src c.len || anyHole s c.dst c.len }
      let hold (q : Core) : Core := if outsidePair s g c then { q with lock := q.lock.map fun l => { l with release := l.release ++ [r.1] } } else q
      setChan (updCore r.2 g hold) g n { popChunk ch with
        flight := ch.flight ++ [f], bc := ch.bc + (if sameBank g c then 1 else 0) + (if readsLocal g c then Config.freeHeld r.1 else 0) }

/-- The active channel that issues next, round-robin in channel order, with its chunk (R291). A channel that waits with state 3 for room
for a record of an iteration issues on (log entry 77). A chunk reads its source behind what fences have passed to its bank (R384). -/
def nextChannel (s : State) (g : Nat) : Option (Nat × Channel × Chunk) :=
  let c := coreAt s g
  (List.range 96).findSome? fun i =>
    let n := (c.rr + i) % 96
    let ch := beginIter (chanAt c n)
    match ch.todo with
    | [] => none
    | k :: _ => if ch.st = 1 ∧ (copyCheck s g ch k).1 ≠ .wait ∧ releaseFull s g k = false ∧ pathClear s g s.nextId [(k.src, k.len)] = true then some (n, ch, k) else none

/-- COPY_CHUNK_ISSUE (R291, R292). -/
def stepCopyIssue (s : State) (g : Nat) : Option State :=
  if !engineOn s g || !channelsRun s g then none
  else (nextChannel s g).map fun p => issueChunk s g p.1 p.2.1 p.2.2

/-- COPY_CHUNK_ISSUE (R291). -/
def execCopyChunkIssue (g : Nat) (s : State) : Host.Outcome State Fault Refusal := device "COPY_CHUNK_ISSUE" (stepCopyIssue s g)

/-- The first chunk of an unringed walk that has not issued. -/
def nextChunk (ch : Channel) : Option Chunk := (beginIter { ch with st := 1 }).todo.head?

/-- The watermark of a channel: the lowest address not yet landed, in a walk that ascends strictly (R293). -/
def watermark (ch : Channel) : Nat :=
  let next := (nextChunk ch).map fun c => c.dst
  let l := (unlanded ch).map (fun f => f.chunk.dst) ++ next.toList
  l.foldl min ch.env.2

/-- A landing's effect on its channel: counter, landed range, watermark (R293, R298, R407). -/
def noteLanding (s : State) (g n : Nat) (ch : Channel) (f : CopyFlight) : Channel :=
  let ch := { ch with
    flight := ch.flight.filter fun q => q.id != f.id, nb := ch.nb + f.chunk.len, landed := chanLanding s g n ch f.chunk.dst f.chunk.len }
  if Blk.guard ch.block then { ch with wm := watermark ch } else ch

/-- COPY_CHUNK_LANDING: chunk i of those in flight lands, each word full, behind what fences have passed to its bank; a poisoned word takes only
a whole write, and the chunk then never lands (R173, R292, R384, R409). -/
def stepCopyLanding (s : State) (g n i : Nat) : Option State :=
  let ch := chanAt (coreAt s g) n
  match ch.flight[i]? with
  | none => none
  | some f =>
    let c := f.chunk
    if heldNo s g f.id || !pathClear s g f.id [(c.dst, c.len)] then none
    else if (wordsOf c.dst c.len).any fun w => wordBad s w && !covers c.dst c.len w then
      some (copyFault (setChan s g n { ch with flight := ch.flight.eraseIdx i, lost := ch.lost ++ [f] }) g ch 5 3 0 (poisonedAt s c.dst c.len) (Blk.dwin ch.block))
    else
      let s := landBytes s c.dst f.bytes
      some (mergeFlags (setChan s g n (noteLanding s g n ch f)) g 64 (flagIf f.hole fHole))

/-- COPY_CHUNK_LANDING (R292). -/
def execCopyChunkLanding (g ch i : Nat) (s : State) : Host.Outcome State Fault Refusal := device "COPY_CHUNK_LANDING" (stepCopyLanding s g ch i)

/-- COPY_STAGE_RELEASED: the release word of the next iteration's stage is empty and the iteration begins (R290). -/
def stepStageReleased (s : State) (g n : Nat) : Option State :=
  let ch := chanAt (coreAt s g) n
  let a := releaseWord g ch.block ch.iter
  if ch.st = 1 ∧ ch.begun = false ∧ Blk.stages ch.block ≠ 0 ∧ ch.iter ≤ Blk.iters ch.block ∧ engineOn s g = true ∧ channelsRun s g = true ∧ (holeAt s a || isEmpty s a) = true then
    some (setChan s g n { ch with begun := true, todo := iterChunks ch.block ch.sw ch.dw ch.iter })
  else none

/-- COPY_STAGE_RELEASED (R290). -/
def execCopyStageReleased (g ch : Nat) (s : State) : Host.Outcome State Fault Refusal := device "COPY_STAGE_RELEASED" (stepStageReleased s g ch)

/-- Whether the movement program waits at `cp.halt`: event records are then discarded (R299). -/
def haltWaits (c : Core) : Bool := ((kget? c.strands 64).map fun t => t.wait == some .engine).getD false

/-- Whether a record may enter the event queue (R295). -/
def eventRoom (c : Core) : Bool := haltWaits c || decide (c.events.length < 64)

/-- An event record of a channel (R295). -/
def eventRecord (ch : Channel) (n kind it : Nat) : BitVec 128 :=
  BitVec.ofNat 128 (Blk.tag ch.block * 2 ^ 64 + it * 2 ^ 48 + kind * 2 ^ 32 + n)

/-- An event record entered, or discarded at `cp.halt`. -/
def addEvent (s : State) (g : Nat) (r : BitVec 128) : State :=
  updCore s g fun c => if haltWaits c then c else { c with events := c.events ++ [r] }

/-- A channel with one more iteration ended. -/
def endIter (ch : Channel) (it : Nat) : Channel :=
  let l := sinsert ch.early it
  let k := ((List.range l.length).takeWhile fun j => l.contains (ch.iterDone + j)).length
  { ch with iterDone := ch.iterDone + k, early := l.filter fun j => decide (ch.iterDone + k ≤ j) }

/-- An iteration's kind 1 record, entered, or owed while the queue is full (R290, R295). -/
def iterRecord (s : State) (g n : Nat) (ch : Channel) (it : Nat) : State :=
  if !Blk.ie ch.block then setChan s g n ch
  else if ch.owed.isEmpty && eventRoom (coreAt s g) then addEvent (setChan s g n ch) g (eventRecord ch n 1 it)
  else setChan s g n { ch with owed := ch.owed ++ [it] }

/-- COPY_ITERATION_LANDED: an iteration whose chunks have landed ends, whether or not an earlier one has: its release word takes its
number and is full, and with ie its kind 1 record enters; or a record that waited for room enters (R290, R295). A release word in a hole
takes nothing, and no flag is set for it (R19, log entry 82). -/
def stepIterLanded (s : State) (g n : Nat) : Option State :=
  let ch := chanAt (coreAt s g) n
  if ch.st ≠ 1 || !iterEnds ch then none
  else match endingIter ch, ch.owed with
  | some it, _ =>
    let s := if Blk.stages ch.block = 0 then s else landBytes s (releaseWord g ch.block it) (leBytes 8 it)
    some (iterRecord s g n (endIter ch it) it)
  | none, it :: rest =>
    if eventRoom (coreAt s g) then some (addEvent (setChan s g n { ch with owed := rest }) g (eventRecord ch n 1 it)) else none
  | none, [] => none

/-- COPY_ITERATION_LANDED (R290). -/
def execCopyIterationLanded (g ch : Nat) (s : State) : Host.Outcome State Fault Refusal := device "COPY_ITERATION_LANDED" (stepIterLanded s g ch)

/-- COPY_COMMAND_COMPLETE: every chunk has landed and every iteration has ended; the kind 2 record enters and the channel is
idle (R290). -/
def stepCopyComplete (s : State) (g n : Nat) : Option State :=
  let c := coreAt s g
  let ch := chanAt c n
  let last := Blk.iters ch.block
  if ch.st = 1 ∧ walkDone ch = true ∧ eventRoom c = true then
    some (addEvent (setChan s g n { ch with st := 0 }) g (eventRecord ch n 2 last))
  else none

/-- COPY_COMMAND_COMPLETE (R290). -/
def execCopyCommandComplete (g ch : Nat) (s : State) : Host.Outcome State Fault Refusal := device "COPY_COMMAND_COMPLETE" (stepCopyComplete s g ch)

/-- COPY_ABORT_COMPLETE: an aborted channel's issued chunks have landed; the kind 3 record enters and the channel is idle (R297). -/
def stepCopyAbort (s : State) (g n : Nat) : Option State :=
  let c := coreAt s g
  let ch := chanAt c n
  if ch.st = 4 ∧ (unlanded ch).isEmpty = true ∧ eventRoom c = true then
    some (addEvent (setChan s g n { ch with st := 0 }) g (eventRecord ch n 3 (Blk.iters ch.block)))
  else none

/-- COPY_ABORT_COMPLETE (R297). -/
def execCopyAbortComplete (g ch : Nat) (s : State) : Host.Outcome State Fault Refusal := device "COPY_ABORT_COMPLETE" (stepCopyAbort s g ch)

end Sys2Proof.Machine
end

