-- ==== Sys2Proof/Machine/Rill.lean ====
section
/-! DEFINITION. Major 29 (R322 to R324), the landing of values, the return of credits and the notice of a close (R319, R320,
R324), cascade checkpoints (R326, R327); operand streams (R309 to R312); lock-step checkpoints and mismatches (R212, R213). -/

namespace Sys2Proof.Machine

/-! ### Major 29 -/

/-- The state of the incoming rill; 0 without one (R323). -/
def rcntWord (x : Iss) : Word :=
  if !x.qinOk then 0 else
  let r := x.c.rill
  if r.closed then w64 (2 ^ 62)
  else w64 (rillCount r + (if (takeValues 1 r.inq).1 == [eos] then 2 ^ 63 else 0))

/-- The sender's view of the outgoing rill; 0 without one (R323). -/
def rfreeWord (x : Iss) : Word :=
  if !x.qoutOk then 0 else
  let r := x.c.rill
  if r.outClosed then w64 (2 ^ 62) else w64 r.credits

/-- Reads the state of the incoming rill (R323). -/
def execRcnt (d : BitVec 7) (s : State) : Host.Outcome State Fault Refusal :=
  scalar (.rcnt d) d s fun x _ => (rcntWord x, 0)

/-- Reads the sender's credits and close state (R323). -/
def execRfree (d : BitVec 7) (s : State) : Host.Outcome State Fault Refusal :=
  scalar (.rfree d) d s fun x _ => (rfreeWord x, 0)

/-- Pushes the end-of-stream value as a write of `qout` does; illegal where `qout` is (R324). -/
def execReosDn (s : State) : Host.Outcome State Fault Refusal :=
  word .reosDn s fun x _ s =>
    if !x.qoutOk then illegal s x
    else if !pushReady s x.g x.sid then waitFor s x .rill
    else retire (pushQout s x.g eos) x

/-- The incoming rill closed: waiting items are gone and the notice is on its way to the sender; once (R324). -/
def closeRill (s : State) (g : Nat) : State :=
  if (coreAt s g).rill.closed then s else
  let s' := updCore s g fun c => { c with rill := { c.rill with closed := true, inq := [] } }
  match stageCore s g true with
  | none => s'
  | some h => post (updCore s' h fun c => { c with rill := { c.rill with noticeFlight := true } }) g h .notice

/-- Closes the strand's incoming rill; illegal where `qin` is (R324). -/
def execReosUp (s : State) : Host.Outcome State Fault Refusal :=
  word .reosUp s fun x _ s => if !x.qinOk then illegal s x else retire (closeRill s x.g) x

/-! ### Rill events -/

/-- The bytes of a landing value in its rill slot of the cascade area (R318). -/
def slotBytes (s : State) (g : Nat) (i : RItem) : State :=
  match i with
  | .marker => s
  | .val v => { s with mem := Memory.setBytes s.mem (slotBase g + 0x13FF00 + 8 * ((coreAt s g).rill.slot % 8)) (leBytes 8 v.toNat) }

/-- A rill after its oldest item on the way has landed; a closed rill discards it (R320, R324). -/
def landItem (i : RItem) (rest : List RItem) (r : Rill) : Rill :=
  if r.closed then { r with flight := rest }
  else { r with flight := rest, inq := r.inq ++ [i], slot := if i = .marker then r.slot else (r.slot + 1) % 8 }

/-- A message of a rill as it reaches a core from the stage before (`up`) or after: nothing, while one that the same core sent before it is
still on its way (R305); else the state in which it has been delivered. -/
def rillMessage (s : State) (g : Nat) (up : Bool) (p : Post) : Option State :=
  match stageCore s g up with
  | none => some s
  | some h => if firstOnWay s h g p then some (delivered s h g p) else none

/-- RILL_VALUE_LANDING: the oldest item on its way lands, or is discarded by a closed rill (R305, R320, R324). -/
def stepRillLanding (s : State) (g : Nat) : Option State :=
  match (coreAt s g).rill.flight, rillMessage s g true .value with
  | i :: rest, some s =>
    let s1 := if (coreAt s g).rill.closed then s else slotBytes s g i
    some (updCore s1 g fun c => { c with rill := landItem i rest c.rill })
  | _, _ => none

/-- RILL_VALUE_LANDING (R320). -/
def execRillValueLanding (g : Nat) (s : State) : Host.Outcome State Fault Refusal := device "RILL_VALUE_LANDING" (stepRillLanding s g)

/-- RILL_CREDIT_RETURN: a credit returned by a pop reaches the sender (R319). -/
def stepCreditReturn (s : State) (g : Nat) : Option State :=
  if (coreAt s g).rill.creditFlight = 0 then none
  else (rillMessage s g false .credit).map fun s => updCore s g fun c => { c with rill := { c.rill with credits := c.rill.credits + 1, creditFlight := c.rill.creditFlight - 1 } }

/-- RILL_CREDIT_RETURN (R319). -/
def execRillCreditReturn (g : Nat) (s : State) : Host.Outcome State Fault Refusal := device "RILL_CREDIT_RETURN" (stepCreditReturn s g)

/-- RILL_CLOSE_NOTICE: the sender learns that its outgoing rill is closed (R324). -/
def stepCloseNotice (s : State) (g : Nat) : Option State :=
  if (coreAt s g).rill.noticeFlight then
    (rillMessage s g false .notice).map fun s => updCore s g fun c => { c with rill := { c.rill with noticeFlight := false, outClosed := true } }
  else none

/-- RILL_CLOSE_NOTICE (R324). -/
def execRillCloseNotice (g : Nat) (s : State) : Host.Outcome State Fault Refusal := device "RILL_CLOSE_NOTICE" (stepCloseNotice s g)

/-! ### Cascade checkpoints (R326, R327) -/

/-- What a checkpoint record holds of a strand: scalar registers, the annul count and pending entries; the rest as at
creation (R327, R329). -/
def recordOf (t : Strand) : Strand :=
  { savedStrand t with xptr := [], vregs := [], dregs := [], frames := [], mxFlags := 0, yieldSet := [] }

/-- The checkpoint records of a cascade area written, in a layout that is not architectural (R318, R327). -/
def writeRecords (s : State) (g : Nat) : State := { scribble s (slotBase g + 0x13F000) 0xF00 s.nextId with nextId := s.nextId + 1 }

/-- Taking checkpoint k: the record, the count, and the marker placed behind the stage's own pushes (R326, R327). -/
def takeCheckpoint (s : State) (g : Nat) (st : Stage) (t : Strand) : State :=
  let st' := { st with taken := st.taken + 1, due := false, recs := kset st.recs ((st.taken + 1) % 2) (recordOf t) }
  let s := updCore (writeRecords s g) g fun c => { c with stage := some st' }
  match st.down with
  | none => s
  | some h => post (updCore s h fun c => { c with rill := { c.rill with flight := c.rill.flight ++ [.marker] } }) g h .value

/-- The marker at the head of an incoming rill dropped. -/
def dropMarker (s : State) (g : Nat) : State :=
  updCore s g fun c => { c with rill := { c.rill with inq := c.rill.inq.tail } }

/-- The checkpoints that the last stage of a core's cascade has taken, following the stages down. -/
def lastTaken (s : State) : Nat → Nat → Nat
  | 0, _ => 0
  | f + 1, g => match (coreAt s g).stage with
    | none => 0
    | some st => match st.down with
      | none => st.taken
      | some h => lastTaken s f h

/-- CASCADE_CHECKPOINT: stage 0 takes a due checkpoint once the last stage has taken the one before; a later stage takes it
at the marker; every pending value has arrived first (R326, R327). -/
def stepCascadeCheckpoint (s : State) (g : Nat) : Option State :=
  let c := coreAt s g
  match c.stage, c.strands.find? fun p => p.1 != 64 with
  | some st, some (_, t) =>
    if st.period = 0 || t.wait != some .checkpoint || !(t.pending.all fun p => p.arrived) then none
    else if st.stage = 0 then
      if st.due && st.taken ≤ lastTaken s 16 g then some (takeCheckpoint s g st t) else none
    else if markerNext c.rill then some (dropMarker (takeCheckpoint s g st t) g)
    else none
  | _, _ => none

/-- CASCADE_CHECKPOINT (R326). -/
def execCascadeCheckpoint (g : Nat) (s : State) : Host.Outcome State Fault Refusal := device "CASCADE_CHECKPOINT" (stepCascadeCheckpoint s g)

/-! ### Operand streams (R309 to R312) -/

/-- The ring position of a block. -/
def ringPos (e : BitVec 256) (b : Nat) : Nat := b % max (bits e 88 4) 1

/-- The core whose slot holds a stream's ring. -/
def streamSrc (cl : Nat) (e : BitVec 256) : Nat := cl * 16 + bits e 84 4

/-- The release word of a block (R311). -/
def streamRel (cl : Nat) (e : BitVec 256) (b : Nat) : Nat := slotBase (streamSrc cl e) + bits e 0 21 + 8 * ringPos e b

/-- The data of a block (R311). -/
def streamData (cl : Nat) (e : BitVec 256) (b : Nat) : Nat := slotBase (streamSrc cl e) + bits e 32 21 + 512 * ringPos e b

/-- The subscribers of a stream. -/
def subscribers (e : BitVec 256) : List Nat := (List.range 16).filter fun k => bits e (128 + k) 1 == 1

/-- The fault of a ring block that is poisoned: machine 0x0003 for the task of the ring's core, its image the task's and no word with it
(R124, R409). -/
def streamPoison (s : State) (g a : Nat) : State :=
  raiseEngine s g { faultInfo s g 64 0 5 3 0 (poisonedAt s a 512) 63 with image := ((taskOn s g).map fun t => t.image).getD 0, pcoff := 0 }

/-- STREAM_BLOCK_READ: the next block's release word is full and its bytes are read once (R311, R314). A ring position is not
read again before its block is released. -/
def stepStreamRead (s : State) (cl st : Nat) : Option State :=
  match kget? s.streams (cl * 64 + st) with
  | none => none
  | some r =>
    let a := streamRel cl r.entry r.read
    let d := streamData cl r.entry r.read
    if !r.valid || (bits r.entry 96 32 != 0 && decide (bits r.entry 96 32 ≤ r.read)) ||
       decide (r.released + max (bits r.entry 88 4) 1 ≤ r.read) || isEmpty s a || !engineOn s (streamSrc cl r.entry) || !channelsRun s (streamSrc cl r.entry) then none
    else if poisonedIn s d 512 then some (streamPoison s (streamSrc cl r.entry) d)
    else
      let r' := { r with read := r.read + 1, held := kset r.held r.read (readVec s d) }
      some { s with streams := kset s.streams (cl * 64 + st) r' }

/-- STREAM_BLOCK_READ (R311). -/
def execStreamBlockRead (cl st : Nat) (s : State) : Host.Outcome State Fault Refusal := device "STREAM_BLOCK_READ" (stepStreamRead s cl st)

/-- The blocks that every subscriber has received: they need not be held. -/
def allDelivered (r : Stream) : Nat := (subscribers r.entry).foldl (fun m k => min m (kget r.delivered k 0)) r.read

/-- STREAM_BLOCK_DELIVER: the next block goes to subscriber k within its window: a matrix unit's buffer, or a channel (R311). -/
def stepStreamDeliver (s : State) (cl st k : Nat) : Option State :=
  match kget? s.streams (cl * 64 + st) with
  | none => none
  | some r =>
    let b := kget r.delivered k 0
    let tgt := bits r.entry (144 + 3 * k) 3
    match kget? r.held b with
    | none => none
    | some v =>
      if !r.valid || !channelsRun s (cl * 16 + k) || !(subscribers r.entry).contains k || decide (kget r.taken k 0 + streamWin r.entry k ≤ b) then none
      else
        let r1 := { r with delivered := kset r.delivered k (b + 1) }
        let r2 := { r1 with held := r1.held.filter fun p => decide (allDelivered r1 ≤ p.1) }
        let put (c : Core) : Core :=
          if tgt = 0 then { c with streamBufs := kset c.streamBufs st (kget c.streamBufs st [] ++ [v]) }
          else { c with chanFlight := c.chanFlight ++ [(tgt - 4, v)] }
        some (updCore { s with streams := kset s.streams (cl * 64 + st) r2 } (cl * 16 + k) put)

/-- STREAM_BLOCK_DELIVER (R311). -/
def execStreamBlockDeliver (cl st k : Nat) (s : State) : Host.Outcome State Fault Refusal := device "STREAM_BLOCK_DELIVER" (stepStreamDeliver s cl st k)

/-- STREAM_BLOCK_RELEASE: every subscriber has consumed the block and its release word is set empty (R311). -/
def stepStreamRelease (s : State) (cl st : Nat) : Option State :=
  match kget? s.streams (cl * 64 + st) with
  | none => none
  | some r =>
    let a := streamRel cl r.entry r.released
    if !r.valid || decide (r.read ≤ r.released) || !((subscribers r.entry).all fun k => decide (r.released < kget r.taken k 0)) then none
    else
      let s := { s with streams := kset s.streams (cl * 64 + st) { r with released := r.released + 1 } }
      some (if holeAt s a then s else makeEmpty s a)

/-- STREAM_BLOCK_RELEASE (R311). -/
def execStreamBlockRelease (cl st : Nat) (s : State) : Host.Outcome State Fault Refusal := device "STREAM_BLOCK_RELEASE" (stepStreamRelease s cl st)

/-! ### Lock-step pairs (R212, R213) -/

/-- LOCKSTEP_CHECKPOINT: one is due, or the word of an agent asks for it, and the last has drained (R210, R212). -/
def stepLockCheckpoint (s : State) (g : Nat) : Option State :=
  match (coreAt s g).lock with
  | none => none
  | some l =>
    let asked := (coreAt s g).strands.any fun p => p.2.wait == some .checkpoint && !l.granted.contains p.1
    if (lockDue s g || asked) && !lockDrains s g then lockCheckpoint s g else none

/-- LOCKSTEP_CHECKPOINT (R212). -/
def execLockstepCheckpoint (g : Nat) (s : State) : Host.Outcome State Fault Refusal := device "LOCKSTEP_CHECKPOINT" (stepLockCheckpoint s g)

/-- The undo log replayed newest first, on both scratchpads of the pair (R210, R213). -/
def replayUndo (m : Memory) (l : List (Nat × List Byte)) : Memory :=
  l.reverse.foldl (fun m p => Memory.setBytes (Memory.setBytes m p.1 p.2) (p.1 + 2 ^ 21) p.2) m

/-- The poison marks of the granules of an undo log put back as they stood when these entered (R213, R409). -/
def replayBad (e : List Nat) (l : Lock) : List Nat :=
  let logged (w : Nat) : Bool := l.undo.any fun p => w / 64 * 64 == p.1 || w / 64 * 64 == p.1 + 2 ^ 21
  l.bad.foldl sinsert (e.filter fun w => !logged w)

/-- The faults of a task without those that the work of a core has raised since its checkpoint; a revocation and an error of the core itself
stay (R213, R408, R460). -/
def faultsBack (g n : Nat) (l : List FaultInfo) : List FaultInfo :=
  let late := (l.filter fun f => f.gcn == g).drop n
  l.filter fun f => f.cls == 6 || (f.cls == 5 && f.code == 1) || !late.contains f

/-- Full/empty bits put back as they were noted, on both scratchpads of the pair (R213). -/
def replayBits (e : List Nat) (l : List (Nat × Bool)) : List Nat :=
  l.foldl (fun e p => if p.2 then sinsert (sinsert e p.1) (p.1 + 2 ^ 21) else sdel (sdel e p.1) (p.1 + 2 ^ 21)) e

/-- The accesses after a roll-back: those of other cores, those that the checkpoint released, and those then parked. -/
def accsBack (s : State) (g : Nat) (l : Lock) : List Access :=
  s.accs.filter (fun a => a.gcn != g || (decide (a.id < l.mark) && !l.parked.any fun b => b.id == a.id)) ++ l.parked

/-- The channels after a roll-back: as at the checkpoint, but that the chunks then in flight have landed which have (R213: what the copy
engine wrote stays). One refused since then is in flight again. -/
def channelsBack (s : State) (g : Nat) (l : Lock) : KMap Channel :=
  let landed (f : CopyFlight) : Bool :=
    (flightOf? (coreAt s g) f.id).isNone && !(coreAt s g).channels.any fun p => p.2.lost.any fun q => q.id == f.id
  l.channels.map fun p => (p.1, (p.2.flight.filter landed).foldl (noteLanding s g p.1) p.2)

/-- What the engines of a core have landed, after a roll-back: the copies that landed since the checkpoint stay in memory, what commands
landed since then is undone (R213, R407). -/
def landedBack (l : Lock) (c : Core) : List Landed :=
  ((c.landed.filter fun e => e.chan.isSome) ++ c.channels.filterMap fun p => p.2.landed).foldl joinLanded l.landed

/-- Vectors given back to the queues that they were taken from, oldest first (R213). -/
def giveBack (m : KMap (List Vec)) (l : List (Nat × Vec)) : KMap (List Vec) :=
  l.reverse.foldl (fun m p => kset m p.1 (p.2 :: kget m p.1 [])) m

/-- The streams of a core after a roll-back: the blocks given back are not consumed (R213, R312). -/
def streamsBack (s : State) (g : Nat) (l : Lock) : State :=
  let one (s : State) (key : Nat) : State :=
    match kget? s.streams key with
    | none => s
    | some st => { s with streams := kset s.streams key { st with taken := kset st.taken (kOf g) (kget st.taken (kOf g) 0 - 1) } }
  let s := l.bufUsed.foldl (fun s p => one s (streamKey g p.1)) s
  l.chUsed.foldl (fun s p => match channelStream s g p.1 with
    | some q => one s q.1
    | none => s) s

/-- A core's record after a roll-back. -/
def coreBack (s : State) (g : Nat) (l : Lock) (c : Core) : Core :=
  { c with chans := giveBack c.chans l.chUsed, streamBufs := giveBack c.streamBufs l.bufUsed, landed := landedBack l c, strands := l.strands, deque := l.deque, startQ := l.startQ, kregs := l.kregs, kpend := l.kpend, tiles := l.tiles, vq := l.vq, vrun := none,
           mq := l.mq, mrun := none, vswapStarted := l.swapped, vswapIn := l.swaps ++ c.vswapIn, distBusy := false, distQ := [], tagTab := l.tagTab, victims := l.victims, mailbox := l.mailbox,
           epHalted := l.epHalted, events := l.events, channels := channelsBack s g l,
           lock := some { l with release := [], granted := [], undo := [], bits := [], swaps := [], chUsed := [], bufUsed := [], bad := [], missed := some l.count } }

/-- The roll-back of a pair to its last checkpoint: registers and tiles, the queues and tables of the core, scratchpad bytes, poison and bits, the
vectors and blocks consumed, the release buffer, the faults raised, and the accesses and requests made since (R213). -/
def lockRollback (s : State) (g : Nat) (l : Lock) : State :=
  let as := accsBack s g l
  let s := streamsBack { s with reqs := s.reqs.filter fun r => r.gcn != g } g l
  let s := match (coreAt s g).task with
    | none => s
    | some k => updTask s k fun t => { t with faults := faultsBack g l.faults t.faults }
  updCore { s with mem := replayUndo s.mem l.undo, poison := replayBad s.poison l, empties := replayBits s.empties l.bits, accs := as,
                   waiters := s.waiters.filter (fun n => as.any fun a => a.id == n) ++
                     ((l.parked.filter fun a => a.parked).map fun a => a.id).filter fun n => !s.waiters.contains n } g (coreBack s g l)

/-- The fault of a second mismatch (R213, R404). -/
def mismatchFault (s : State) (g : Nat) (l : Lock) : FaultInfo :=
  { faultInfo s g 63 0 5 2 (w64 l.count) 0 63 with word := 0 }

/-- Whether a pair has been rolled back to its last checkpoint, or to the one before while the last has not completed: its buffer still
drains (R212, R213). -/
def missedBefore (s : State) (g : Nat) (l : Lock) : Bool := l.missed == some l.count || (lockDrains s g && l.missed == some (l.count - 1))

/-- LOCKSTEP_MISMATCH: the first rolls both cores back; one before the next checkpoint completes is the machine fault 0x0002 with the
checkpoint count (R213, R404). A pair whose task has been stopped runs nothing that could differ (R122). -/
def stepLockMismatch (s : State) (g : Nat) : Option State :=
  match (coreAt s g).lock with
  | none => none
  | some l => if stopsOn s g then none else some (if missedBefore s g l then raiseTask s g (mismatchFault s g l) else lockRollback s g l)

/-- LOCKSTEP_MISMATCH (R213). -/
def execLockstepMismatch (g : Nat) (s : State) : Host.Outcome State Fault Refusal := device "LOCKSTEP_MISMATCH" (stepLockMismatch s g)

end Sys2Proof.Machine
end

