-- ==== Sys2Proof/Machine/Strands.lean ====
section
/-! DEFINITION. Strands come and go: window load (R25), creation (R31, R45), admission (R32, R207), frames of the window stack
(R208), stealing (R366 to R370), migration of roaming strands (R371 to R376), the spill area (R374, R377), forwarding (R378). -/

namespace Sys2Proof.Machine

/-! ### Window load (R25, R127) -/

/-- An empty window. -/
def Window.empty : Window := { gen := 0, region := 0, access := 0, limit := 0, base := 0 }

/-- A window over a part of a live region, with the entry's generation (R25). -/
def windowOver (s : State) (region access off ext : Nat) : Window :=
  match kget? s.regions region with
  | none => .empty
  | some r =>
    if r.state = 3 ∨ r.state = 0 then .empty else
    { gen := r.gen, region := BitVec.ofNat 20 region, access := BitVec.ofNat 2 access,
      limit := BitVec.ofNat 48 (r.base + off + ext), base := BitVec.ofNat 48 (r.base + off) }

/-- The window of a region record (R23, R25). -/
def recWindow (s : State) (r : BitVec 128) : Window := windowOver s (bits r 0 20) (bits r 20 2) (bits r 32 48) (bits r 80 48)

/-- The windows of a handler task: the slot, the faulting task's records, the landed list (R127, R407): w9 its slots after the record's, w10
those from the ring's first slot on. Its record holds a copy of those records with nrec 0. -/
def handlerWindows (s : State) (t : Task) : KMap Window :=
  match kget? s.tenants t.tenant with
  | none => []
  | some ten => match ten.ring, t.ringSlots with
    | some ring, slot :: ext =>
      let n1 := (ext.takeWhile fun e => decide (slot < e)).length
      let w0 := (0, windowOver s ring.region 1 (128 * slot) 128)
      let recs := t.declRecs.map fun p => (p.1, recWindow s p.2)
      let w9 := if n1 = 0 then [] else [(9, windowOver s ring.region 1 (128 * ext.headD 0) (128 * n1))]
      let w10 := if n1 < ext.length then [(10, windowOver s ring.region 1 0 (128 * (ext.length - n1)))] else []
      w0 :: recs ++ w9 ++ w10
    | _, _ => []

/-- The windows that every agent of a task is loaded with (R25, R127). -/
def taskWindows (s : State) (t : Task) : KMap Window :=
  match t.kind with
  | .handler _ => handlerWindows s t
  | _ => (List.range t.nrec).map fun i => (i, recWindow s (t.recBits i))

/-- The windows of an agent on a core. -/
def windowsOn (s : State) (g : Nat) : KMap Window := ((taskOn s g).map (taskWindows s)).getD []

/-! ### Creation (R31, R45) -/

/-- A strand or escapement processor as R45 creates it. -/
def Strand.blank : Strand :=
  { roaming := false, shapeW := 0, shapeV := 0, shapeD := 0, carry := 0, gRun := (0, 0), vRun := (0, 0), dRun := (0, 0),
    tid := 0, pc := 0, regs := [], lr := 0, pred := 1, xptr := [], wins := [], flags := 0, rnd := 0, tagc := 1, vregs := [],
    dregs := [], pending := [], annul := 0, hint := .none, counted := false, frames := [], wait := none, yieldSet := [],
    lastIssue := none, moves := 0, mxFlags := 0, stopped := false }

/-- A run that leaves the taken ones alone. -/
def runOk (taken : List (Nat × Nat)) (size p n : Nat) : Bool :=
  decide (p + n ≤ size) && taken.all fun r => r.2 == 0 || n == 0 || decide (p + n ≤ r.1) || decide (r.1 + r.2 ≤ p)

/-- The lowest free contiguous run of n entries in a file (R31). -/
def carve (taken : List (Nat × Nat)) (size n : Nat) : Option Nat :=
  (0 :: taken.map fun r => r.1 + r.2).foldl (fun best p =>
    if runOk taken size p n && (best.map fun b => decide (p < b)).getD true then some p else best) none

/-- The resident strands of a core. -/
def residents (c : Core) : List (Nat × Strand) := c.strands.filter fun p => p.1 != 64

/-- The lowest free sid (R207). -/
def freeSid (c : Core) : Option Nat := (List.range 64).find? fun i => (kget? c.strands i).isNone

/-- Room for a strand of a shape: its three runs and its sid, if they can be carved (R31, R207). -/
structure Room where
  sid : Nat
  g : Nat
  v : Nat
  d : Nat
  deriving DecidableEq, Repr

/-- The room that a core has for n general, v vector and d distribution registers. -/
def roomFor (c : Core) (n v d : Nat) : Option Room :=
  match freeSid c, carve ((residents c).map fun p => p.2.gRun) 2048 n, carve ((residents c).map fun p => p.2.vRun) 128 v,
      carve ((residents c).map fun p => p.2.dRun) 32 d with
  | some i, some g, some v', some d' => some { sid := i, g := g, v := v', d := d' }
  | _, _, _, _ => none

/-- The general registers that a child takes. -/
def Child.width (h : Child) : Nat := if h.roaming then h.carry else h.shapeW

/-- A child as a new strand (R45, R117, R353). -/
def Child.strand (h : Child) (r : Room) (w : KMap Window) : Strand :=
  { Strand.blank with
      roaming := h.roaming, shapeW := h.shapeW, shapeV := h.shapeV, shapeD := h.shapeD, carry := h.carry,
      gRun := (r.g, h.width), vRun := (r.v, h.shapeV), dRun := (r.d, h.shapeD), tid := h.tid, pc := h.pc,
      regs := ([(0, h.g0), (1, h.g1), (2, h.g2)] : KMap Word).filter fun p => p.2 != 0, wins := w }

/-- The carry count of a context's field (R374). -/
def Ctx.width (x : Ctx) : Nat := x.carry

/-- Carried registers from a context. -/
def ctxRegs (k : Nat) (l : List Word) : KMap Word :=
  ((List.range k).map fun i => (i, l.getD i 0)).filter fun p => p.2 != 0

/-- A context as an admitted strand: all it lists, with its windows loaded anew (R376). -/
def Ctx.strand (x : Ctx) (r : Room) (w : KMap Window) : Strand :=
  { Strand.blank with
      roaming := true, carry := x.carry, gRun := (r.g, x.carry), vRun := (r.v, 0), dRun := (r.d, 0),
      tid := x.tid, pc := x.pc, regs := ctxRegs x.carry x.regs, lr := x.lr, pred := x.pred, wins := w, flags := x.flags,
      rnd := x.rnd, tagc := x.tagc, moves := x.moves }

/-! ### Contexts (R374, R377) -/

/-- A context as its 2,048 bits (R374). -/
def Ctx.encode (x : Ctx) : Nat :=
  x.pc.toNat + x.moves.toNat * 2 ^ 288 + x.carry / 8 * 2 ^ 307 + x.rnd.toNat * 2 ^ 309 + x.flags.toNat * 2 ^ 311 +
  x.origin * 2 ^ 324 + x.tagc.toNat * 2 ^ 336 + x.pred.toNat * 2 ^ 352 + x.lr.toNat * 2 ^ 384 + x.tid.toNat * 2 ^ 448 +
  ((List.range 24).map fun i => (x.regs.getD i 0).toNat * 2 ^ (512 + 64 * i)).sum

/-- A context from its 2,048 bits (R374). -/
def Ctx.decode (v : Nat) : Ctx :=
  { regs := (List.range 24).map fun i => w64 (v / 2 ^ (512 + 64 * i)), tid := w64 (v / 2 ^ 448), lr := w64 (v / 2 ^ 384),
    pred := BitVec.ofNat 32 (v / 2 ^ 352), tagc := BitVec.ofNat 16 (v / 2 ^ 336), origin := v / 2 ^ 324 % 4096,
    flags := BitVec.ofNat 9 (v / 2 ^ 311), rnd := BitVec.ofNat 2 (v / 2 ^ 309), carry := 8 * (v / 2 ^ 307 % 4),
    moves := BitVec.ofNat 16 (v / 2 ^ 288), pc := BitVec.ofNat 48 v }

/-- The address of a spill slot (R377). -/
def spillAddr (g i : Nat) : Nat := slotBase g + 0x13C000 + 256 * i

/-- Bytes that hardware itself puts into a slot, holes or not; words written whole lose their poison. -/
def pokeRaw (s : State) (a : Nat) (l : List Byte) : State :=
  { s with mem := Memory.setBytes s.mem a l, poison := s.poison.filter fun w => !covers a l.length w }

/-- The value of n bytes that hardware itself reads from a slot. -/
def peekRaw (s : State) (a n : Nat) : Nat := leNat ((List.range n).map fun i => Memory.get s.mem (a + i))

/-- The context in a spill slot. -/
def spillCtx (s : State) (g i : Nat) : Ctx := Ctx.decode (peekRaw s (spillAddr g i) 256)

/-! ### Admission (R207, R370) -/

/-- An admission candidate. -/
inductive Cand where
  | stolen (h : Child)
  | start (h : Child)
  | context (x : Ctx) (queued : Bool)
  | spilled (x : Ctx)
  | bottom (h : Child)
  deriving DecidableEq, Repr

/-- The candidates in their order: stolen entries, the start queue, contexts with spilled ones first, the deque's bottom (R207, R370,
R375). -/
def candidates (s : State) (g : Nat) : List Cand :=
  let c := coreAt s g
  (c.stolen.head?.map Cand.stolen).toList ++ (c.startQ.head?.map Cand.start).toList ++
  (match c.refilled, c.spilled, c.arrivals with
    | some x, _, _ => [.context x false]
    | none, i :: _, _ => [.spilled (spillCtx s g i)]
    | none, [], x :: _ => [.context x true]
    | none, [], [] => []) ++
  (c.deque.getLast?.map Cand.bottom).toList

/-- The room for a candidate. -/
def candRoom (c : Core) : Cand → Option Room
  | .stolen h => roomFor c h.width h.shapeV h.shapeD
  | .start h => roomFor c h.width h.shapeV h.shapeD
  | .bottom h => roomFor c h.width h.shapeV h.shapeD
  | .context x _ => roomFor c x.carry 0 0
  | .spilled x => roomFor c x.carry 0 0

/-- The general registers that a candidate takes. -/
def candWidth : Cand → Nat
  | .stolen h => h.width
  | .start h => h.width
  | .bottom h => h.width
  | .context x _ => x.carry
  | .spilled x => x.carry

/-- The first candidate that fits, with its room (R207). -/
def firstFit (c : Core) : List Cand → Option (Cand × Room)
  | [] => none
  | k :: r => match candRoom c k with
    | some m => some (k, m)
    | none => firstFit c r

/-- A candidate taken from where it waited. -/
def takeCand (c : Core) : Cand → Core
  | .stolen _ => { c with stolen := c.stolen.tail }
  | .start _ => { c with startQ := c.startQ.tail }
  | .context _ true => { c with arrivals := c.arrivals.tail }
  | .context _ false => { c with refilled := none }
  | .spilled _ => c
  | .bottom _ => { c with deque := c.deque.dropLast }

/-- A candidate as a strand. -/
def candStrand (r : Room) (w : KMap Window) : Cand → Strand
  | .stolen h => h.strand r w
  | .start h => h.strand r w
  | .context x _ => x.strand r w
  | .spilled x => x.strand r w
  | .bottom h => h.strand r w

/-- Whether a core may take one in: its task runs on undisturbed, and its resident strands, an outstanding steal among them,
number less than the cap (R207, R370, R450). -/
def mayAdmit (s : State) (g : Nat) : Bool :=
  match taskOn s g with
  | none => false
  | some t =>
    let c := coreAt s g
    t.goesOn g &&
      decide ((residents c).length + (if c.steal.asked.isSome then 1 else 0) < (if t.period = 0 then t.cap else 1))

/-- The candidate that a core admits now, with its room; entries held by frames count as free (R207). -/
def nextIn (s : State) (g : Nat) : Option (Cand × Room) := if mayAdmit s g then firstFit (coreAt s g) (candidates s g) else none

/-- STRAND_ADMISSION: the first candidate whose runs can be carved, the frames in its way having been spilled (R207). A spilled context
is first read back (R375). -/
def stepAdmission (s : State) (g : Nat) : Option State :=
  match nextIn s g with
  | none => none
  | some (.spilled _, _) => none
  | some (k, r) =>
    if spareEntries (coreAt s g) < candWidth k then none
    else
      let t := candStrand r (windowsOn s g) k
      some (updCore s g fun c => { takeCand c k with strands := kset c.strands r.sid t })

/-- STRAND_ADMISSION (R207). -/
def execStrandAdmission (g : Nat) (s : State) : Host.Outcome State Fault Refusal := device "STRAND_ADMISSION" (stepAdmission s g)

/-! ### Frames (R208) -/

/-- The entries that a strand waits for at `enter` or `leave`: those of the frame it pushes, or of its spilled top frame (R113, R208). -/
def frameNeed (s : State) (t : Strand) : Nat :=
  match decodeWord (fetch s t.pc), t.frames with
  | .ok (.enter k), _ => frameK k + 2
  | _, f :: _ => f.k + 2
  | _, [] => 0

/-- Whether entries are needed that frames hold: a strand waits at `enter` or `leave` for more than are spare, or a candidate fits but for
frames (R208). -/
def entriesNeeded (s : State) (g : Nat) : Bool :=
  let n := spareEntries (coreAt s g)
  (residents (coreAt s g)).any (fun p => p.2.wait == some .frame && decide (n < frameNeed s p.2)) ||
  (match nextIn s g with
    | some q => decide (n < candWidth q.1)
    | none => false)

/-- The oldest resident frame of a core: the strand that holds it and its age (R208). -/
def oldestFrame (c : Core) : Option (Nat × Nat) :=
  ((residents c).flatMap fun p => (p.2.frames.filter fun f => f.resident).map fun f => (p.1, f.age)).foldl
    (fun best q => if (best.map fun b => decide (q.2 < b.2)).getD true then some q else best) none

/-- The lowest resident frame of a stack spilled; the top is the head of the list. -/
def spillLowest : List Frame → List Frame
  | [] => []
  | f :: r => if r.any fun q => q.resident then f :: spillLowest r else { f with resident := false } :: r

/-- FRAME_SPILL: the oldest resident frame of the core, the lowest of its strand, moves to its stack area (R208, R115). The frame's bytes
there can be read by nobody. -/
def stepFrameSpill (s : State) (g : Nat) : Option State :=
  if !entriesNeeded s g then none else
  match oldestFrame (coreAt s g) with
  | none => none
  | some (sid, _) => some (updStrand s g sid fun t => { t with frames := spillLowest t.frames })

/-- FRAME_SPILL (R208). -/
def execFrameSpill (g : Nat) (s : State) : Host.Outcome State Fault Refusal := device "FRAME_SPILL" (stepFrameSpill s g)

/-- FRAME_REFILL: the spilled top frame of a strand that waits for it comes back, and the strand is ready (R208). -/
def stepFrameRefill (s : State) (g sid : Nat) : Option State :=
  match strandAt? s g sid with
  | none => none
  | some t => match t.frames with
    | [] => none
    | f :: r =>
      if t.wait != some .frame || f.resident || decide (spareEntries (coreAt s g) < f.k + 2) then none
      else some (updStrand s g sid fun t => { t with frames := { f with resident := true } :: r, wait := none })

/-- FRAME_REFILL (R208). -/
def execFrameRefill (g sid : Nat) (s : State) : Host.Outcome State Fault Refusal := device "FRAME_REFILL" (stepFrameRefill s g sid)

/-! ### Stealing (R368 to R370) -/

/-- The stealing domain of the task on a core: none in a lock-step task (R214, R368). -/
def stealDomain (t : Task) : Nat := if t.lockStep then 0 else t.f 1699 2

/-- The victims of a core, in the order in which it asks them: ascending, starting after the last one asked (R368, R369). -/
def victimsOf (t : Task) (g : Nat) (last : Nat) : List Nat :=
  let l := t.members.filter fun h => h != g && (match stealDomain t with
    | 1 => clusterOf h == clusterOf g
    | 2 => dieOf h == dieOf g
    | _ => false)
  (l.filter fun h => decide (last < h)) ++ l.filter fun h => decide (h ≤ last)

/-- The conditions of a thief (R369). -/
def isThief (s : State) (g : Nat) : Bool :=
  match taskOn s g with
  | none => false
  | some t =>
    let c := coreAt s g
    stealDomain t != 0 && decide ((residents c).length < t.cap) && c.startQ.isEmpty && c.arrivals.isEmpty &&
      c.spilled.isEmpty && c.refilled.isNone && c.deque.isEmpty && c.steal.asked.isNone &&
      t.goesOn g

/-- A steal request sent to the next victim (R369). -/
def sendSteal (s : State) (g : Nat) : Option State :=
  let c := coreAt s g
  if !isThief s g || c.steal.backoff.isSome then none else
  match ((taskOn s g).map fun t => victimsOf t g (c.steal.last.getD g)).getD [] with
  | [] => none
  | v :: _ => some (post (updCore s g fun c => { c with steal := { c.steal with asked := some v, last := some v } }) g v .steal)

/-- STEAL_REQUEST: a thief sends its request, or the request sent reaches the victim, which takes its top entry or answers
empty (R367, R369). -/
def stepStealRequest (s : State) (g : Nat) : Option State :=
  let c := coreAt s g
  match c.steal.asked, c.steal.answer with
  | none, _ => sendSteal s g
  | some v, none =>
    if !firstOnWay s g v .steal then none else
    let top := (coreAt s v).deque.head?
    let s1 := updCore (delivered s g v .steal) v fun c => { c with deque := c.deque.tail }
    some (post (updCore s1 g fun c => { c with steal := { c.steal with answer := some top } }) v g .stolen)
  | some _, some _ => none

/-- STEAL_REQUEST (R369). -/
def execStealRequest (g : Nat) (s : State) : Host.Outcome State Fault Refusal := device "STEAL_REQUEST" (stepStealRequest s g)

/-- A thief's record after an empty answer at a cycle: a full cycle of them makes it back off (R369). -/
def emptyAnswer (now : BitVec 64) (victims : Nat) (q : Steal) : Steal :=
  let n := q.empties + 1
  if victims ≤ n then { q with asked := none, answer := none, empties := 0, backoff := some now }
  else { q with asked := none, answer := none, empties := n }

/-- STEAL_REPLY: the entry becomes the thief's first candidate, or the empty answer counts (R369, R370). -/
def stepStealReply (s : State) (g : Nat) : Option State :=
  let v := (coreAt s g).steal.asked.getD g
  if !firstOnWay s v g .stolen then none else
  let s := delivered s v g .stolen
  match (coreAt s g).steal.answer with
  | none => none
  | some (some h) =>
    some (updCore s g fun c => { c with stolen := c.stolen ++ [h], steal := { c.steal with asked := none, answer := none, empties := 0 } })
  | some none =>
    let n := ((taskOn s g).map fun t => (victimsOf t g g).length).getD 0
    some (updCore s g fun c => { c with steal := emptyAnswer s.clk n c.steal })

/-- STEAL_REPLY (R370). -/
def execStealReply (g : Nat) (s : State) : Host.Outcome State Fault Refusal := device "STEAL_REPLY" (stepStealReply s g)

/-- STEAL_BACKOFF_EXPIRY: 256 cycles have passed, and the thief may ask again (R369). -/
def stepStealBackoff (s : State) (g : Nat) : Option State :=
  match (coreAt s g).steal.backoff with
  | none => none
  | some t => if 256 ≤ (s.clk - t).toNat then some (updCore s g fun c => { c with steal := { c.steal with backoff := none } }) else none

/-- STEAL_BACKOFF_EXPIRY (R369). -/
def execStealBackoffExpiry (g : Nat) (s : State) : Host.Outcome State Fault Refusal := device "STEAL_BACKOFF_EXPIRY" (stepStealBackoff s g)

/-! ### Departure (R372) -/

/-- The context of a departing strand: its registers within the carry count, and the address of its word or of the hint that
governs it (R372, R374). The migration that it makes is counted. -/
def departure (t : Strand) (g : Nat) : Ctx :=
  { regs := (List.range 24).map fun i => if i < t.carry then kget t.regs i 0 else 0, tid := t.tid, lr := t.lr, pred := t.pred,
    tagc := t.tagc, origin := g, flags := t.flags, rnd := t.rnd, carry := t.carry, moves := t.moves + 1, pc := savePc t }

/-! ### Migration (R373) -/

/-- MIGRATION_DEPARTURE: a strand at a migrating word whose pending values have arrived and whose accesses are all performed
and acknowledged sends its context (R373 steps 1 and 2). -/
def stepDeparture (s : State) (g sid : Nat) : Option State :=
  match strandAt? s g sid with
  | none => none
  | some t => match t.wait with
    | some (.migrate h) =>
      let quiet := ((taskOn s g).map fun k => k.goesOn g).getD false
      if t.stopped || !quiet || !t.pending.isEmpty || !(accsOf s g sid).isEmpty || s.flights.any (fun f => f.src == g && f.sid == sid) then none
      else
        let (n, s) := fresh s
        some (post { s with flights := s.flights ++ [{ id := n, src := g, sid := sid, dst := h, ctx := departure t g, phase := .sent }] } g h (.context n))
    | _ => none

/-- MIGRATION_DEPARTURE (R373). -/
def execMigrationDeparture (g sid : Nat) (s : State) : Host.Outcome State Fault Refusal := device "MIGRATION_DEPARTURE" (stepDeparture s g sid)

/-- A flight by its number, in a phase. -/
def flightAt? (s : State) (n : Nat) (p : FlightPhase) : Option Flight := s.flights.find? fun f => f.id == n && f.phase == p

/-- The flight with a number whose answer, in a phase, is the first of its messages on the way back (R305). -/
def answered? (s : State) (n : Nat) (p : FlightPhase) : Option Flight :=
  (flightAt? s n p).filter fun f => firstOnWay s f.dst f.src (.contextAnswer n)

/-- A flight's phase changed. -/
def setPhase (s : State) (n : Nat) (p : FlightPhase) : State :=
  { s with flights := s.flights.map fun f => if f.id = n then { f with phase := p } else f }

/-- CONTEXT_MESSAGE: the target takes the context into its arrival queue of 32, or refuses it (R305, R373 step 3, R375). -/
def stepContext (s : State) (n : Nat) : Option State :=
  match flightAt? s n .sent with
  | none => none
  | some f =>
    if !firstOnWay s f.src f.dst (.context n) then none else
    let s := delivered s f.src f.dst (.context n)
    if (coreAt s f.dst).arrivals.length < 32 then
      some (post (setPhase (updCore s f.dst fun c => { c with arrivals := c.arrivals ++ [f.ctx] }) n .accepted) f.dst f.src (.contextAnswer n))
    else some (post (setPhase s n .refused) f.dst f.src (.contextAnswer n))

/-- CONTEXT_MESSAGE (R373). -/
def execContextMessage (n : Nat) (s : State) : Host.Outcome State Fault Refusal := device "CONTEXT_MESSAGE" (stepContext s n)

/-- MIGRATION_REFUSAL: the old core learns of the refusal (R373 step 3). -/
def stepRefusal (s : State) (n : Nat) : Option State :=
  (answered? s n .refused).map fun f =>
    let s1 := setPhase (delivered s f.dst f.src (.contextAnswer n)) n .backoff
    { s1 with flights := s1.flights.map fun f => if f.id = n then { f with since := s.clk } else f }

/-- MIGRATION_REFUSAL (R373). -/
def execMigrationRefusal (n : Nat) (s : State) : Host.Outcome State Fault Refusal := device "MIGRATION_REFUSAL" (stepRefusal s n)

/-- MIGRATION_RESEND: the context is sent again 256 cycles after its refusal (R373 step 3). -/
def stepResend (s : State) (n : Nat) : Option State :=
  ((flightAt? s n .backoff).filter fun f => decide (256 ≤ (s.clk - f.since).toNat)).map fun f => post (setPhase s n .sent) f.src f.dst (.context n)

/-- MIGRATION_RESEND (R373). -/
def execMigrationResend (n : Nat) (s : State) : Host.Outcome State Fault Refusal := device "MIGRATION_RESEND" (stepResend s n)

/-- A core's forwarding entries with a new one; of 16 the oldest goes (R378). -/
def addFwd (l : List Fwd) (e : Fwd) : List Fwd := (if 16 ≤ l.length then l.tail else l) ++ [e]

/-- MIGRATION_ACCEPTANCE: the old core frees the strand's sid and runs and enters a forwarding entry (R373 step 4, R378). -/
def stepAcceptance (s : State) (n : Nat) : Option State :=
  (answered? s n .accepted).map fun f =>
    let s1 := { freeSlot (delivered s f.dst f.src (.contextAnswer n)) f.src f.sid with flights := s.flights.filter fun q => q.id != n }
    updCore s1 f.src fun c => { c with fwds := addFwd c.fwds { tid := f.ctx.tid, sid := f.sid, dst := f.dst, since := s.clk } }

/-- MIGRATION_ACCEPTANCE (R373). -/
def execMigrationAcceptance (n : Nat) (s : State) : Host.Outcome State Fault Refusal := device "MIGRATION_ACCEPTANCE" (stepAcceptance s n)

/-- Whether the head of the arrival queue is the context that a core admits now (R207, R375). -/
def admitsArrival (s : State) (g : Nat) : Bool :=
  match nextIn s g with
  | some (.context _ true, _) => true
  | _ => false

/-- CONTEXT_SPILL: the head of the arrival queue, which is not admitted, moves to the lowest free slot of the spill area (R375, R377). -/
def stepSpill (s : State) (g : Nat) : Option State :=
  let c := coreAt s g
  if admitsArrival s g then none else
  match c.arrivals, (List.range 64).find? fun i => !c.spilled.contains i with
  | x :: r, some i =>
    some (pokeRaw (updCore s g fun c => { c with arrivals := r, spilled := c.spilled ++ [i] }) (spillAddr g i) (leBytes 256 x.encode))
  | _, _ => none

/-- CONTEXT_SPILL (R375). -/
def execContextSpill (g : Nat) (s : State) : Host.Outcome State Fault Refusal := device "CONTEXT_SPILL" (stepSpill s g)

/-- CONTEXT_REFILL: the oldest spilled context is read back, once it can be admitted (R375). -/
def stepRefill (s : State) (g : Nat) : Option State :=
  match nextIn s g with
  | some (.spilled x, _) => some (updCore s g fun c => { c with refilled := some x, spilled := c.spilled.tail })
  | _ => none

/-- CONTEXT_REFILL (R375). -/
def execContextRefill (g : Nat) (s : State) : Host.Outcome State Fault Refusal := device "CONTEXT_REFILL" (stepRefill s g)

/-- FORWARDING_ENTRY_EXPIRY: the oldest entry lapses 1,024 cycles after its departure (R378). -/
def stepFwdExpiry (s : State) (g : Nat) : Option State :=
  match (coreAt s g).fwds with
  | [] => none
  | e :: r => if 1024 ≤ (s.clk - e.since).toNat then some (updCore s g fun c => { c with fwds := r }) else none

/-- FORWARDING_ENTRY_EXPIRY (R378). -/
def execForwardingEntryExpiry (g : Nat) (s : State) : Host.Outcome State Fault Refusal := device "FORWARDING_ENTRY_EXPIRY" (stepFwdExpiry s g)

/-- The cores that the forwarding entries of a task lead to from some cores on, in `n` moves at most (R378). -/
def fwdCores (s : State) (tid : Word) : Nat → List Nat → List Nat
  | 0, l => l
  | n + 1, l => fwdCores s tid n (l.foldl (fun acc h => ((coreAt s h).fwds.filter fun e => e.tid == tid).foldl (fun acc e => sinsert acc e.dst) acc) l)

/-- Whether a forwarding entry of a core leads to a strand: one of its task, on its target or where the entries of the cores in between lead
on, and none that has taken the former sid since (R378). -/
def leadsTo (s : State) (g : Nat) (e : Fwd) (h sid : Nat) : Bool :=
  ((strandAt? s h sid).map fun t => t.roaming && t.tid == e.tid).getD false && !(h == g && sid == e.sid) &&
  (fwdCores s e.tid s.cores.length [e.dst]).contains h

/-- FORWARDED_MESSAGE: a reply for access n that reaches a core that its strand has left goes on, by the core's forwarding entries, to the strand
that still waits for it, in the order of messages; one for an access already completed, a copy, is dropped (R305, R378). -/
def stepForwarded (s : State) (g n : Nat) : Option State :=
  if (coreAt s g).fwds.isEmpty || (accAt? s n).isSome then none
  else match findPending s n with
    | some q => if answerInTurn s n && (coreAt s g).fwds.any (fun e => leadsTo s g e q.1 q.2) then some (arrive s q.1 q.2 n) else none
    | none => some s

/-- FORWARDED_MESSAGE (R378). -/
def execForwardedMessage (g n : Nat) (s : State) : Host.Outcome State Fault Refusal := device "FORWARDED_MESSAGE" (stepForwarded s g n)

end Sys2Proof.Machine
end

