-- ==== Sys2Proof/Machine/Tasks.lean ====
section
/-! DEFINITION. Task records and handles (R336 to R338), the checks at acceptance (R24, R339, R351), major 31 (R346 to R349),
launch queues and doorbells (R476, R477), fences and completion rings (R364, R478). -/

namespace Sys2Proof.Machine

/-! ### Major 31 -/

/-- A strand's request to the regulator: it leaves the rotation until it is answered (R347, R348). -/
def askRegulator (s : State) (x : Iss) (d : RCode) (spawn : Bool) (w : Window) (v : Word) : State :=
  let n := s.nextId
  let r : Req := { id := n, gcn := x.g, sid := x.sid, d := d, spawn := spawn, win := w, arg := v, answer := none }
  waitFor { s with nextId := n + 1, reqs := s.reqs ++ [r] } x (.request n)

/-- Submits a task record from window n, once every earlier access of the strand is performed; in a lock-step pair after a
checkpoint (R210, R347). -/
def execTspawn (d : BitVec 7) (a : BitVec 7) (n : BitVec 4) (s : State) : Host.Outcome State Fault Refusal :=
  let done (s : State) (x : Iss) : Bool := (accsOf s x.g x.sid).all fun q => q.performed
  wordG (.tspawn d a n) s (fun x => if x.c.lock.isSome || done s x then none else some .access) fun x vs s1 =>
    afterCheckpoint s1 x fun s2 =>
      if done s2 x then askRegulator s2 x d true (x.t.win n.toNat) (arg vs 0) else waitFor s1 x .access

/-- Asks for the state of the task that ga names (R348). -/
def execTstat (d : BitVec 7) (a : BitVec 7) (s : State) : Host.Outcome State Fault Refusal :=
  word (.tstat d a) s fun x vs s1 => askRegulator s1 x d false .empty (arg vs 0)

/-! ### Handles (R337, R338, R465) -/

/-- The slot of a handle. -/
def handleSlot (h : Word) : Nat := bits h 32 16

/-- The task that a handle of a tenant names; none if it is stale, 0 or another tenant's (R337, R348). -/
def taskByHandle (s : State) (tenant : Nat) (h : Word) : Option (Nat × Task) :=
  match kget? s.tasks (handleSlot h) with
  | none => none
  | some t => if t.handle = h ∧ t.tenant = tenant ∧ h ≠ 0 then some (handleSlot h, t) else none

/-- What `tstat` gives (R348). -/
def tstatWord (s : State) (tenant : Nat) (h : Word) : Word :=
  match taskByHandle s tenant h with
  | none => 15
  | some p => w64 p.2.state

/-- The handle of a key slot (R465). -/
def keyHandle (tenant : Nat) (gen : BitVec 16) (slot : Nat) : Word := w64 (tenant * 2 ^ 58 + gen.toNat * 2 ^ 32 + slot)

/-- Whether a tenant holds the key that a handle names (R465). -/
def keyHeld (s : State) (tenant : Nat) (h : Word) : Bool :=
  let slot := bits h 0 12
  match kget? s.keys slot with
  | none => false
  | some k => match k.held with
    | none => false
    | some q => q.1 == tenant && h == keyHandle tenant k.gen slot

/-- The use number after one (R337). -/
def nextUse (u : Nat) : Nat := if (u + 1) % 2 ^ 32 = 0 then 1 else (u + 1) % 2 ^ 32

/-! ### Acceptance (R339, R351) -/

/-- A field of a task record (R336). -/
def rf (r : BitVec 2048) (lo len : Nat) : Nat := bits r lo len

/-- Region record i of a task record. -/
def rrec (r : BitVec 2048) (i : Nat) : BitVec 128 := BitVec.ofNat 128 (rf r (128 * i) 128)

/-- A number put into a rising list without repeats, for a whole list. -/
def sortNat (l : List Nat) : List Nat := l.foldl sinsert []

/-- The named cores of a task record: those whose slots hold its scratchpad regions, ascending (R351). -/
def namedCores (s : State) (r : BitVec 2048) : List Nat :=
  sortNat ((List.range (rf r 1708 4)).filterMap fun i =>
    match kget? s.regions (bits (rrec r i) 0 20) with
    | none => none
    | some e => if isSpad e.base then some (slotOf e.base) else none)

/-- The members that cluster number i of a gang takes (R350). -/
def shareOf (cores span i : Nat) : Nat := cores / span + (if i < cores % span then 1 else 0)

/-- Whether named cores cannot be placed (R351). -/
def namedRefused (s : State) (r : BitVec 2048) : Bool :=
  let l := namedCores s r
  let cores := rf r 1672 12
  let span := rf r 1684 8
  let cls := sortNat (l.map clusterOf)
  l.any (coreDisabled s) || decide (cores < l.length) || decide (span < cls.length) ||
  (cls.zipIdx.any fun p => decide (shareOf cores span p.2 < (l.filter fun g => clusterOf g == p.1).length)) ||
  (rf r 1701 1 == 1 && l.any fun g => g % 2 == 1)

/-- The cluster maximum of a tenant's partition (R422). -/
def clusterMax (s : State) (tenant : Nat) : Nat :=
  match kget? s.tenants tenant with
  | none => 0
  | some t => match t.part with
    | none => 0
    | some p => bits p 176 16

/-- A fault of region record i: codes 1 to 5 in their order (R24, R339). -/
def recordFault (s : State) (tenant : Nat) (r : BitVec 128) : List Nat :=
  let reg := kget? s.regions (bits r 0 20)
  (if bits r 22 10 ≠ 0 then [1] else []) ++ (if bits r 20 2 = 0 then [2] else []) ++
  (if s.regionSize ≤ bits r 0 20 then [3] else []) ++
  (match reg with
    | none => [4]
    | some e =>
      (if e.owner ≠ tenant ∨ e.state = 3 ∨ e.state = 0 then [4] else []) ++
      (if e.extent < bits r 32 48 + bits r 80 48 then [5] else []))

/-- Whether a task record breaks code 7: a reserved field, or a regulator field of a spawned record, is not zero (R336, R339). -/
def reservedSet (r : BitVec 2048) (spawned : Bool) : Bool :=
  rf r 1792 256 != 0 || rf r 1732 10 != 0 || rf r 1703 5 != 0 || rf r 1456 12 != 0 ||
  (spawned && (rf r 1760 32 != 0 || rf r 1742 18 != 0 || rf r 1728 4 != 0 || rf r 1536 64 != 0 || rf r 1472 64 != 0))

/-- Every code of R339 that a record breaks; the least one is the refusal. `parent`: the key of a spawning task. -/
def refusals (s : State) (r : BitVec 2048) (tenant : Nat) (parent : Option Word) : List Nat :=
  let nrec := rf r 1708 4
  let cores := rf r 1672 12
  let span := rf r 1684 8
  let lock := rf r 1701 1 == 1
  let period := rf r 1712 16
  let key := w64 (rf r 1344 64)
  let fence := rf r 1328 16
  (List.range (min nrec 8)).flatMap (fun i => recordFault s tenant (rrec r i)) ++
  (if 8 < nrec ∨ (List.range 8).any (fun i => decide (nrec ≤ i) && rrec r i != 0) = true then [6] else []) ++
  (if reservedSet r parent.isSome then [7] else []) ++
  (if rf r 1600 32 = 0 ∨ rf r 1692 7 = 0 ∨ 64 < rf r 1692 7 ∨ rf r 1699 2 = 3 ∨ (nrec ≤ rf r 1468 4 ∧ rf r 1408 48 ≠ 0) then [8] else []) ++
  (if cores = 0 ∨ span = 0 ∨ cores < span ∨ (if lock then 8 else 16) * span < cores then [9] else []) ++
  (if clusterMax s tenant < span then [10] else []) ++
  (if lock ∧ period ≠ 0 ∨ period ≠ 0 ∧ (span ≠ 1 ∨ cores < 2 ∨ 16 < cores) then [11] else []) ++
  (if key ≠ 0 ∧ keyHeld s tenant key = false ∨ (match parent with
      | some k => key != 0 && key != k
      | none => false) = true then [12] else []) ++
  (if fence ≠ 0xFFFF ∧ ((kget? s.tenants tenant).bind fun t => kget? t.fences fence).isNone then [13] else []) ++
  (if namedRefused s r then [14] else [])

/-- The first code of R339 that applies. -/
def refusal (s : State) (r : BitVec 2048) (tenant : Nat) (parent : Option Word) : Option Nat :=
  match refusals s r tenant parent with
  | [] => none
  | c :: l => some (l.foldl min c)

/-- The task slot that a new task takes: the lowest free one (R337). -/
def newSlot (s : State) : Option Nat :=
  match (List.range (s.tasks.length + 1)).find? fun i => (kget? s.tasks i).isNone with
  | some i => if i < 65536 then some i else none
  | none => none

/-- A task just accepted (R336 to R338). -/
def newTask (s : State) (slot use : Nat) (r : BitVec 2048) (tenant queue : Nat) (kind : TaskKind) (launch : BitVec 32) : Task :=
  { record := r, tenant := tenant, queue := queue, kind := kind, launch := launch, handle := w64 (slot * 2 ^ 32 + use), state := 0,
    method := none, image := 0, cursor := 0, order := (s.accepted + 1) * 2 ^ 16, time := s.clk, deps := [], members := [],
    started := false, placedAt := 0, spawnsLeft := [], faults := [], stopped := false, quiet := false, recorded := false,
    completed := false, waitersFree := false, confined := none, bound := none, ringSlots := [], landed := [], consumer := none,
    producer := none, candidates := [], carried := [], quiesce := .no, stopAt := 0, held := false, retry := none, saved := false,
    slotHeld := none }

/-- A task put into the lowest free slot: the slot with the state. -/
def addTask (s : State) (r : BitVec 2048) (tenant queue : Nat) (kind : TaskKind) (launch : BitVec 32) : Option (Nat × State) :=
  (newSlot s).map fun i =>
    let use := nextUse (kget s.slotUse i 0)
    (i, { s with tasks := kset s.tasks i (newTask s i use r tenant queue kind launch), slotUse := kset s.slotUse i use, accepted := s.accepted + 1 })

/-! ### The end of tasks that hang on others (R338) -/

/-- The predecessor handles of a task (R336). -/
def Task.preds (t : Task) : List Word := ((List.range 4).map fun i => w64 (t.f (1024 + 64 * i) 64)).filter fun h => h != 0

/-- Whether a held or converting task hangs on one that is faulted or aborted (R338, R343). -/
def doomed (s : State) (t : Task) : Bool :=
  (t.state == 0 || t.state == 1) && (t.preds.any (fun h => match taskByHandle s t.tenant h with
    | some p => p.2.state == 5 || p.2.state == 6
    | none => false) || t.deps.any fun d => match kget? s.tasks d with
    | some p => p.state == 5 || p.state == 6
    | none => false)

/-- One round of aborts. -/
def abortRound (s : State) : State :=
  { s with tasks := s.tasks.map fun p => if doomed s p.2 then (p.1, { p.2 with state := 6, deps := [] }) else p }

/-- The dependants of faulted and aborted tasks aborted, and theirs in turn (R338). -/
def abortAll (s : State) : State := (List.range s.tasks.length).foldl (fun s _ => abortRound s) s

/-! ### Completion records and fences (R364, R477, R478) -/

/-- The value of a fence: an index of R478, or 4,096 + q for the own fence of queue q. -/
def fenceValue (t : Tenant) (f : Nat) : Option Nat :=
  if f < 4096 then kget? t.fences f else (kget? t.queues (f - 4096)).map fun q => q.fence

/-- A fence set to a value. -/
def setFence (t : Tenant) (f v : Nat) : Tenant :=
  if f < 4096 then { t with fences := kset t.fences f v }
  else match kget? t.queues (f - 4096) with
    | none => t
    | some q => { t with queues := kset t.queues (f - 4096) { q with fence := v } }

/-- The fence waits that a fence's value answers (R478). -/
def answerWaits (s : State) (tenant f v : Nat) : State :=
  let due := s.fenceWaits.filter fun w => w.tenant == tenant && w.fence == f && decide (w.value ≤ v)
  let s := { s with fenceWaits := s.fenceWaits.filter fun w => !(w.tenant == tenant && w.fence == f && decide (w.value ≤ v)) }
  due.foldl (fun s w => emit s (.fence w.endpoint tenant f v false)) s

/-- A completion record as its 256 bits (R364, R477). -/
def completionBits (fval : Nat) (handle : Word) (launch : BitVec 32) (code state fence seq : Nat) : Nat :=
  fval % 2 ^ 64 * 2 ^ 192 + handle.toNat * 2 ^ 128 + launch.toNat * 2 ^ 96 + code % 256 * 2 ^ 88 + state * 2 ^ 64 + fence * 2 ^ 48 + seq % 2 ^ 32

/-- Bytes that the regulator writes into a region, if the region is live (R126, R364, R481). -/
def regulatorWrite (s : State) (region off : Nat) (l : List Byte) : State :=
  match kget? s.regions region with
  | none => s
  | some e => if e.state = 1 ∨ e.state = 2 then writeEngine s (e.base + off) l else s

/-- Whether a queue's completion ring has a free slot (R478). -/
def ringRoom (q : Queue) : Bool := decide (q.cseq - q.cfreed < 2 ^ q.cslots)

/-- A queue changed. -/
def updQueue (s : State) (tenant q : Nat) (f : Queue → Queue) : State :=
  match kget? s.tenants tenant with
  | none => s
  | some t => match kget? t.queues q with
    | none => s
    | some r => { s with tenants := kset s.tenants tenant { t with queues := kset t.queues q (f r) } }

/-- A completion record written into the next slot of a queue's ring. -/
def putCompletion (s : State) (tenant q : Nat) (r : Queue) (bits : Nat) : State :=
  let s := regulatorWrite s r.cring (32 * (r.cseq % 2 ^ r.cslots)) (leBytes 32 bits)
  updQueue s tenant q fun r => { r with cseq := r.cseq + 1 }

/-- A queue of a tenant. -/
def queueAt (s : State) (tenant q : Nat) : Option Queue := (kget? s.tenants tenant).bind fun t => kget? t.queues q

/-! ### Launch queues (R477) -/

/-- Whether launches are served: from the start of reduced service (R502). -/
def inService (s : State) : Bool := s.service == .reduced || s.service == .full

/-- DOORBELL: a new tail, ignored outside [tail, head + 2^lslots], and from another endpoint than the tenant's (R476, R477). -/
def stepDoorbell (s : State) (h : HostHdr) (q tail : Nat) : Option State :=
  (queueAt s h.tenant q).map fun r =>
    if fromTenant s h = false ∨ tail < r.tail ∨ r.head + 2 ^ r.lslots < tail then s else updQueue s h.tenant q fun r => { r with tail := tail }

/-- DOORBELL (R477). -/
def execDoorbell (h : HostHdr) (q tail : Nat) (s : State) : Host.Outcome State Fault Refusal := device "DOORBELL" (stepDoorbell s h q tail)

/-- Whether a chunk of a tenant's ring may be read now (R26, R477). -/
def ringCheck (s : State) (tenant region off len : Nat) (write : Bool) : Check :=
  match kget? s.regions region with
  | none => .fail
  | some e => chunkCheck s { gen := e.gen, region := BitVec.ofNat 20 region, access := 3, limit := 0, base := 0 } tenant write (e.base + off) len

/-- Whether a tenant is in the final round of its migration (R482). -/
def draining (s : State) (tenant : Nat) : Bool :=
  (((kget? s.tenants tenant).bind fun t => t.migr).map fun m => m.final).getD false

/-- A launch record accepted: the tenant's next launch number (R477). -/
def takeLaunch (s : State) (tenant : Nat) : BitVec 32 × State :=
  match kget? s.tenants tenant with
  | none => (0, s)
  | some t => (BitVec.ofNat 32 t.nextLaunch, { s with tenants := kset s.tenants tenant { t with nextLaunch := t.nextLaunch + 1 } })

/-- LAUNCH_RECORD_READ: the next record is read and accepted, or refused with a completion record of state 6 (R477, R339). -/
def stepLaunchRead (s : State) (tenant q : Nat) : Option State :=
  match queueAt s tenant q with
  | none => none
  | some r =>
    let off := 256 * (r.head % 2 ^ r.lslots)
    if r.tail ≤ r.head || !inService s || draining s tenant || ringCheck s tenant r.lring off 256 false != .pass then none
    else
      let rec_ := BitVec.ofNat 2048 (readVal s (((kget? s.regions r.lring).map fun e => e.base).getD 0 + off) 256)
      let s1 := updQueue s tenant q fun r => { r with head := r.head + 1 }
      match refusal s rec_ tenant none with
      | some code => if ringRoom r then some (putCompletion s1 tenant q r (completionBits r.fence 0 0 code 6 0xFFFF r.cseq)) else none
      | none =>
        let p := takeLaunch s1 tenant
        (addTask p.2 rec_ tenant q .user p.1).map fun a => abortAll a.2

/-- LAUNCH_RECORD_READ (R477). -/
def execLaunchRecordRead (tenant q : Nat) (s : State) : Host.Outcome State Fault Refusal := device "LAUNCH_RECORD_READ" (stepLaunchRead s tenant q)

/-- COMPLETION_HEAD: the host frees the slots below a count of records (R476, R478). -/
def stepCompletionHead (s : State) (h : HostHdr) (q head : Nat) : Option State :=
  (queueAt s h.tenant q).map fun r =>
    if fromTenant s h = true ∧ r.cfreed ≤ head ∧ head ≤ r.cseq then updQueue s h.tenant q fun r => { r with cfreed := head } else s

/-- COMPLETION_HEAD (R478). -/
def execCompletionHead (h : HostHdr) (q head : Nat) (s : State) : Host.Outcome State Fault Refusal := device "COMPLETION_HEAD" (stepCompletionHead s h q head)

/-- Whether a fence wait is accepted: from the tenant's endpoint, or from that of a master (R474, R476). -/
def mayAwait (s : State) (h : HostHdr) : Bool := fromTenant s h || s.mgmt.any fun p => p.2 == h.endpoint

/-- FENCE_WAIT: answered at once if the fence has reached the value, else it waits; from elsewhere it is ignored (R474, R476, R478). -/
def stepFenceWait (s : State) (h : HostHdr) (f v timeout : Nat) : Option State :=
  match (kget? s.tenants h.tenant).bind fun t => fenceValue t f with
  | none => none
  | some now =>
    if mayAwait s h = false then some s
    else if v ≤ now then some (emit s (.fence h.endpoint h.tenant f now false))
    else
      let w : FenceWait := { id := s.nextId, endpoint := h.endpoint, tenant := h.tenant, fence := f, value := v, timeout := timeout, start := s.clk }
      some { s with nextId := s.nextId + 1, fenceWaits := s.fenceWaits ++ [w] }

/-- FENCE_WAIT (R478). -/
def execFenceWait (h : HostHdr) (fence v timeout : Nat) (s : State) : Host.Outcome State Fault Refusal := device "FENCE_WAIT" (stepFenceWait s h fence v timeout)

/-- FENCE_WAIT_TIMEOUT: a wait whose timeout has passed, counted in cycles, ends with a timeout reply (R478, log entry 37). -/
def stepFenceTimeout (s : State) (n : Nat) : Option State :=
  match s.fenceWaits.find? fun w => w.id == n with
  | none => none
  | some w =>
    if (s.clk - w.start).toNat < w.timeout then none
    else
      let now := ((kget? s.tenants w.tenant).bind fun t => fenceValue t w.fence).getD 0
      some (emit { s with fenceWaits := s.fenceWaits.filter fun q => q.id != n } (.fence w.endpoint w.tenant w.fence now true))

/-- FENCE_WAIT_TIMEOUT (R478). -/
def execFenceWaitTimeout (n : Nat) (s : State) : Host.Outcome State Fault Refusal := device "FENCE_WAIT_TIMEOUT" (stepFenceTimeout s n)

/-! ### Spawned tasks (R347, R348) -/

/-- A request of a strand by its number. -/
def reqAt? (s : State) (n : Nat) : Option Req := s.reqs.find? fun r => r.id == n

/-- A request answered. -/
def answerReq (s : State) (n : Nat) (v : Word) : State :=
  { s with reqs := s.reqs.map fun r => if r.id = n then { r with answer := some v } else r }

/-- Pieces of n bytes that do not cross a 512-byte boundary (R26). -/
def pieces (a n : Nat) : List (Nat × Nat) :=
  let first := min n (512 - a % 512)
  if first = n then [(a, n)] else [(a, first), (a + first, n - first)]

/-- The checks of a spawned record's address and of its read: it passes, waits for a moving region, or is refused with 0x11. -/
def spawnCheck (s : State) (tenant : Nat) (w : Window) (a : Nat) : Check :=
  if a % 64 ≠ 0 ∨ a < w.base.toNat ∨ w.limit.toNat < a + 256 ∨ bit1 w.access 0 = false ∨ poisonedIn s a 256 then .fail
  else
    let cs := (pieces a 256).map fun p => chunkCheck s w tenant false p.1 p.2
    if cs.contains .wait then .wait else if cs.contains .fail then .fail else .pass

/-- A spawned record with the key and the debug flag that the issuing task gives it (R347). -/
def spawnRecord (r : BitVec 2048) (t : Task) : BitVec 2048 :=
  let r := if rf r 1344 64 = 0 then setBits r 1344 64 (t.f 1344 64) else r
  if t.debug then setBits r 1702 1 1 else r

/-- TSPAWN_REQUEST: the record is read, and the task accepted or refused (R347). -/
def stepTspawn (s : State) (n : Nat) : Option State :=
  match reqAt? s n with
  | none => none
  | some q =>
    if !q.spawn || q.answer.isSome then none else
    match taskOn s q.gcn with
    | none => none
    | some t =>
      let a := addr48 ((q.win.base.toNat : Int) + q.arg.toNat)
      match spawnCheck s t.tenant q.win a with
      | .wait => none
      | .fail => some (answerReq s n (w64 (2 ^ 63 + 0x11)))
      | .pass =>
        let r := spawnRecord (BitVec.ofNat 2048 (readVal s a 256)) t
        match refusal s r t.tenant (some (w64 (t.f 1344 64))) with
        | some code => some (answerReq s n (w64 (2 ^ 63 + code)))
        | none => (addTask s r t.tenant t.queue .user t.launch).map fun p =>
          abortAll (answerReq p.2 n (((kget? p.2.tasks p.1).map fun c => c.handle).getD 0))

/-- TSPAWN_REQUEST (R347). -/
def execTspawnRequest (n : Nat) (s : State) : Host.Outcome State Fault Refusal := device "TSPAWN_REQUEST" (stepTspawn s n)

/-- TSTAT_REQUEST: the state that the regulator finds (R348). -/
def stepTstat (s : State) (n : Nat) : Option State :=
  match reqAt? s n with
  | none => none
  | some q => if q.spawn || q.answer.isSome then none else some (answerReq s n (tstatWord s (tenantOn s q.gcn) q.arg))

/-- TSTAT_REQUEST (R348). -/
def execTstatRequest (n : Nat) (s : State) : Host.Outcome State Fault Refusal := device "TSTAT_REQUEST" (stepTstat s n)

/-- REGULATOR_ANSWER: the answer reaches the strand and its word is complete (R347, R348). -/
def stepAnswer (s : State) (n : Nat) : Option State :=
  match reqAt? s n with
  | none => none
  | some q => q.answer.map fun v =>
    let s := { s with reqs := s.reqs.filter fun r => r.id != n }
    dueNow (updStrand s q.gcn q.sid advance) q.gcn q.sid n q.d v

/-- REGULATOR_ANSWER (R347). -/
def execRegulatorAnswer (n : Nat) (s : State) : Host.Outcome State Fault Refusal := device "REGULATOR_ANSWER" (stepAnswer s n)

end Sys2Proof.Machine
end

