-- ==== Sys2Proof/Machine/Placement.lean ====
section
/-! DEFINITION. From a held task to running strands: conflicts and their order (R354, R355), method lookup, conversions and the
no-method trap (R341 to R344), the dispatch checks (R427, R448), placement (R350 to R353, R356, R309, R280), start and spawn
messages. -/

namespace Sys2Proof.Machine

/-! ### Conflicts (R354, R355) -/

/-- A declared range: a region and offsets within it. -/
structure Decl where
  region : Nat
  lo : Nat
  hi : Nat
  write : Bool
  deriving DecidableEq, Repr

/-- The declared range of a region record (R23). -/
def declOf (r : BitVec 128) : Decl :=
  { region := bits r 0 20, lo := bits r 32 48, hi := bits r 32 48 + bits r 80 48, write := bit1 r 21 }

/-- A declared range read through a ring of a tenant. -/
def ringDecl (s : State) (t : Task) (slot : Nat) : List Decl :=
  match (kget? s.tenants t.tenant).bind fun n => n.ring with
  | none => []
  | some r => [{ region := r.region, lo := 128 * slot, hi := 128 * slot + 128, write := false }]

/-- The declared sets of a task: its records, for a handler its windows, and the lines it carries (R127, R354, R360). -/
def declared (s : State) (t : Task) : List Decl :=
  (match t.kind with
    | .handler _ => t.ringSlots.flatMap (ringDecl s t)
    | _ => []) ++
  (t.declRecs.map fun p => declOf p.2) ++
  t.carried.map fun q => { region := q.1, lo := q.2, hi := q.2 + 256, write := true }

/-- Whether two ranges share a byte and one of them writes. -/
def Decl.clash (a b : Decl) : Bool :=
  a.region == b.region && decide (max a.lo b.lo < min a.hi b.hi) && (a.write || b.write)

/-- Whether one of two tasks is the handler of the other's fault (R354). -/
def serves (a b : Task) : Bool := a.kind == .handler b.handle || b.kind == .handler a.handle

/-- Whether two tasks conflict (R354). -/
def conflicts (s : State) (a b : Task) : Bool :=
  a.tenant == b.tenant && !serves a b && (declared s a).any fun x => (declared s b).any fun y => x.clash y

/-- The priority of a task (R336). -/
def Task.prio (t : Task) : Nat := t.f 1664 8

/-- Whether one held task goes before another (R355). -/
def heldBefore (u t : Task) : Bool :=
  if u.isHandler != t.isHandler then u.isHandler
  else if u.queue = t.queue then decide (u.order < t.order)
  else decide (t.prio < u.prio) || (u.prio == t.prio &&
    (decide (u.time < t.time) || (u.time == t.time && decide (u.queue < t.queue))))

/-- Whether a task that waits only for room in its completion ring has released those that wait on it (R357, R478). -/
def letsGo (s : State) (u : Task) : Bool := u.waitersFree && !((queueAt s u.tenant u.queue).map ringRoom).getD true

/-- Whether a task precedes a conflicting one that has not started (R354, R355): in state 2 or 3 always; one in state 0, also in state 1, or in
state 0 and going before it. A task in state 1, whose conversions have ended, stands before every one in state 0 (R343). A task
that only waits for room in its completion ring has released its waiters (R478). -/
def precedes (s : State) (u t : Task) : Bool :=
  ((u.state == 2 || u.state == 3) && !letsGo s u) || (t.state == 0 && (u.state == 1 || (u.state == 0 && heldBefore u t)))

/-- The slots of the predecessors that are not committed (R338). -/
def openPreds (s : State) (t : Task) : List Nat :=
  t.preds.filterMap fun h => match taskByHandle s t.tenant h with
    | none => none
    | some p => if p.2.state = 4 ∨ letsGo s p.2 = true then none else some p.1

/-- Whether a held task waits on one of some tasks: as its predecessor, its conversion, or one that goes before it in conflict (R338, R343,
R355). -/
def waitsOn (s : State) (l : List Nat) (u : Task) : Bool :=
  decide (u.state ≤ 1) &&
    ((openPreds s u ++ u.deps).any l.contains ||
     l.any fun j => ((kget? s.tasks j).map fun x => precedes s x u && conflicts s x u).getD false)

/-- A task with the tasks that wait on it, directly or through others; `n` rounds at most. -/
def behind (s : State) : Nat → List Nat → List Nat
  | 0, l => l
  | n + 1, l => behind s n (l ++ (s.tasks.filter fun p => !l.contains p.1 && waitsOn s l p.2).map fun p => p.1)

/-- The tasks that stand behind the one that a conversion serves: the conversion goes directly ahead of that one, so none of them holds it
back (R343). -/
def behindServed (s : State) (t : Task) : List Nat :=
  match t.kind with
  | .conversion j => behind s s.tasks.length [j]
  | _ => []

/-- The slots of the tasks that hold a task back for conflict. An inserted conversion is held neither by the task it serves nor by a held
task behind that one (R343). -/
def blockers (s : State) (k : Nat) (t : Task) : List Nat :=
  let after := behindServed s t
  (s.tasks.filter fun p => p.1 != k && precedes s p.2 t && conflicts s p.2 t && !(decide (p.2.state ≤ 1) && after.contains p.1)).map fun p => p.1

/-- Whether a region that a task names is moving (R24). -/
def namesMoving (s : State) (t : Task) : Bool :=
  (declared s t).any fun d => ((kget? s.regions d.region).map fun e => e.state == 2).getD false

/-- Whether nothing holds a task but cores (R355). -/
def releasable (s : State) (k : Nat) (t : Task) : Bool :=
  (openPreds s t).isEmpty && (blockers s k t).isEmpty && !namesMoving s t

/-! ### Method lookup (R340 to R343) -/

/-- The kind of a method entry: 0 empty, 1 method, 2 conversion (R340). -/
def mKind (e : BitVec 512) : Nat := bits e 136 4
/-- The operator of a method entry. -/
def mOp (e : BitVec 512) : Nat := bits e 160 32
/-- The records of a method entry. -/
def mNrec (e : BitVec 512) : Nat := bits e 140 4
/-- Input tag i of a method entry. -/
def mIn (e : BitVec 512) (i : Nat) : Nat := bits e (384 + 16 * i) 16
/-- Output tag i of a method entry. -/
def mOut (e : BitVec 512) (i : Nat) : Nat := bits e (256 + 16 * i) 16
/-- Whether record i must match. -/
def mMatch (e : BitVec 512) (i : Nat) : Bool := bit1 e (152 + i)
/-- Whether record i's region takes an output tag. -/
def mOmask (e : BitVec 512) (i : Nat) : Bool := bit1 e (144 + i)
/-- The cost of a conversion entry. -/
def mCost (e : BitVec 512) : Nat := bits e 128 8
/-- The image of a method entry. -/
def mImage (e : BitVec 512) : Word := w64 (bits e 192 64)

/-- Whether a tenant's tasks may use an entry (R340). -/
def usable (tenant : Nat) (e : BitVec 512) : Bool := mKind e != 0 && (bits e 122 6 == tenant || bit1 e 121)

/-- The region number of record i of a task. -/
def Task.reg (t : Task) (i : Nat) : Nat := bits (t.recBits i) 0 20

/-- The tag of a region. -/
def tagOf (s : State) (r : Nat) : Nat := ((kget? s.regions r).map fun e => e.tag.toNat).getD 0

/-- The usable entries of a kind, in index order. -/
def entriesOf (s : State) (t : Task) (kind : Nat) : List (Nat × BitVec 512) :=
  s.methods.filter fun p => usable t.tenant p.2 && mKind p.2 == kind

/-- Whether an entry serves a task's operator and number of records. -/
def servesOp (t : Task) (e : BitVec 512) : Bool := mOp e == t.f 1600 32 && mNrec e == t.nrec

/-- The records of a task that an entry needs converted (R342). A match bit at or beyond nrec names no record and is passed over (DESIGN
CHOICE, log entry 96). -/
def mismatches (s : State) (t : Task) (e : BitVec 512) : List Nat :=
  (List.range t.nrec).filter fun i => mMatch e i && tagOf s (t.reg i) != mIn e i

/-- The direct lookup: the lowest entry that matches (R341). -/
def directMethod (s : State) (t : Task) : Option Nat :=
  ((entriesOf s t 1).find? fun p => servesOp t p.2 && (mismatches s t p.2).isEmpty).map fun p => p.1

/-- A conversion chain: its entries and its cost. -/
abbrev Chain := List Nat × Nat

/-- The chains of one or two usable conversions from one tag to another, in the order of their entries (R342). -/
def chains (s : State) (t : Task) (x y : Nat) : List Chain :=
  let cs := entriesOf s t 2
  cs.flatMap fun p =>
    if mIn p.2 0 ≠ x then [] else
    (if mOut p.2 0 = y then [([p.1], mCost p.2)] else []) ++
    cs.filterMap fun q => if mIn q.2 0 = mOut p.2 0 ∧ mOut q.2 0 = y then some ([p.1, q.1], mCost p.2 + mCost q.2) else none

/-- The cheapest chain; of equal cost the one whose entries come first (R342). -/
def cheapest (l : List Chain) : Option Chain :=
  l.foldl (fun b c => match b with
    | none => some c
    | some d => if c.2 < d.2 then some c else some d) none

/-- The plan of an entry: each region to convert with its chain, and the cost; none if it cannot serve (R342). -/
def planFor (s : State) (t : Task) (e : BitVec 512) : Option (List (Nat × List Nat) × Nat) :=
  (mismatches s t e).foldl (fun acc i => match acc with
    | none => none
    | some (plan, c) =>
      let r := t.reg i
      if (List.range t.nrec).any fun j => t.reg j == r && mIn e j != mIn e i then none
      else if plan.any fun q => q.1 == r then some (plan, c)
      else match cheapest (chains s t (tagOf s r) (mIn e i)) with
        | none => none
        | some ch => some (plan ++ [(r, ch.1)], c + ch.2)) (some ([], 0))

/-- What the regulator finds for a task. -/
inductive Found where
  | method (i : Nat)
  | convert (plan : List (Nat × List Nat))
  | nothing
  deriving DecidableEq, Repr

/-- The conversion search: the cheapest plan, ties to the lower entry (R342). -/
def conversionPlan (s : State) (t : Task) : Option (List (Nat × List Nat) × Nat) :=
  (entriesOf s t 1).foldl (fun best p =>
    if !servesOp t p.2 then best else
    match planFor s t p.2, best with
    | none, b => b
    | some q, none => some q
    | some q, some b => if q.2 < b.2 then some q else some b) none

/-- The lookup of a task: a conversion keeps its entry, a handler goes by its operator alone (R127, R341 to R343). -/
def lookup (s : State) (t : Task) : Found :=
  match t.kind with
  | .conversion _ => match t.method with
    | none => .nothing
    | some i => match kget? s.methods i with
      | some e => if usable t.tenant e ∧ mKind e = 2 then .method i else .nothing
      | none => .nothing
  | .handler _ => match (entriesOf s t 1).find? fun p => mOp p.2 == t.f 1600 32 with
    | some p => .method p.1
    | none => .nothing
  | .user => match directMethod s t with
    | some i => .method i
    | none => match conversionPlan s t with
      | some q => .convert q.1
      | none => .nothing

/-! ### Faults before a strand runs (R344, R427, R448) -/

/-- The core that stands for a regulator unit: cluster 0, core 0 of the die that serves a queue (R344, R476). -/
def unitCore (t : Task) : Nat := t.queue % 4 * 640

/-- A fault that the regulator raises for a task that holds no cores (R344, R427). -/
def regFault (s : State) (t : Task) (cls code : Nat) (aux : Word) (win : Nat) : FaultInfo :=
  { cls := cls, code := code, aux := aux, addr := 0, word := 0, pcoff := 0, image := 0, time := s.clk, gcn := unitCore t, sid := 63,
    win := win, eng := false, gang := false }

/-- A region's entry changed. -/
def updRegion (s : State) (r : Nat) (f : Region → Region) : State :=
  match kget? s.regions r with
  | none => s
  | some e => { s with regions := kset s.regions r (f e) }

/-- The regions that a fault of a task marks incomplete: those its records may write, and those of carried lines (R406). -/
def markedRegions (t : Task) : List Nat :=
  ((List.range t.nrec).filter fun i => bit1 (t.recBits i) 21).map (fun i => t.reg i) ++ t.carried.map fun q => q.1

/-- The marks of R406. -/
def markIncomplete (s : State) (t : Task) : State := (markedRegions t).foldl (fun s r => updRegion s r fun e => { e with inc := true }) s

/-- The fault ring of a tenant changed. -/
def updRing (s : State) (tenant : Nat) (f : FaultRing → FaultRing) : State :=
  match kget? s.tenants tenant with
  | none => s
  | some t => { s with tenants := kset s.tenants tenant { t with ring := t.ring.map f } }

/-- A handler that ends frees the slots of its record, which stays in them until another record takes them (R126, R127). -/
def freeRing (s : State) (t : Task) : State :=
  match t.kind with
  | .handler _ => updRing s t.tenant fun r => { r with used := r.used.filter fun p => !t.ringSlots.contains p.1 }
  | _ => s

/-- A task that never ran enters state 5 with a fault; its dependants are aborted (R338, R344, R427). -/
def failHeld (s : State) (k : Nat) (t : Task) (fi : FaultInfo) : State :=
  let t := { t with state := 5, faults := t.faults ++ [fi], stopped := true, quiet := true, image := 0 }
  freeRing (abortAll (markIncomplete { s with tasks := kset s.tasks k t } t)) t

/-- The no-method trap (R344). -/
def noMethod (s : State) (k : Nat) (t : Task) : State :=
  let tag (i : Nat) : Nat := if i < t.nrec then tagOf s (t.reg i) else 0
  failHeld s k t (regFault s t 8 0x100 (w64 (t.f 1600 32 * 2 ^ 32 + tag 0 * 2 ^ 16 + tag 1)) 63)

/-! ### Conversion tasks (R343) -/

/-- The record of a conversion task: one region read-write from offset 0, on one core, with the served task's priority, handler
and key (R343). -/
def conversionRecord (s : State) (t : Task) (r : Nat) : BitVec 2048 :=
  let ext := ((kget? s.regions r).map fun e => e.extent).getD 0
  BitVec.ofNat 2048 (r + 3 * 2 ^ 20 + ext * 2 ^ 80 + 2 ^ 1280 + 0xFFFF * 2 ^ 1328 + t.f 1344 64 * 2 ^ 1344 + t.f 1632 32 * 2 ^ 1632 +
    t.prio * 2 ^ 1664 + 2 ^ 1672 + 2 ^ 1684 + 64 * 2 ^ 1692 + 2 ^ 1708)

/-- One conversion task inserted ahead of the task in a slot, at distance d in its queue (R343). -/
def insertConversion (s : State) (k : Nat) (t : Task) (r i d : Nat) : Option (Nat × State) :=
  (addTask s (conversionRecord s t r) t.tenant t.queue (.conversion k) t.launch).map fun p =>
    (p.1, updTask p.2 p.1 fun c =>
      { c with method := some i, image := mImage (kget s.methods i 0), order := t.order - d, time := t.time })

/-- The steps of a plan in order: region and entry. -/
def planSteps (plan : List (Nat × List Nat)) : List (Nat × Nat) := plan.flatMap fun q => q.2.map fun i => (q.1, i)

/-- All conversion tasks of a plan inserted: their slots (R343). -/
def insertAll (s : State) (k : Nat) (t : Task) : List (Nat × Nat) → Option (List Nat × State)
  | [] => some ([], s)
  | (r, i) :: rest => match insertConversion s k t r i (rest.length + 1) with
    | none => none
    | some p => match insertAll p.2 k t rest with
      | none => none
      | some q => some (p.1 :: q.1, q.2)

/-- TASK_RELEASE: a task that nothing but cores holds is looked up; it gets its method and waits for cores in state 0, or its conversions, or
the no-method trap (R338, R341 to R344, R350, R355). -/
def stepRelease (s : State) (k : Nat) : Option State :=
  match kget? s.tasks k with
  | none => none
  | some t =>
    if !(t.state == 0 || t.state == 1) || !t.deps.isEmpty || !t.faults.isEmpty || !releasable s k t then none
    else match lookup s t with
    | .method i =>
      if t.state = 0 ∧ t.method = some i ∧ t.image = mImage (kget s.methods i 0) then none
      else some (updTask s k fun t => { t with state := 0, method := some i, image := mImage (kget s.methods i 0) })
    | .convert plan => (insertAll s k t (planSteps plan)).map fun q =>
        updTask q.2 k fun t => { t with state := 1, method := none, deps := q.1 }
    | .nothing => some (noMethod s k t)

/-- TASK_RELEASE (R355). -/
def execTaskRelease (slot : Nat) (s : State) : Host.Outcome State Fault Refusal := device "TASK_RELEASE" (stepRelease s slot)

/-! ### Dispatch checks (R427, R448) -/

/-- Window declaration n of a declaration field (R426). -/
def declAt (d : Nat) (n : Nat) : Nat := d / 2 ^ (32 * n) % 2 ^ 32

/-- The first window that does not meet its declaration: its number and min (R427). -/
def declFault (w : KMap Window) (d : Nat) : Option (Nat × Nat) :=
  ((List.range 16).find? fun n =>
    let e := declAt d n
    let v := kget w n Window.empty
    e != 0 && (decide (v.limit.toNat - v.base.toNat < e % 2 ^ 30) || (BitVec.ofNat 2 (e / 2 ^ 30) &&& v.access) != BitVec.ofNat 2 (e / 2 ^ 30))).map
    fun n => (n, declAt d n % 2 ^ 30)

/-- The argument window and offset of a task; a handler's are 0 and 64 (R127, R427). -/
def argOf (t : Task) : Nat × Nat := if t.isHandler then (0, 64) else (t.f 1468 4, t.f 1408 48)

/-- The dispatch faults of a task against its image: window and aux (R427, R448). -/
def dispatchFault (s : State) (t : Task) (h : BitVec 2048) : Option (Nat × Word) :=
  let w := taskWindows s t
  let link := bits h 1280 128
  let dom := kget? s.domains (link % 2 ^ 10)
  let lk := link / 2 ^ 14 % 2 == 1 || link / 2 ^ 32 % 256 != 0
  match declFault w (bits h 512 512) with
  | some p => some (p.1, w64 p.2)
  | none =>
    if bit1 h 107 && (argOf t != (bits h 108 4, bits h 128 32)) then some (bits h 108 4, w64 (bits h 128 32))
    else if !lk then none
    else match dom with
    | none => none
    | some d => match declFault w (bits d.record 512 512) with
      | some p => some (p.1, w64 p.2)
      | none =>
        let iW := bits h 160 7
        let iV := bits h 167 6
        let iD := bits h 173 4
        let dW := bits d.record 47 7
        let dV := bits d.record 41 6
        let dD := bits d.record 37 4
        if iW < dW ∨ iV < dV ∨ iD < dD then
          some (63, w64 (iW + iV * 2 ^ 8 + iD * 2 ^ 16 + dW * 2 ^ 32 + dV * 2 ^ 40 + dD * 2 ^ 48))
        else none

/-! ### Where a gang goes (R332, R350, R351) -/

/-- The cascade whose stage a bound handler serves: its slot, while it still runs (R332). -/
def boundTo (s : State) (t : Task) : Option Nat :=
  match t.bound, t.kind with
  | some g, .handler h => match taskByHandle s t.tenant h with
    | some p => if p.2.state = 2 ∧ p.2.members.contains g = true then some p.1 else none
    | none => none
  | _, _ => none

/-- Whether a core may take a member: it exists, hosts nothing, is enabled, not withheld, its cluster neither retiring nor, in
reduced service, untested (R350, R408, R462, R504). -/
def coreFree (s : State) (g : Nat) : Bool :=
  decide (g < 2560) && (coreAt s g).task.isNone && !(coreAt s g).withheld && !coreDisabled s g && !s.retiring.contains (clusterOf g) &&
  (s.service != .reduced || kget? s.tested (clusterOf g) == some true)

/-- Whether a core may take a member of a task: in a lock-step task, a leader whose pair is free too (R210, R350). -/
def memberFree (s : State) (lock : Bool) (g : Nat) : Bool :=
  coreFree s g && (!lock || (g % 2 == 0 && coreFree s (g + 1)))

/-- The clusters that a tenant's tasks occupy. -/
def tenantClusters (s : State) (tenant : Nat) : List Nat :=
  sortNat (s.cores.filterMap fun p => match p.2.task.bind (kget? s.tasks) with
    | some t => if t.tenant = tenant then some (clusterOf p.1) else none
    | none => none)

/-- Clusters in order of first appearance. -/
def firstSeen (l : List Nat) : List Nat := l.foldl (fun acc c => if acc.contains c then acc else acc ++ [c]) []

/-- The clusters of a list of cores in placement order: those of named cores first, ascending (R351). -/
def placeOrder (named cores : List Nat) : List Nat :=
  let a := sortNat (named.map clusterOf)
  a ++ (firstSeen (cores.map clusterOf)).filter fun c => !a.contains c

/-- Whether a list of cores is a placement of a task, its tenant's cluster maximum aside (R350, R351). -/
def coresFit (s : State) (t : Task) (cores : List Nat) : Bool :=
  let named := namedCores s t.record
  let n := t.f 1672 12
  let span := t.f 1684 8
  let order := placeOrder named cores
  decide (cores.length = n) && (sortNat cores).length == n && cores.all (memberFree s t.lockStep) &&
  named.all (cores.contains ·) && order.length == span &&
  (order.zipIdx.all fun p => (cores.filter fun g => clusterOf g == p.1).length == shareOf n span p.2)

/-- Whether a list of cores is a placement of a task (R350, R351, R422). -/
def placementOk (s : State) (t : Task) (cores : List Nat) : Bool :=
  coresFit s t cores &&
  decide ((sortNat (tenantClusters s t.tenant ++ placeOrder (namedCores s t.record) cores)).length ≤ clusterMax s t.tenant)

/-- The free members of a cluster, ascending. -/
def freeIn (s : State) (lock : Bool) (cl : Nat) : List Nat := (List.range 16).filterMap fun k =>
  if memberFree s lock (16 * cl + k) then some (16 * cl + k) else none

/-- The members that a cluster takes: the named cores it holds, then the lowest free ones. -/
def pickIn (s : State) (lock : Bool) (named : List Nat) (cl n : Nat) : List Nat :=
  let a := named.filter fun g => clusterOf g == cl
  a ++ ((freeIn s lock cl).filter fun g => !a.contains g).take (n - a.length)

/-- The cores that a task would take, if the package has room for it, its tenant's cluster maximum aside. Which cores are chosen is not
architectural (R350): after the clusters of named cores, those that the tenant occupies come before others, and of these first the ones
with room for a larger share. -/
def pickCores (s : State) (t : Task) : Option (List Nat) :=
  let lock := t.lockStep
  let named := namedCores s t.record
  let n := t.f 1672 12
  let span := t.f 1684 8
  let a := sortNat (named.map clusterOf)
  let own := (tenantClusters s t.tenant).filter fun c => !a.contains c
  let l := own ++ (List.range 160).filter fun c => !a.contains c && !own.contains c
  let room (k : Nat) (c : Nat) : Bool := decide (k ≤ (freeIn s lock c).length)
  let large := n % span - a.length
  let big := (l.filter (room (n / span + 1))).take large
  let small := ((l.filter fun c => !big.contains c).filter (room (n / span))).take (span - a.length - large)
  let cores := ((a ++ big ++ small).zipIdx.flatMap fun p => pickIn s lock named p.1 (shareOf n span p.2))
  if coresFit s t cores then some cores else none

/-- Whether a task lacks cores: the package has none for it now (R453). -/
def lacksCores (s : State) (t : Task) : Bool := (pickCores s t).isNone

/-- A placement of a task, if the package and its tenant's maximum have room for it (R350, R422). -/
def choosePlacement (s : State) (t : Task) : Option (List Nat) := (pickCores s t).filter (placementOk s t)

/-! ### Placing a gang (R280, R309, R352, R353, R356) -/

/-- The value of g0 at the start of a task (R336). -/
def argPointer (s : State) (t : Task) : Word :=
  let a := argOf t
  w64 (addr48 (((kget (taskWindows s t) a.1 Window.empty).base.toNat : Int) + a.2))

/-- The image of a task. -/
def imageAt (s : State) (t : Task) : Image := kget s.images t.image.toNat { header := 0, base := 0, amap := [] }

/-- The escapement processor as placement loads it (R279, R280). -/
def placedEp (s : State) (t : Task) (im : Image) : Strand :=
  { Strand.blank with
      shapeW := 64, tid := t.handle, pc := BitVec.ofNat 48 (im.base + bits im.header 256 32), wins := taskWindows s t,
      regs := if argPointer s t = 0 then [] else [(0, argPointer s t)] }

/-- The first strand of a member: g1 and g2 hold its number and the number of members if there are several (R45, R352, R317). -/
def firstChild (s : State) (t : Task) (i : Nat) : Child :=
  let im := imageAt s t
  let n := t.members.length
  { pc := BitVec.ofNat 48 (im.base + bits im.header 224 32), g0 := argPointer s t, g1 := if n = 1 then 0 else w64 i,
    g2 := if n = 1 then 0 else w64 n, roaming := false, shapeW := bits im.header 160 7, shapeV := bits im.header 167 6,
    shapeD := bits im.header 173 4, carry := 0, tid := t.handle }

/-- A stage of a cascade at placement; checkpoint 0 is its state at dispatch (R316, R317, R326). -/
def placedStage (s : State) (t : Task) (i : Nat) : Stage :=
  let st := ((firstChild s t i).strand { sid := 0, g := 0, v := 0, d := 0 } (taskWindows s t))
  { stage := i, stages := t.members.length, up := if i = 0 then none else t.members[i - 1]?, down := t.members[i + 1]?,
    period := t.period, pushes := 0, taken := 0, due := false, recs := [(0, st)] }

/-- The lock-step record of a pair at placement (R210 to R213). -/
def placedLock (s : State) (ep : Strand) (halted : Bool) (tags : KMap Word) (victims : KMap (BitVec 2)) : Lock :=
  { release := [], drain := [], granted := [], undo := [], lastCkpt := s.clk, strands := [(64, ep)], tiles := [], missed := none, count := 0,
    mark := s.nextId, parked := [], deque := [], startQ := [], kregs := [], kpend := [], tagTab := tags, victims := victims, mailbox := [],
    epHalted := halted, channels := [], bits := [], events := [], vq := [], mq := [], swapped := 0, swaps := [] }

/-- A core as placement leaves it: engines idle, tiles +0, tag table empty but for forwarded entries (R44, R247, R265, R356). -/
def placedCore (s : State) (k : Nat) (t : Task) (i : Nat) (tags : KMap Word) (victims : KMap (BitVec 2)) : Core :=
  let im := imageAt s t
  let ep := placedEp s t im
  let victims := if tags = [] then [] else victims
  { Core.idle with
      task := some k, member := i, strands := [(64, ep)], epHalted := !bit1 im.header 104, tagTab := tags,
      victims := victims,
      stage := if t.period = 0 then none else some (placedStage s t i),
      lock := if t.lockStep then some (placedLock s ep (!bit1 im.header 104) tags victims) else none }

/-- Whether an entry of a stream table, in use or not, has a reserved field that is not zero or a reserved target code (R310). -/
def streamReserved (e : BitVec 256) : Bool :=
  bits e 92 3 != 0 || bits e 53 31 != 0 || bits e 21 11 != 0 ||
  (List.range 16).any fun k => decide (1 ≤ bits e (144 + 3 * k) 3) && decide (bits e (144 + 3 * k) 3 ≤ 3)

/-- The faults of an entry in use: those that R310 names, and a base or rel off the multiples that R309 gives it (DESIGN CHOICE, log entry
97). -/
def streamBad (e : BitVec 256) : Bool :=
  let subs := (List.range 16).filter fun k => bits e (128 + k) 1 == 1
  decide (bits e 88 4 < 2) ||
  (subs.any fun k =>
    let w := bits e (192 + 4 * k) 4
    w == 0 || (decide (4 ≤ bits e (144 + 3 * k) 3) && decide (2 < w))) ||
  decide (0x140000 < bits e 32 21 + 512 * bits e 88 4) || decide (0x140000 < bits e 0 21 + 8 * bits e 88 4) ||
  bits e 32 21 % 512 != 0 || bits e 0 21 % 8 != 0

/-- The channel targets that an entry binds: core and channel. -/
def streamBinds (e : BitVec 256) : List (Nat × Nat) :=
  (List.range 16).filterMap fun k =>
    let g := bits e (144 + 3 * k) 3
    if bits e (128 + k) 1 = 1 ∧ 4 ≤ g then some (k, g) else none

/-- The window counts of a core's matrix subscriptions in a table. -/
def matrixWindows (l : List (BitVec 256)) (k : Nat) : Nat :=
  (l.map fun e => if bits e (128 + k) 1 = 1 ∧ bits e (144 + 3 * k) 3 = 0 then bits e (192 + 4 * k) 4 else 0).sum

/-- Whether a stream table breaks R310. -/
def streamTableBad (l : List (BitVec 256)) : Bool :=
  let used := l.filter fun e => bits e 95 1 == 1
  l.any streamReserved || used.any streamBad || (let b := used.flatMap streamBinds; b.zipIdx.any fun p => b.zipIdx.any fun q => p.2 != q.2 && p.1 == q.1) ||
  (List.range 16).any fun k => decide (32 < matrixWindows used k)

/-- The stream table of an image (R309, R425). -/
def streamTable (s : State) (im : Image) : List (BitVec 256) :=
  (List.range (min (bits im.header 320 32) 64)).map fun i => BitVec.ofNat 256 (peekRaw s (im.base + bits im.header 288 32 + 32 * i) 32)

/-- A stream as placement loads it on a cluster; not valid there unless its source and subscribers are members (R309, R310). -/
def placedStream (members : List Nat) (cl : Nat) (bad : Bool) (e : BitVec 256) : Stream :=
  let here (k : Nat) : Bool := members.contains (16 * cl + k)
  { entry := e, valid := !bad && here (bits e 84 4) && ((List.range 16).all fun k => bits e (128 + k) 1 == 0 || here k),
    read := 0, held := [], delivered := [], taken := [], released := 0 }

/-- The stream table loaded into the distributor of every cluster of the gang (R309). Of a table that fails the checks of R310 no entry is valid
(DESIGN CHOICE, log entry 97). -/
def loadStreams (s : State) (t : Task) : State :=
  let l := streamTable s (imageAt s t)
  let bad := streamTableBad l
  let load (m : KMap Stream) (cl : Nat) : KMap Stream :=
    l.zipIdx.foldl (fun m p => if bits p.1 95 1 = 1 then kset m (cl * 64 + p.2) (placedStream t.members cl bad p.1) else m) m
  { s with streams := (sortNat (t.members.map clusterOf)).foldl load s.streams }

/-- The odd scratchpad of a pair takes the contents of its leader's, but for the bytes of some other regions (R210, log entry 9). -/
def mirrorSlot (s : State) (g : Nat) (skip : Nat → Bool) : State :=
  let own (a : Nat) : Bool := decide (slotBase g ≤ a) && decide (a < slotBase g + 0x180000) && !skip (a + 2 ^ 21)
  let odd (a : Nat) : Bool := decide (slotBase (g + 1) ≤ a) && decide (a < slotBase (g + 1) + 0x180000) && !skip a
  let copy (l : List Nat) : List Nat := ((l.filter own).map fun a => a + 2 ^ 21).foldl sinsert (l.filter fun a => !odd a)
  { s with mem := (s.mem.filter fun p => own p.1).foldl (fun m p => Memory.set m (p.1 + 2 ^ 21) p.2) (s.mem.filter fun p => !odd p.1),
           empties := copy s.empties, poison := copy s.poison }

/-- Whether an address belongs to a live region that a task does not name (R455). -/
def foreign (s : State) (t : Task) (a : Nat) : Bool :=
  s.regions.any fun p => p.2.state == 1 && decide (p.2.base ≤ a) && decide (a < p.2.base + p.2.extent) &&
    !((declared s t).any fun d => d.region == p.1)

/-- The odd core of a lock-step pair: it hosts the task, and its leader's record stands for both (R210). -/
def placedShadow (k i : Nat) : Core := { Core.idle with task := some k, member := i }

/-- In the final round of a migration, the ranges that a task of the tenant declares with write access enter the round's record
(R482). -/
def logRan (s : State) (k : Nat) : State :=
  match kget? s.tasks k with
  | none => s
  | some t => match kget? s.tenants t.tenant with
    | none => s
    | some n => match n.migr with
      | none => s
      | some m =>
        let l := ((declared s t).filter fun d => d.write).map fun d => (d.region, d.lo, d.hi)
        if m.final then { s with tenants := kset s.tenants t.tenant { n with migr := some { m with ran := m.ran ++ l } } } else s

/-- What a core sent by `vswap` before its placement, and its partner has not used, is gone; what the partner sent since its own placement
waits at the core (R242, log entry 78). -/
def forgetSwaps (s : State) (g : Nat) : State :=
  if partnerOf g = g then s else updCore s (partnerOf g) fun c => { c with vswapIn := [] }

/-- A gang placed on its cores, in ascending gcn: tag tables emptied, windows and escapement processors loaded, state 2, the
spawn messages to come (R350, R352, R353, R356). -/
def placeGang (s : State) (k : Nat) (cores : List Nat) (tags : KMap Word) (victims : KMap (BitVec 2)) : State :=
  match kget? s.tasks k with
  | none => s
  | some t =>
    let t := { t with members := sortNat cores, state := 2, started := false, placedAt := s.clk }
    let t := { t with spawnsLeft := (List.range t.members.length).map fun i => (i, firstChild s t i) }
    let s1 := loadStreams (logRan { s with tasks := kset s.tasks k t } k) t
    t.members.zipIdx.foldl (fun s p =>
      let s := updCore (forgetSwaps s p.1) p.1 fun c => { placedCore s1 k t p.2 tags victims with vswapIn := c.vswapIn }
      if t.lockStep then mirrorSlot (updCore s (p.1 + 1) fun _ => placedShadow k p.2) p.1 (foreign s1 t) else s) s1

/-- The populated scratchpad of a core written with zeros, full and without poison (R468). -/
def scrubCore (s : State) (g : Nat) : State :=
  let inside (a : Nat) : Bool := decide (slotBase g ≤ a) && decide (a < slotBase g + 0x180000)
  { s with mem := s.mem.filter (fun p => !inside p.1), empties := s.empties.filter (fun a => !inside a),
           poison := s.poison.filter fun a => !inside a }

/-- What a task leaves behind on a core that another task takes over: what its engines landed, and the images that it reached there (R407,
R438). -/
def leaveCore (c : Core) (t : Task) : Task :=
  { t with landed := t.landed ++ landingsOn c, reached := t.reached ++ c.reached.filter fun i => !t.reached.contains i }

/-- A bound handler takes over the stopped stage's core: its stage and rills stay, without checkpoints, what the stage landed stays
noted with its cascade, and what waits there waits on. The core of a confidential cascade is scrubbed first (R331, R332, R407, R468). -/
def placeBound (s : State) (k j g : Nat) : State :=
  let keep := coreAt s g
  let s0 := if ((kget? s.tasks j).map fun t => t.f 1344 64).getD 0 = 0 then s else scrubCore s g
  let s1 := placeGang (leaveTests (updTask s0 j (leaveCore keep)) g) k [g] [] []
  updCore s1 g fun c => { c with stage := keep.stage.map fun st => { st with period := 0, due := false }, rill := keep.rill }

/-- The handler of a confined fault, placed once its cascade has ended, is a stage without neighbours (R332, log entry 31). -/
def loneStage (s : State) (t : Task) (cores : List Nat) : State :=
  match t.stageOf, cores with
  | some q, g :: _ =>
    let st : Stage := { stage := q.1, stages := q.2, up := none, down := none, period := 0, pushes := 0, taken := 0, due := false, recs := [] }
    updCore s g fun c => { c with stage := some st }
  | _, _ => s

/-- A task placed on free cores; a handler whose cascade has ended goes where any task goes (R332, R350, log entry 31). -/
def placeUnbound (s : State) (k : Nat) (t : Task) (cores : List Nat) : State := loneStage (placeGang s k cores [] []) t cores

/-- Whether a bound handler's core is ready for it: its cascade holds it, not saved and not quiescing; it has not failed, and the stopped
stage's current commands have ended and its accesses and chunks have all landed (R122, R331, R332, R408). -/
def boundReady (s : State) (j g : Nat) : Bool :=
  (coreAt s g).task == some j && ((kget? s.tasks j).map fun t => !t.saved && t.quiesce == .no).getD false &&
  !(coreAt s g).withheld && !coreDisabled s g && (coreAt s g).vrun.isNone && (coreAt s g).mrun.isNone && s.accs.all (fun a => a.gcn != g || droppable s a) && s.reqs.all (fun r => r.gcn != g) && (coreAt s g).channels.all fun p => p.2.flight.isEmpty

/-- The dispatch check, and the placement if it passes (R427). -/
def dispatch (s : State) (k : Nat) (t : Task) (place : State → State) : State :=
  match dispatchFault s t (imageAt s t).header with
  | some f => failHeld s k t (regFault s t 1 1 f.2 f.1)
  | none => place s

/-- Whether the cores of a saved task are free for it; a bound handler's is when its cascade holds it again (R332, R455, R462). -/
def coresBack (s : State) (k : Nat) (t : Task) : Bool :=
  (s.saves.filter fun v => v.slot == k).all fun v => match boundTo s t with
    | some j => boundReady s j v.gcn
    | none =>
      let ok (g : Nat) : Bool := (coreAt s g).task.isNone && !(coreAt s g).withheld && !coreDisabled s g
      ok v.gcn && (!t.lockStep || ok (v.gcn + 1))

/-- Whether a saved task needs cores of a retiring cluster (R462). -/
def needsRetiring (s : State) (k : Nat) : Bool := s.saves.any fun v => v.slot == k && s.retiring.contains (clusterOf v.gcn)

/-- The cores that members on some cores take: in a lock-step task each with its odd core (R210). -/
def takenBy (t : Task) (cores : List Nat) : List Nat := if t.lockStep then cores.flatMap fun g => [g, g + 1] else cores

/-- The cores that a saved task resumes on (R455). -/
def savedCores (s : State) (k : Nat) (t : Task) : List Nat := takenBy t ((s.saves.filter fun v => v.slot == k).map fun v => v.gcn)

/-- Whether another saved task that needs cores of a retiring cluster goes ahead of a placement or a resumption of task k on some cores: its
cores are free, or one of them would be taken (R462). -/
def savedFirst (s : State) (k : Nat) (cores : List Nat) : Bool :=
  !needsRetiring s k && s.tasks.any fun p => p.1 != k && p.2.saved && needsRetiring s p.1 &&
    (coresBack s p.1 p.2 || (savedCores s p.1 p.2).any cores.contains)

/-- Whether another dispatched task that could be placed now goes first: of higher priority, then the older submission (R350). -/
def outranked (s : State) (k : Nat) (t : Task) : Bool :=
  s.tasks.any fun p => p.1 != k && p.2.state == 0 && p.2.method.isSome && (boundTo s p.2).isNone && p.2.deps.isEmpty && p.2.faults.isEmpty &&
    (decide (t.prio < p.2.prio) || (p.2.prio == t.prio && decide (p.2.order < t.order))) && releasable s p.1 p.2 &&
    (choosePlacement s p.2).isSome

/-- GANG_PLACEMENT: a held task with its method goes onto free cores; a bound handler goes onto its stage's core while its cascade runs
(R332, R350). -/
def stepPlacement (s : State) (k : Nat) (cores : List Nat) : Option State :=
  match kget? s.tasks k with
  | none => none
  | some t =>
    if t.state != 0 || !t.deps.isEmpty || !t.faults.isEmpty || !releasable s k t || !inService s || s.switching then none
    else match t.method with
    | none => none
    | some i =>
      if lookup s t != .method i || (kget? s.images t.image.toNat).isNone then none
      else match boundTo s t, t.bound with
      | some j, some g => if cores = [g] ∧ boundReady s j g = true ∧ savedFirst s k [] = false then some (dispatch s k t fun s => placeBound s k j g) else none
      | _, _ => if placementOk s t cores && !outranked s k t && !savedFirst s k (takenBy t cores) then some (dispatch s k t fun s => placeUnbound s k t cores) else none

/-- GANG_PLACEMENT (R350). -/
def execGangPlacement (slot : Nat) (cores : List Nat) (s : State) : Host.Outcome State Fault Refusal := device "GANG_PLACEMENT" (stepPlacement s slot cores)

/-! ### Start and spawn messages (R353) -/

/-- A message enters a core's start queue; a lock-step pair keeps it for a roll-back (R32, R213, R353). -/
def pushStart (s : State) (g : Nat) (h : Child) : State :=
  updCore s g fun c => { c with startQ := c.startQ ++ [h], lock := c.lock.map fun l => { l with startQ := l.startQ ++ [h] } }

/-- Message i of a task delivered. -/
def deliver (s : State) (k : Nat) (t : Task) (i : Nat) : Option State :=
  match t.members[i]?, t.spawnsLeft.find? fun p => p.1 == i with
  | some g, some p =>
    some (pushStart (updTask s k fun t => { t with started := true, spawnsLeft := t.spawnsLeft.filter fun q => q.1 != i }) g p.2)
  | _, _ => none

/-- START_MESSAGE: the root's first strand enters its start queue; none for a task that a fault has met, as messages not admitted then are
discarded (R353). -/
def stepStart (s : State) (k : Nat) : Option State :=
  match kget? s.tasks k with
  | none => none
  | some t => if t.state != 2 || t.started || t.stopped || !t.faults.isEmpty || t.saved then none else deliver s k t 0

/-- START_MESSAGE (R353). -/
def execStartMessage (slot : Nat) (s : State) : Host.Outcome State Fault Refusal := device "START_MESSAGE" (stepStart s slot)

/-- The number of the lowest member in a member's cluster. -/
def lowestMate (t : Task) (i : Nat) : Nat :=
  match t.members[i]? with
  | none => 0
  | some g => (t.members.findIdx? fun h => clusterOf h == clusterOf g).getD 0

/-- Whether the message of another member goes before that of member i: to the lowest member of a lower cluster; to the lowest member of
its own and to its lower mates; and the root's mates come after every cluster's lowest member (R353). -/
def spawnsBefore (t : Task) (i j : Nat) : Bool :=
  let low := lowestMate t i
  if low = i then decide (j < i) && lowestMate t j == j
  else (decide (j < i) && lowestMate t j == low) || (low == 0 && lowestMate t j == j)

/-- SPAWN_MESSAGE: after the root started, the lowest member of each other cluster is reached, in ascending order; the others once their
cluster's lowest has been, in ascending order; none after a fault on any member (R353). -/
def stepSpawnMessage (s : State) (k i : Nat) : Option State :=
  match kget? s.tasks k with
  | none => none
  | some t =>
    if !t.started || t.stopped || !t.faults.isEmpty || t.saved || i == 0 || t.spawnsLeft.any (fun p => spawnsBefore t i p.1) then none
    else deliver s k t i

/-- SPAWN_MESSAGE (R353). -/
def execSpawnMessage (slot member : Nat) (s : State) : Host.Outcome State Fault Refusal := device "SPAWN_MESSAGE" (stepSpawnMessage s slot member)

end Sys2Proof.Machine
end

