-- ==== Sys2Proof/Machine/Completion.lean ====
section
/-! DEFINITION. The end of a task that commits: forwarding (R358 to R360), the write-set walk and its cursor (R361, R363, R410),
the commit of the cisterns (R362), tag upkeep (R345), the completion record (R364), freeing cores (R468), retirement (R338). -/

namespace Sys2Proof.Machine

/-! ### Tag tables at the end (R357, R358, R361) -/

/-- The source address of an entry. -/
def tagAddr (e : Word) : Nat := tagSrc e * 256

/-- The valid dirty entries of a core. -/
def dirtyTags (c : Core) : List (Nat × Word) := c.tagTab.filter fun p => tagValid p.2 && tagDirty p.2

/-- The ranges, by address, of a task's windows, with their numbers (R359). -/
def windowRanges (s : State) (t : Task) : List (Nat × Nat × Nat) := (taskWindows s t).map fun p => (p.1, p.2.base.toNat, p.2.limit.toNat)

/-- Those that it declares with read access only (R358). -/
def readOnlyRanges (s : State) (t : Task) : List (Nat × Nat × Nat) :=
  (windowRanges s t).filter fun r => (kget (taskWindows s t) r.1 Window.empty).access == 1

/-- The lowest window whose range covers a source line. -/
def coveringWin (l : List (Nat × Nat × Nat)) (a : Nat) : Option Nat :=
  (l.find? fun r => decide (r.2.1 ≤ a) && decide (a + 256 ≤ r.2.2)).map fun r => r.1

/-- The addresses of the lines that a task carries (R360). -/
def carriedAddrs (s : State) (t : Task) : List Nat :=
  t.carried.filterMap fun q => (kget? s.regions q.1).map fun e => e.base + q.2

/-- The candidates of a consumer on one core of a gang (R358). -/
def candidatesOn (s : State) (p u : Task) (g : Nat) : List (Nat × Nat) :=
  let l := readOnlyRanges s u
  let c := carriedAddrs s p
  ((dirtyTags (coreAt s g)).filter fun q => (coveringWin l (tagAddr q.2)).isSome && !c.contains (tagAddr q.2)).map fun q => (g, q.1)

/-- The candidates of a consumer: those on the lowest core that holds some (R358, R359). -/
def candidatesOf (s : State) (k : Nat) (p u : Task) : List (Nat × Nat) :=
  ((sortNat (coresOf s k p)).findSome? fun g => match candidatesOn s p u g with
    | [] => none
    | l => some l).getD []

/-- Whether a task may be the consumer of the task in slot k (R358). -/
def mayConsume (s : State) (k : Nat) (p : Task) (j : Nat) (u : Task) : Bool :=
  let held := openPreds s u ++ blockers s j u
  j != k && u.tenant == p.tenant && u.f 1344 64 == p.f 1344 64 && u.state == 0 && (boundTo s u).isNone && !held.isEmpty &&
  held.all (fun h => h == k) && !namesMoving s u && u.f 1672 12 == 1 && !u.lockStep && !p.lockStep && u.period == 0 &&
  !(candidatesOf s k p u).isEmpty

/-- The consumer that a task forwards to: of those that qualify, the earliest under R355 (R358). -/
def chooseConsumer (s : State) (k : Nat) (p : Task) : Option Nat :=
  (s.tasks.foldl (fun (b : Option (Nat × Task)) q =>
    if mayConsume s k p q.1 q.2 then match b with
      | none => some (q.1, q.2)
      | some x => if heldBefore q.2 x.2 then some (q.1, q.2) else some x
    else b) none).map fun x => x.1

/-- Whether the engines and queues of a core are done with its task (R357). -/
def coreDone (s : State) (g : Nat) : Bool :=
  let c := coreAt s g
  c.epHalted && channelsIdle c && enginesIdle c && c.rill.flight.isEmpty && s.accs.all (fun a => a.gcn != g || a.sid == noSid) && s.reqs.all (fun r => r.gcn != g)

/-- TASK_COMPLETION: the last strand has exited, every escapement processor has halted, channels and engines are idle; the
regulator decides whether to forward (R357, R358). A task that names a moving region is quiesced for the move first, so that no walk meets
the region on its way (R361, R456, R457). -/
def stepCompletion (s : State) (k : Nat) : Option State :=
  match kget? s.tasks k with
  | none => none
  | some t =>
    if t.state != 2 || !t.started || !t.faults.isEmpty || t.quiesce != .no || t.saved || namesMoving s t || strandsLeft s k || !((coresOf s k t).all (coreDone s)) then none
    else
      let s1 := updTask s k fun t => { t with state := 3, cursor := 0 }
      match chooseConsumer s k t with
      | none => some s1
      | some j => some (updTask s1 k fun t => { t with consumer := some j, candidates := ((kget? s.tasks j).map (candidatesOf s k t)).getD [] })

/-- TASK_COMPLETION (R357). -/
def execTaskCompletion (slot : Nat) (s : State) : Host.Outcome State Fault Refusal := device "TASK_COMPLETION" (stepCompletion s slot)

/-! ### The walk (R361) -/

/-- The phase of a cursor. -/
def curPhase (c : Word) : Nat := bits c 61 3

/-- A cursor (R361). -/
def mkCursor (phase down rec_ next : Nat) : Word := w64 (phase * 2 ^ 61 + down * 2 ^ 60 + rec_ * 2 ^ 56 + next)

/-- The ranges of the walk by record number; carried lines come after the records (R360, R361). -/
def walkRanges (s : State) (t : Task) : List (Nat × Nat × Nat) :=
  (t.declRecs.filterMap fun p =>
    let r := p.2
    if bit1 r 21 ∧ bits r 80 48 ≠ 0 then
      (kget? s.regions (bits r 0 20)).map fun e => (p.1, e.base + bits r 32 48, e.base + bits r 32 48 + bits r 80 48)
    else none) ++
  (sortNat (carriedAddrs s t)).map fun a => (if t.isHandler then 9 else t.nrec, a, a + 256)

/-- The granule that the walk is at: record and address; none when it is done. -/
def curGranule (s : State) (t : Task) : Option (Nat × Nat) :=
  let l := walkRanges s t
  let first (r : Nat × Nat × Nat) : Nat × Nat := (r.1, r.2.1 / 4096 * 4096)
  match curPhase t.cursor with
  | 0 => l.head?.map first
  | 1 =>
    let n := bits t.cursor 0 48
    match l.find? fun r => r.1 == bits t.cursor 56 4 && decide (n < r.2.2) with
    | some r => some (r.1, max n (r.2.1 / 4096 * 4096))
    | none => (l.find? fun r => decide (bits t.cursor 56 4 < r.1)).map first
  | _ => none

/-- Whether a forward of a task is still open: chosen, its consumer not yet placed, and not downgraded (R358, R359, R363). -/
def forwardOpen (t : Task) : Bool := t.consumer.isSome && !t.candidates.isEmpty && bits t.cursor 60 1 == 0

/-- The window under which the walk writes an entry back; a carried line needs no write access (R360). -/
def walkWin (s : State) (t : Task) (e : Word) : Window :=
  let w := kget (taskWindows s t) (tagWin e) Window.empty
  if (carriedAddrs s t).contains (tagAddr e) then { w with access := 3 } else w

/-- Whether the chunk of some entry waits, as its region moves (R26). -/
def walkWaits (s : State) (t : Task) (l : List (Nat × Nat × Word)) : Bool :=
  l.any fun q => chunkCheck s (walkWin s t q.2.2) t.tenant true (tagAddr q.2.2) 256 == .wait

/-- An entry that is no longer dirty: its line has been written back, or its write-back was refused (R167, R410). -/
def cleanTag (s : State) (g slot : Nat) (e : Word) : State :=
  updCore s g fun c => { c with tagTab := kset c.tagTab slot (e &&& ~~~(1 <<< 62 : Word)) }

/-- A fault of the walk, named by an entry of a core (R410). -/
def walkFault (s : State) (t : Task) (g : Nat) (e : Word) (cls code : Nat) (aux : Word) (addr : Nat) : FaultInfo :=
  { faultInfo s g 64 0 cls code aux addr (tagWin e) with word := 0, image := t.image, pcoff := 0, sid := 63, eng := true }

/-- One entry written back in the walk: a chunk under R26 that writes only the declared write set; the entry is then clean. A
carried line needs no write access of its window (R360, R361, R410). -/
def walkBack (s : State) (k : Nat) (t : Task) (g slot : Nat) (e : Word) : State :=
  let w := walkWin s t e
  let src := slotBase g + tagLocal e * 256
  let fi (cls code : Nat) (aux : Word) (addr : Nat) : FaultInfo := walkFault s t g e cls code aux addr
  if chunkCheck s w t.tenant true (tagAddr e) 256 != .pass then
    updTask (cleanTag s g slot e) k fun t => { t with faults := t.faults ++ [fi 3 0x10 (regionAux w) (tagAddr e)] }
  else if poisonedIn s src 256 then updTask s k fun t => { t with faults := t.faults ++ [fi 5 3 0 (poisonedAt s src 256)] }
  else
    let s1 := writeBackLine s (writeRanges s t) (readBytes s src 256) (tagAddr e)
    match lineBad s (writeRanges s t) (tagAddr e) with
    | some a => updTask s1 k fun t => { t with faults := t.faults ++ [fi 5 3 0 a] }
    | none => cleanTag s1 g slot e

/-- Whether a source line has a byte in the write set of a task; any other line is lost with its entry (R167, R357 step 4). -/
def inWriteSet (s : State) (t : Task) (a : Nat) : Bool := (writeRanges s t).any fun r => decide (r.1 < r.2) && decide (r.1 < a + 256) && decide (a < r.2)

/-- The entries that a granule step writes back: core, slot and entry. -/
def granuleTags (s : State) (k : Nat) (t : Task) (a : Nat) : List (Nat × Nat × Word) :=
  (coresOf s k t).flatMap fun g => ((dirtyTags (coreAt s g)).filter fun p =>
    tagAddr p.2 / 4096 * 4096 == a && inWriteSet s t (tagAddr p.2) && !(forwardOpen t && t.candidates.contains (g, p.1))).map fun p => (g, p.1, p.2)

/-- A list of entries written back until one raises a fault. -/
def walkAll (s : State) (k : Nat) (t : Task) : List (Nat × Nat × Word) → State
  | [] => s
  | (g, slot, e) :: r =>
    let s' := walkBack s k t g slot e
    if ((kget? s'.tasks k).map fun q => q.faults.isEmpty).getD false then walkAll s' k t r else s'

/-- The cursor after a granule: the next granule to visit, with its record, or the commit when none is left (R361). -/
def cursorAfter (s : State) (t : Task) (r a : Nat) : Word :=
  let down := bits t.cursor 60 1
  match curGranule s { t with cursor := mkCursor 1 down r (a + 4096) } with
  | some q => mkCursor 1 down q.1 q.2
  | none => mkCursor 2 down r (a + 4096)

/-- GRANULE_STEP: the current granule's write-backs and the cursor's advance (R361). -/
def stepGranule (s : State) (k : Nat) : Option State :=
  match kget? s.tasks k with
  | none => none
  | some t =>
    if t.state != 3 || !t.faults.isEmpty || t.saved || t.quiesce != .no then none else
    match curGranule s t with
    | none => none
    | some (r, a) =>
      let s' := walkAll s k t (granuleTags s k t a)
      if walkWaits s t (granuleTags s k t a) then none
      else if ((kget? s'.tasks k).map fun q => q.faults.isEmpty).getD false then
        some (updTask s' k fun q => { q with cursor := cursorAfter s t r a })
      else some s'

/-- GRANULE_STEP (R361). -/
def execGranuleStep (slot : Nat) (s : State) : Host.Outcome State Fault Refusal := device "GRANULE_STEP" (stepGranule s slot)

/-! ### The commit (R345, R357, R359, R362, R363) -/

/-- A region's tag set (R345). -/
def setTag (s : State) (r tag : Nat) : State := updRegion s r fun e => { e with tag := BitVec.ofNat 16 tag }

/-- Tag upkeep: each region whose omask bit is set takes its output tag, the record of higher index last (R345). -/
def tagUpkeep (s : State) (t : Task) : State :=
  match t.kind, t.method.bind (kget? s.methods) with
  | .handler _, _ => s
  | _, none => s
  | _, some e => (List.range t.nrec).foldl (fun s i => if mOmask e i then setTag s (t.reg i) (mOut e i) else s) s

/-- A forward downgraded: candidates behind the cursor are written back now, those ahead of it in the walk, and those that no range of the
walk covers are lost with the other entries outside the write set (R357, R363). None while the region of such a candidate moves (R26). -/
def downgrade (s : State) (k : Nat) : Option State :=
  match kget? s.tasks k with
  | none => some s
  | some t =>
    if !forwardOpen t then some s else
    let t' := { t with cursor := t.cursor ||| (1 <<< 60 : Word), consumer := none }
    let behind := t.candidates.filterMap fun q => (kget? (coreAt s q.1).tagTab q.2).bind fun e =>
      let a := tagAddr e / 4096 * 4096
      let cover := (walkRanges s t').filter fun r => decide (r.2.1 / 4096 * 4096 ≤ a) && decide (a < r.2.2)
      let later := cover.any fun r => match curGranule s t' with
        | none => false
        | some c => decide (c.1 < r.1) || (r.1 == c.1 && decide (c.2 ≤ a))
      if later || cover.isEmpty || !inWriteSet s t' (tagAddr e) then none else some (q.1, q.2, e)
    if walkWaits s t' behind then none
    else some (walkAll { s with tasks := kset s.tasks k { t' with candidates := [] } } k t' behind)

/-- The entries of a gang's tables gone, but for those kept (R357 step 4). -/
def clearTags (s : State) (k : Nat) (t : Task) (keep : List (Nat × Nat)) : State :=
  (coresOf s k t).foldl (fun s g => updCore s g fun c => { c with tagTab := c.tagTab.filter fun p => keep.contains (g, p.1) }) s

/-- A candidate retagged to the consumer's window (R359). -/
def retag (l : List (Nat × Nat × Nat)) (p : Nat × Word) : Nat × Word :=
  match coveringWin l (tagAddr p.2) with
  | some w => (p.1, setBits p.2 57 4 w)
  | none => p

/-- A carried line by region and offset (R360). -/
def carriedLine (s : State) (a : Nat) : Option (Nat × Nat) := (regionHolding s a).map fun p => (p.1, a - p.2.base)

/-- The streams without those whose ring lies on some cores: they go with the gang that leaves them (DESIGN CHOICE, log entry 97). -/
def dropStreams (s : State) (l : List Nat) : State := { s with streams := s.streams.filter fun p => !l.contains (streamSrc (p.1 / 64) p.2.entry) }

/-- The consumer placed on the core that holds the candidates, which it then carries; before the switch to full service it is quiesced as
every placed task is (R332, R359, R360, R506). -/
def forwardTo (s : State) (k j g : Nat) (u : Task) : State :=
  let c := coreAt s g
  let tags := c.tagTab.map (retag (windowRanges s u))
  let lines := tags.filterMap fun p => carriedLine s (tagAddr p.2)
  let s1 := updCore (dropStreams s [g]) g fun c => { c with task := none }
  let s2 := loneStage (placeGang s1 j [g] tags c.victims) u [g]
  let take (u : Task) : Task :=
    { u with carried := lines, producer := some k, quiesce := if s.switching then .service else .no, stopAt := s.clk }
  updTask (logRan (updTask s2 j take) j) k fun t => { leaveCore c t with candidates := [] }

/-- The method that a consumer's lookup hits directly (R127, R341, R359). -/
def hitMethod (s : State) (u : Task) : Option Nat :=
  match lookup s u with
  | .method i => some i
  | _ => none

/-- Whether the consumer can go onto the core: its lookup hits directly, it passes its dispatch check, and its named cores and
partition allow it, and no saved task of a retiring cluster goes first (R351, R359, R427, R462). -/
def canForward (s : State) (k j g : Nat) (u : Task) : Bool :=
  (openPreds s u ++ blockers s j u).all (fun h => h == k) && !namesMoving s u && (hitMethod s u).isSome &&
  (let i := (hitMethod s u).getD 0
   (dispatchFault s u (imageAt s { u with image := mImage (kget s.methods i 0) }).header).isNone) &&
  ((hitMethod s u).bind fun i => kget? s.images (mImage (kget s.methods i 0)).toNat).isSome &&
  ((namedCores s u.record).all fun h => h == g) && !s.retiring.contains (clusterOf g) && !(coreAt s g).withheld && !savedFirst s j [g]

/-- CISTERN_COMMIT: every HBM write of the task is performed; tables are cleared, tags set, and the consumer is placed or the
waiters are released (R357 steps 3 to 6, R359, R362). -/
def stepCistern (s : State) (k : Nat) : Option State :=
  match kget? s.tasks k with
  | none => none
  | some t =>
    if t.state != 3 || !t.faults.isEmpty || t.saved || t.quiesce != .no || (curGranule s t).isSome || curPhase t.cursor == 3 ||
       s.accs.any (fun a => (coresOf s k t).contains a.gcn && a.sid != noSid) then none
    else
      let s1 := updTask s k fun t => { t with cursor := mkCursor 3 (bits t.cursor 60 1) (bits t.cursor 56 4) (bits t.cursor 0 48), carried := [] }
      let s1 := match t.producer with
        | some p => updTask s1 p fun q => { q with consumer := none }
        | none => s1
      let free (s : State) : State := updTask (tagUpkeep (clearTags s k t []) t) k fun t =>
        { t with waitersFree := bits t.cursor 60 1 == 0, consumer := none }
      match t.consumer, t.candidates with
      | some j, (g, _) :: _ =>
        match kget? s.tasks j with
        | none => some (free s1)
        | some u =>
          let s2 := tagUpkeep (clearTags s1 k t t.candidates) t
          if forwardOpen t && u.state == 0 && canForward s2 k j g u then
            let i := (hitMethod s2 u).getD 0
            let u' := { u with method := some i, image := mImage (kget s2.methods i 0) }
            some (forwardTo { s2 with tasks := kset s2.tasks j u' } k j g u')
          else
            (downgrade s1 k).map fun s3 =>
              if ((kget? s3.tasks k).map fun q => q.faults.isEmpty).getD false then free s3 else s3
      | _, _ => some (free s1)

/-- CISTERN_COMMIT (R362). -/
def execCisternCommit (slot : Nat) (s : State) : Host.Outcome State Fault Refusal := device "CISTERN_COMMIT" (stepCistern s slot)

/-! ### Freeing cores (R468) -/

/-- A core free for placement; one withheld stays so (R408), and `vswap` vectors under way stay too (R315). -/
def freeCore (c : Core) : Core := { Core.idle with withheld := c.withheld, vswapSent := c.vswapSent, vswapIn := c.vswapIn }

/-- The cores that a task holds, with the odd core of each lock-step pair. -/
def allCores (s : State) (k : Nat) (t : Task) : List Nat :=
  (coresOf s k t).flatMap fun g => if t.lockStep then [g, g + 1] else [g]

/-- A core without neighbours in its cascade, which has ended. -/
def unlink (c : Core) : Core := { c with stage := c.stage.map fun st => { st with up := none, down := none } }

/-- Whether a core is held by the handler bound to the stage of a cascade that stopped there (R332). -/
def handlerHolds (s : State) (t : Task) (g : Nat) : Bool := ((taskOn s g).map fun u => u.kind == .handler t.handle && u.bound == some g).getD false

/-- The cores of a task freed, those of a confidential task scrubbed first; a bound handler's core goes back to its cascade, and one that a
cascade leaves to a bound handler has no neighbours any more (R332, R468). -/
def freeCores (s : State) (k : Nat) (t : Task) : State :=
  match boundTo s t, t.bound with
  | some j, some g =>
    updCore (if t.f 1344 64 = 0 then s else scrubCore s g) g fun c =>
      { freeCore c with task := some j, member := c.member, stage := c.stage, rill := c.rill }
  | _, _ =>
    let l := allCores s k t
    let s1 := if t.f 1344 64 = 0 then s else l.foldl scrubCore s
    let s2 := l.foldl (fun s g => updCore s g freeCore) s1
    dropStreams ((t.members.filter (handlerHolds s2 t)).foldl (fun s g => updCore s g unlink) s2) l

/-! ### The completion record (R364) -/

/-- The fence that a task's field names (R364, R478). -/
def fenceOf (t : Task) : Nat := if t.f 1328 16 = 0xFFFF then 4096 + t.queue else t.f 1328 16

/-- The completion record of a task in a state: its fence advanced, the record in its queue's ring, the waits answered (R364,
R478). -/
def recordEnd (s : State) (k : Nat) (t : Task) (q : Queue) (state : Nat) : State :=
  let ten := kget? s.tenants t.tenant
  let v := (((ten.bind fun n => fenceValue n (fenceOf t)).getD 0) + t.f 1280 48) % 2 ^ 64
  let s1 := match ten with
    | none => s
    | some n => { s with tenants := kset s.tenants t.tenant (setFence n (fenceOf t) v) }
  let s2 := putCompletion s1 t.tenant t.queue q (completionBits v t.handle t.launch 0 state (t.f 1328 16) q.cseq)
  answerWaits (updTask s2 k fun t => { t with completed := true, slotHeld := some (t.queue, q.cseq) }) t.tenant (fenceOf t) v

/-- How far ranges, by lowest and beyond the highest byte, reach without a gap from a byte on; `n` of them at most. -/
def reachOf (l : List (Nat × Nat)) : Nat → Nat → Nat
  | 0, a => a
  | n + 1, a => match l.find? fun r => decide (r.1 ≤ a) && decide (a < r.2) with
    | some r => reachOf l n r.2
    | none => a

/-- The offsets of a region that the records of a task declare with write access (R24). -/
def writtenIn (t : Task) (r : Nat) : List (Nat × Nat) :=
  ((List.range t.nrec).filter fun i => bit1 (t.recBits i) 21 && t.reg i == r).map fun i =>
    (bits (t.recBits i) 32 48, bits (t.recBits i) 32 48 + bits (t.recBits i) 80 48)

/-- The incomplete marks that a committing task clears: those of regions over whose whole extent its records together declare a write (R24,
R406). -/
def clearMarks (s : State) (t : Task) : State :=
  (List.range t.nrec).foldl (fun s i =>
    let l := writtenIn t (t.reg i)
    updRegion s (t.reg i) fun e => if l ≠ [] ∧ e.extent ≤ reachOf l l.length 0 then { e with inc := false } else e) s

/-- A conversion that has committed no longer holds the task it serves (R343). -/
def releaseServed (s : State) (k : Nat) (t : Task) : State :=
  match t.kind with
  | .conversion j => updTask s j fun u => { u with deps := u.deps.filter fun d => d != k }
  | _ => s

/-- Nothing waits any longer for the end of a producer (R360). -/
def dropProducer (s : State) (k : Nat) : State :=
  s.tasks.foldl (fun s p => if p.2.producer = some k then updTask s p.1 fun q => { q with producer := none } else s) s

/-- A task committed: state 4, its marks cleared, its cores freed; a handler frees its ring slots (R126, R338, R406). -/
def commitTask (s : State) (k : Nat) (t : Task) : State :=
  let s := updTask s k fun t => { t with state := 4, waitersFree := false }
  let s := dropProducer s k
  freeCores (freeRing (releaseServed (clearMarks s t) k t) t) k t

/-- COMPLETION_RECORD: of a task whose edge actions are done, or that is faulted and stopped, or aborted. Conversions and
handlers write none. A full ring holds it back (R357, R360, R364, R478). -/
def stepRecord (s : State) (k : Nat) : Option State :=
  match kget? s.tasks k with
  | none => none
  | some t =>
    let q := queueAt s t.tenant t.queue
    let commits := t.state == 3 && curPhase t.cursor == 3 && t.consumer.isNone && t.producer.isNone && t.faults.isEmpty && !t.saved
    if t.kind != .user then (if commits then some (commitTask s k t) else none)
    else match q with
    | none => none
    | some q =>
      if !ringRoom q then none
      else if commits then some (commitTask (recordEnd s k t q 4) k t)
      else if !t.completed && t.producer.isNone && ((t.state == 5 && t.quiet) || t.state == 6) then some (dropProducer (recordEnd s k t q t.state) k)
      else none

/-- COMPLETION_RECORD (R364). -/
def execCompletionRecord (slot : Nat) (s : State) : Host.Outcome State Fault Refusal := device "COMPLETION_RECORD" (stepRecord s slot)

/-! ### Retirement (R338) -/

/-- Whether the completion slot of a task is free again. -/
def slotFreed (s : State) (t : Task) : Bool :=
  match t.slotHeld with
  | none => t.kind != .user
  | some p => ((queueAt s t.tenant p.1).map fun q => decide (p.2 < q.cfreed)).getD true

/-- TASK_RETIREMENT: no task in state 0 names it as predecessor and the slot of its completion record is free. A fault record that still waits
for room outlasts the task (R126, R338). -/
def stepRetire (s : State) (k : Nat) : Option State :=
  match kget? s.tasks k with
  | none => none
  | some t =>
    if t.ended && (t.state != 5 || t.quiet) && slotFreed s t &&
       s.tasks.all (fun p => !((p.2.state == 0 && p.2.preds.contains t.handle) || p.2.producer == some k || p.2.consumer == some k)) then
      some { s with tasks := kdel s.tasks k, unreported := s.unreported ++ if t.state = 5 ∧ t.recorded = false then [t] else [] }
    else none

/-- TASK_RETIREMENT (R338). -/
def execTaskRetirement (slot : Nat) (s : State) : Host.Outcome State Fault Refusal := device "TASK_RETIREMENT" (stepRetire s slot)

end Sys2Proof.Machine
end

