-- ==== Sys2Proof/Machine/Distribution.lean ====
section
/-! DEFINITION. Majors 39 to 41: distribution registers (R128 to R149) and the extraction of moments and quantiles (R150 to
R159); the distribution engine's release (R136). -/

namespace Sys2Proof.Machine

/-! ### Points (R129, R130) -/

/-- A point of an element: weight and f32 value. -/
structure Point where
  w : Nat
  v : Nat
  deriving DecidableEq, Repr

/-- The points of a register from its first byte on (R129). -/
def pointsOf : Nat → Nat → List Point
  | 0, _ => []
  | n + 1, x => { w := x / 2 ^ 32 % 2 ^ 16, v := x % 2 ^ 32 } :: pointsOf n (x / 2 ^ 64)

/-- Points put together, point 0 lowest (R129). -/
def pointBits : List Point → Nat
  | [] => 0
  | p :: r => p.v % 2 ^ 32 + p.w % 2 ^ 16 * 2 ^ 32 + 2 ^ 64 * pointBits r

/-- The eight elements of a register, each of eight points. -/
def elements (x : Vec) : List (List Point) := (List.range 8).map fun e => pointsOf 8 (x.toNat / 2 ^ (512 * e))

/-- A register from its elements. -/
def ofElements (l : List (List Point)) : Vec := BitVec.ofNat 4096 (pointBits l.flatten)

/-- The weight of each of eight equal points (R129). -/
def eighth : Nat := 4096

/-- The quiet NaN that results are (R133). -/
def distNan : Nat := 0x7FC00000

/-- A finite f32 value in units of 2^−149. -/
def units (v : Nat) : Int :=
  match f32.decode v with
  | .fin n m e => (if n then -1 else 1) * (m * 2 ^ (e + 149).toNat : Nat)
  | _ => 0

/-- Whether an f32 encoding is a NaN. -/
def nanV (v : Nat) : Bool := (f32.decode v).isNan

/-- v × 2^e rounded once to f32, nearest even; an exact zero is +0. -/
def roundNear (v : Int) (e : Int) : Nat × Flags := f32.round 0 (decide (v < 0)) v.natAbs e

/-! ### Combination (R131 to R135) -/

/-- The operation of a major 39 word at each pairing (R133, R140). -/
inductive DOp where
  | add
  | sub
  | mul
  | max
  | min
  deriving DecidableEq, Repr

/-- `PairOp`: the exact result rounded once to f32, nearest even (R133). -/
def pairOp (o : DOp) (a b : Nat) : Nat × Flags :=
  let x := f32.decode a
  let y := f32.decode b
  let ext (g : Bool) : Nat × Flags :=
    if x.isNan || y.isNan then (distNan, snanFlags [x, y]) else ((f32.minmax g a b).1, 0)
  match o with
  | .add => f32.add 0 x y
  | .sub => f32.add 0 x y.neg
  | .mul => f32.mul 0 x y
  | .max => ext true
  | .min => ext false

/-- Whether one value stands before another in the order of R134: ascending, −0 and +0 equal, NaNs last. -/
def ranksBefore (a b : Nat) : Bool :=
  if nanV a then false else if nanV b then true else (f32.decode a).lt (f32.decode b)

/-- A mass put into its place, behind all that compare equal. -/
def insertMass (p : Nat × Nat) : List (Nat × Nat) → List (Nat × Nat)
  | [] => [p]
  | q :: r => if ranksBefore p.1 q.1 then p :: q :: r else q :: insertMass p r

/-- Pairs of value and mass in ascending order of value; equal ones keep their order. -/
def sortMass (l : List (Nat × Nat)) : List (Nat × Nat) := l.foldl (fun acc p => insertMass p acc) []

/-- What a bin gathers (R134): the exact sum, and whether it meets a NaN or an infinity. -/
structure Bin where
  sum : Int
  nan : Bool
  pinf : Bool
  ninf : Bool

/-- The part of each sorted point that falls in the bin from lo to hi, c the mass already covered (R134). -/
def fillBin (lo hi : Nat) : Nat → List (Nat × Nat) → Bin → Bin
  | _, [], b => b
  | c, (v, m) :: r, b =>
    let s := min (c + m) hi - max c lo
    let b := if s = 0 then b else
      match f32.decode v with
      | .nan _ => { b with nan := true }
      | .inf n => if n then { b with ninf := true } else { b with pinf := true }
      | .fin _ _ _ => { b with sum := b.sum + s * units v }
    fillBin lo hi (c + m) r b

/-- `Condense`: eight points of weight 4096 from 64 masses that total 2^30 (R134). -/
def condense (l : List (Nat × Nat)) : List Point × Flags :=
  let srt := sortMass l
  let bins := (List.range 8).map fun b =>
    let B := fillBin (b * 2 ^ 27) ((b + 1) * 2 ^ 27) 0 srt { sum := 0, nan := false, pinf := false, ninf := false }
    if B.nan then (distNan, (0 : Flags))
    else if B.pinf && B.ninf then (distNan, fNv)
    else if B.pinf then (0x7F800000, 0)
    else if B.ninf then (0xFF800000, 0)
    else ((roundNear B.sum (-149 - 27)).1, 0)
  (bins.map fun p => { w := eighth, v := p.1 }, bins.foldl (fun f p => f ||| p.2) 0)

/-- The independent combination of two elements (R132): flags come from pairings of non-zero mass. -/
def independent (o : DOp) (A B : List Point) : List Point × Flags :=
  let ps := A.flatMap fun a => B.map fun b => (pairOp o a.v b.v, a.w * b.w)
  let c := condense (ps.map fun p => (p.1.1, p.2))
  (c.1, ps.foldl (fun f p => if p.2 = 0 then f else f ||| p.1.2) c.2)

/-- The paired combination of two elements (R135). -/
def paired (o : DOp) (A B : List Point) : List Point × Flags :=
  let ps := List.zipWith (fun a b => (a, b, pairOp o a.v b.v)) A B
  (ps.map fun p => { w := p.1.w, v := p.2.2.1 },
   ps.foldl (fun f p => f ||| (if p.1.w = 0 then 0 else p.2.2.2) ||| flagIf (p.1.w != p.2.1.w) fWmm) 0)

/-- A distribution register of a strand; at creation every point is +0 with weight 4096 and the tag is 0 (R45). -/
def Strand.dreg (t : Strand) (n : Nat) : DReg :=
  kget t.dregs n { bits := ofElements (List.replicate 8 (List.replicate 8 { w := eighth, v := 0 })), tag := 0 }

/-- The tag after a fresh one is taken: after 0xFFFF comes 0x0001 (R138). -/
def nextTag (t : BitVec 16) : BitVec 16 := if t = 0xFFFF then 1 else t + 1

/-- The strand with a fresh tag taken (R138). -/
def takeTag (s : State) (x : Iss) : State := updStrand s x.g x.sid fun t => { t with tagc := nextTag t.tagc }

/-- Whether a strand that reached issue before another is still to be accepted by the distribution engine: it stands in the queue until its
word is, also once its wait has ended (R136). -/
def earlierWaits (c : Core) (sid : Nat) : Bool :=
  (c.distQ.takeWhile fun n => n != sid).any fun n => ((kget? c.strands n).map fun t => !t.stopped).getD false

/-- What a word waits for at the distribution engine: that it is free and no strand that reached issue before stands before it (R136). -/
def distGate (x : Iss) : Option Wait := if x.c.distBusy || earlierWaits x.c x.sid then some .distEngine else none

/-- The engine is occupied by a word (R136). -/
def occupy (s : State) (x : Iss) : State :=
  updCore s x.g fun c => { c with distBusy := true, distQ := c.distQ.filter fun n => n != x.sid }

/-- A binary word of major 39: paired when the tags are equal, else independent with a fresh tag (R131, R140). -/
def combine (i : Instr) (o : DOp) (d a b : BitVec 3) (k : BitVec 4) (s : State) : Host.Outcome State Fault Refusal :=
  wordG i s distGate fun x _ s =>
    let A := x.t.dreg a.toNat
    let B := x.t.dreg b.toNat
    let same := A.tag == B.tag
    let rs := List.zipWith (if same then paired o else independent o) (elements A.bits) (elements B.bits)
    let r : DReg := { bits := ofElements (rs.map fun p => p.1), tag := if same then A.tag else x.t.tagc }
    let s := if same then s else takeTag s x
    issueLate (occupy s x) x (.dist d.toNat) k (.dist r) (rs.foldl (fun f p => f ||| p.2) 0)

/-- a + b at each pairing (R140). -/
def execDadd (d : BitVec 3) (a : BitVec 3) (b : BitVec 3) (k : BitVec 4) (s : State) : Host.Outcome State Fault Refusal :=
  combine (.dadd d a b k) .add d a b k s

/-- a − b at each pairing (R140). -/
def execDsub (d : BitVec 3) (a : BitVec 3) (b : BitVec 3) (k : BitVec 4) (s : State) : Host.Outcome State Fault Refusal :=
  combine (.dsub d a b k) .sub d a b k s

/-- a × b at each pairing (R140). -/
def execDmul (d : BitVec 3) (a : BitVec 3) (b : BitVec 3) (k : BitVec 4) (s : State) : Host.Outcome State Fault Refusal :=
  combine (.dmul d a b k) .mul d a b k s

/-- The greater at each pairing (R140). -/
def execDmax (d : BitVec 3) (a : BitVec 3) (b : BitVec 3) (k : BitVec 4) (s : State) : Host.Outcome State Fault Refusal :=
  combine (.dmax d a b k) .max d a b k s

/-- The lesser at each pairing (R140). -/
def execDmin (d : BitVec 3) (a : BitVec 3) (b : BitVec 3) (k : BitVec 4) (s : State) : Host.Outcome State Fault Refusal :=
  combine (.dmin d a b k) .min d a b k s

/-- Bit 31 of every value inverted; weights and tag kept (R141). -/
def execDneg (d : BitVec 3) (a : BitVec 3) (k : BitVec 4) (s : State) : Host.Outcome State Fault Refusal :=
  wordG (.dneg d a k) s distGate fun x _ s =>
    let A := x.t.dreg a.toNat
    let flip (p : Point) : Point := { p with v := p.v ^^^ 2 ^ 31 }
    let r : DReg := { bits := ofElements ((elements A.bits).map fun e => e.map flip), tag := A.tag }
    issueLate (occupy s x) x (.dist d.toNat) k (.dist r) 0

/-! ### Load, store, make and tag (R142 to R148) -/

/-- A distribution load of some bytes with a fresh tag (R143, R145). -/
def distLoad (i : Instr) (kind : BitVec 16 → AccKind) (n : Nat) (d : BitVec 3) (k : BitVec 4) (s : State) : Host.Outcome State Fault Refusal :=
  wordG i s (accessGate s false) fun x vs s1 =>
    accessAt s s1 x (arg vs 0) 64 n 1 fun a =>
      issueLoad (takeTag s1 x) x (kind x.t.tagc) a 0 (.dist d.toNat) k false

/-- 512 bytes into dd with a fresh tag (R143). -/
def execDld (d : BitVec 3) (g : BitVec 7) (k : BitVec 4) (s : State) : Host.Outcome State Fault Refusal :=
  distLoad (.dld d g k) .dld 512 d k s

/-- The 512 bytes of da to memory (R144). -/
def execDst (a : BitVec 3) (g : BitVec 7) (s : State) : Host.Outcome State Fault Refusal :=
  wordG (.dst a g) s (accessGate s false) fun x vs s1 =>
    accessAt s s1 x (arg vs 0) 64 512 2 fun ad =>
      issueStore s1 x .dst ad 512 0 (x.t.dreg a.toNat).bits false

/-- A register from 64 samples with a fresh tag (R145). -/
def execDmk (d : BitVec 3) (g : BitVec 7) (k : BitVec 4) (s : State) : Host.Outcome State Fault Refusal :=
  distLoad (.dmk d g k) .dmk 256 d k s

/-- The bytes of da with the tag ga[15:0] (R146). -/
def execDtag (d : BitVec 3) (a : BitVec 3) (g : BitVec 7) (k : BitVec 4) (s : State) : Host.Outcome State Fault Refusal :=
  word (.dtag d a g k) s fun x vs s =>
    issueLate s x (.dist d.toNat) k (.dist { bits := (x.t.dreg a.toNat).bits, tag := (arg vs 0).truncate 16 }) 0

/-- Every point ga[31:0] with weight 4096, and a fresh tag (R147). -/
def execDsplat (d : BitVec 3) (g : BitVec 7) (k : BitVec 4) (s : State) : Host.Outcome State Fault Refusal :=
  word (.dsplat d g k) s fun x vs s =>
    let p : Point := { w := eighth, v := (arg vs 0).toNat % 2 ^ 32 }
    issueLate (takeTag s x) x (.dist d.toNat) k (.dist { bits := ofElements (List.replicate 8 (List.replicate 8 p)), tag := x.t.tagc }) 0

/-! ### Extraction (R153 to R158) -/

/-- The points of an element that carry mass. -/
def massive (E : List Point) : List Point := E.filter fun p => p.w != 0

/-- A moment of order n of one element, rounded once (R156). -/
def moment (E : List Point) (n : Nat) : Nat × Flags :=
  let P := massive E
  let vs := P.map fun p => f32.decode p.v
  if vs.any FVal.isNan then (distNan, snanFlags vs)
  else if vs.any fun v => !v.isFin then
    if n = 1 ∧ vs.all (fun v => v != .inf true) = true then (0x7F800000, 0)
    else if n = 1 ∧ vs.all (fun v => v != .inf false) = true then (0xFF800000, 0)
    else (distNan, fNv)
  else
    let M : Int := (P.map fun p => (p.w : Int) * units p.v).sum
    if n = 1 then roundNear M (-149 - 15)
    else
      let c : Int := (P.map fun p => (p.w : Int) * (units p.v * 2 ^ 15 - M) ^ n).sum
      roundNear c (-(164 * n : Nat) - 15)

/-- The first point at which the running weight reaches the level (R157). -/
def reachLevel (p : Nat) : Nat → List (Nat × Nat) → Nat
  | _, [] => distNan
  | c, (v, w) :: r => if p ≤ 2 * (c + w) then v else reachLevel p (c + w) r

/-- A quantile of one element at level p (R157). -/
def quantile (E : List Point) (p : Nat) : Nat × Flags :=
  let v := reachLevel p 0 (sortMass ((massive E).map fun q => (q.v, q.w)))
  if nanV v then (distNan, snanFlags [f32.decode v]) else (v, 0)

/-- A `.v` form: lane e receives the result of element e; the other bytes are cleared (R158). -/
def extractV (s : State) (x : Iss) (v : BitVec 3) (k : BitVec 4) (rs : List (Nat × Flags)) : State :=
  let b := (rs.map fun p => p.1).foldr (fun r acc => r % 2 ^ 32 + 2 ^ 32 * acc) 0
  issueLate (occupy s x) x (.vec v.toNat) k (.vec (BitVec.ofNat 4096 b)) (rs.foldl (fun f p => f ||| p.2) 0)

/-- A `.g` form: the result of the selected element, bits 63:32 cleared (R158). -/
def extractG (s : State) (x : Iss) (g : RCode) (k : BitVec 4) (r : Nat × Flags) : State :=
  issueLate (occupy s x) x (.gen g) k (.word (w64 r.1)) r.2

/-- The element that a selector names (R154). -/
def selElem (x : Iss) (a : BitVec 3) (w : Word) : List Point := (elements (x.t.dreg a.toNat).bits).getD (bits w 0 3) []

/-- A moment of each element into the lanes of vd (R156, R158). -/
def execDmomV (v : BitVec 3) (a : BitVec 3) (k : BitVec 4) (n : BitVec 2) (s : State) : Host.Outcome State Fault Refusal :=
  wordG (.dmomV v a k n) s distGate fun x _ s =>
    extractV s x v k ((elements (x.t.dreg a.toNat).bits).map fun E => moment E (n.toNat + 1))

/-- A moment of the selected element into gs (R156, R158). -/
def execDmomG (a : BitVec 3) (g : BitVec 7) (k : BitVec 4) (n : BitVec 2) (s : State) : Host.Outcome State Fault Refusal :=
  wordG (.dmomG a g k n) s distGate fun x _ s => extractG s x g k (moment (selElem x a (x.t.gen g)) (n.toNat + 1))

/-- A quantile of each element into the lanes of vd (R157, R158). -/
def execDqntV (v : BitVec 3) (a : BitVec 3) (g : BitVec 7) (k : BitVec 4) (s : State) : Host.Outcome State Fault Refusal :=
  wordG (.dqntV v a g k) s distGate fun x vs s =>
    extractV s x v k ((elements (x.t.dreg a.toNat).bits).map fun E => quantile E (bits (arg vs 0) 16 16))

/-- A quantile of the selected element into gs (R157, R158). -/
def execDqntG (a : BitVec 3) (g : BitVec 7) (k : BitVec 4) (s : State) : Host.Outcome State Fault Refusal :=
  wordG (.dqntG a g k) s distGate fun x _ s =>
    let w := x.t.gen g
    extractG s x g k (quantile (selElem x a w) (bits w 16 16))

/-- DISTRIBUTION_ENGINE_RELEASE: the engine is free 16 cycles after the word's issue (R136). -/
def stepDistRelease (s : State) (g : Nat) : Option State :=
  if (coreAt s g).distBusy then some (updCore s g fun c => { c with distBusy := false }) else none

/-- DISTRIBUTION_ENGINE_RELEASE (R136). -/
def execDistributionEngineRelease (g : Nat) (s : State) : Host.Outcome State Fault Refusal :=
  device "DISTRIBUTION_ENGINE_RELEASE" (stepDistRelease s g)

end Sys2Proof.Machine
end

