-- ==== Sys2Proof/Machine/Failure.lean ====
section
/-! DEFINITION. The end of a task that faults: the stop (R122, R123), confined stage faults (R331), what is left (R405, R406), the
fault record, the landed list and the handler (R124, R126, R127, R407, R471), errors of cores and of data (R408, R409). -/

namespace Sys2Proof.Machine

/-! ### The stop (R122 steps 2 and 3) -/

/-- A core whose strands and escapement processor issue nothing further and whose queued work is discarded; a lock-step pair lets
its release buffer go. A `vswap` that waits for its partner is discarded (R122 steps 2 and 3). -/
def stopRecord (c : Core) : Core :=
  { c with
      strands := c.strands.map fun p => (p.1, { p.2 with stopped := true }), deque := [], startQ := [], arrivals := [], spilled := [],
      refilled := none, stolen := [], steal := Core.idle.steal, vq := [], mq := [],
      vrun := match c.vrun with
        | some r => if r.partner then none else some r
        | none => none,
      lock := c.lock.map fun l => { l with release := [], drain := [], granted := [] } }

/-- Some accesses gone. -/
def dropAccs (s : State) (gone : List Nat) : State :=
  { s with accs := s.accs.filter (fun a => !gone.contains a.id), waiters := s.waiters.filter fun n => !gone.contains n }

/-- A core stopped but for its waiting tests: its discarded vector words' accesses and its contexts on the way are gone (R122 steps 2 and 3). -/
def stopIssue (s : State) (g : Nat) : State :=
  let s1 := dropAccs (updCore s g stopRecord) (vecAccs (coreAt s g))
  { s1 with flights := s1.flights.filter fun f => f.src != g }

/-- A core stopped, its waiting tests dropped at once (R122 steps 2 to 4). -/
def stopCore (s : State) (g : Nat) : State :=
  stopIssue (dropAccs s ((s.accs.filter fun a => a.gcn == g && a.sid != noSid && droppable s a).map fun a => a.id)) g

/-- A rill without markers (R331). -/
def noMarkers (r : Rill) : Rill :=
  { r with inq := r.inq.filter (fun i => i != .marker), flight := r.flight.filter fun i => i != .marker }

/-- A core of a cascade in which a stage has faulted: no markers and no further checkpoints (R331). -/
def endCheckpoints (c : Core) : Core :=
  { c with rill := noMarkers c.rill, stage := c.stage.map fun st => { st with period := 0, due := false } }

/-- What a stopped stage left waiting at a core that the handler of its fault has taken over (R331). -/
def leftTests (s : State) (t : Task) : List Nat := (s.accs.filter fun a => a.sid == noSid && t.confined == some a.gcn).map fun a => a.id

/-- The whole task stopped (R122). -/
def stopWhole (s : State) (k : Nat) (t : Task) : State :=
  let s := dropAccs ((coresOf s k t).foldl stopCore s) (leftTests s t)
  updTask s k fun t => { t with stopped := true, spawnsLeft := [], quiesce := .no, retry := none, held := false }

/-- Whether the engines of a stage that has ended have nothing left to do: queued commands are not discarded (R331). -/
def engineOver (c : Core) : Bool :=
  enginesIdle c && c.channels.all fun p => p.2.st == 0 || (p.2.flight.isEmpty && (beginIter p.2).todo.isEmpty)

/-- Whether the stages of a cascade that still run have ended (R331). -/
def stagesOver (s : State) (k : Nat) (t : Task) (g : Nat) : Bool :=
  t.spawnsLeft.isEmpty && (coresOf s k t).all fun h => h == g || (!strandsOn (coreAt s h) && engineOver (coreAt s h))

/-! ### When a stop has ended (R122 steps 4 and 5) -/

/-- Whether a stopped core has nothing outstanding: every access and chunk has landed, the current commands have ended or cannot
(R122 steps 3 and 4). -/
def coreQuiet (s : State) (g : Nat) : Bool :=
  let c := coreAt s g
  s.accs.all (fun a => a.gcn != g || a.sid == noSid) && s.reqs.all (fun r => r.gcn != g) && c.channels.all (fun p => p.2.flight.isEmpty) && c.vrun.isNone &&
  (match c.mrun with
    | none => true
    | some r => r.chunks.isEmpty && (stepMatrixComplete s g).isNone)

/-- A carried line that is still to be written back: its entry, the core, and the memory and poison marks of its scratchpad (R360, R454). -/
structure Carried where
  entry : Word
  gcn : Nat
  mem : Memory
  poison : List Nat

/-- The carried lines of a task that are still to be written back, also those that a save holds (R360, R454). -/
def carriedLines (s : State) (k : Nat) (t : Task) : List Carried :=
  let l := carriedAddrs s t
  let of_ (g : Nat) (c : Core) (m : Memory) (p : List Nat) : List Carried :=
    ((dirtyTags c).filter fun q => l.contains (tagAddr q.2)).map fun q => { entry := q.2, gcn := g, mem := m, poison := p }
  (coresOf s k t).flatMap (fun g => of_ g (coreAt s g) s.mem s.poison) ++
    (s.saves.filter fun v => v.slot == k).flatMap fun v => of_ v.gcn v.core v.bytes v.poison

/-- One carried line written back as it stands: a chunk under R26, which lands nothing where the check refuses it or a word that it reads is
poisoned, and adds a fault there (R123, R360, R409, R410). -/
def carriedBack (k : Nat) (t : Task) (s : State) (x : Carried) : State :=
  let a := tagAddr x.entry
  let src := slotBase x.gcn + tagLocal x.entry * 256
  let w := walkWin s t x.entry
  let range := [(a, a + 256)]
  let fault (s : State) (cls code : Nat) (aux : Word) (addr : Nat) : State :=
    updTask s k fun t => { t with faults := t.faults ++ [walkFault s t x.gcn x.entry cls code aux addr] }
  if chunkCheck s w t.tenant true a 256 != .pass then fault s 3 0x10 (regionAux w) a
  else match (wordsOf src 256).find? x.poison.contains with
  | some p => fault s 5 3 0 p
  | none =>
    let s1 := writeBackLine s range ((List.range 256).map fun i => Memory.get x.mem (src + i)) a
    match lineBad s range a with
    | some p => fault s1 5 3 0 p
    | none => s1

/-- The carried lines of a faulted task written back as they stand (R360). -/
def writeCarried (s : State) (k : Nat) (t : Task) : State := (carriedLines s k t).foldl (carriedBack k t) s

/-- Whether a carried line of a faulted task waits for a moving region (R26, R360). -/
def carriedWait (s : State) (k : Nat) (t : Task) : Bool :=
  (carriedLines s k t).any fun x => chunkCheck s (walkWin s t x.entry) t.tenant true (tagAddr x.entry) 256 == .wait

/-- The faults of a task in their order: by the cycle in which they were raised, then by core, a strand before an engine (R123). -/
def faultBefore (a b : FaultInfo) : Bool :=
  decide (a.time.toNat < b.time.toNat) || (a.time == b.time && (decide (a.gcn < b.gcn) || (a.gcn == b.gcn && !a.eng && b.eng)))

/-- The first fault raised (R123). -/
def firstFault : List FaultInfo → Option FaultInfo
  | [] => none
  | f :: r => some (r.foldl (fun b x => if faultBefore x b then x else b) f)

/-- Whether a task is confidential (R468). -/
def Task.prot (t : Task) : Bool := t.f 1344 64 != 0

/-- The `more` field: the faults not reported, up to 255 (R123, R124). -/
def moreOf (t : Task) : Nat := min 255 (t.faults.length - 1)

/-- A landed-list entry (R407); a protected task's keeps region and core alone (R471). -/
def landedBits (prot : Bool) (l : Landed) : Nat :=
  l.region.toNat + l.gcn * 2 ^ 20 + (if prot then 0 else l.lo * 2 ^ 32 + (l.hi - l.lo) * 2 ^ 80)

/-- The entries as they are written: at most 64, the last of a longer list marking it truncated (R407). -/
def landedList (t : Task) : List Nat :=
  let l := t.landed.map (landedBits t.prot)
  if l.length ≤ 64 then l else l.take 63 ++ [0xFFF * 2 ^ 20]

/-- The bytes of a landed list. -/
def landedBytes (t : Task) : List Byte := (landedList t).flatMap fun e => leBytes 16 e

/-- Bytes written into the ring's slots, 128 to a slot, the rest of each zero. -/
def writeSlots (s : State) (region : Nat) : List Nat → List Byte → State
  | [], _ => s
  | i :: r, l =>
    let here := l.take 128
    writeSlots (regulatorWrite s region (128 * i) (here ++ List.replicate (128 - here.length) 0)) region r (l.drop 128)

/-- The end of a cascade with a confined fault: its `more` field and its landed list enter the record's slots, unless these have freed and
another record has taken them (R331, R407). -/
def finishConfined (s : State) (t : Task) : State :=
  if t.confined.isNone then s else
  let s1 := { s with ownerRing := s.ownerRing.map fun b => if bits b 128 64 = t.handle.toNat ∧ t.prot = false then setBits b 64 8 (moreOf t) else b }
  match t.ringSlots, (kget? s.tenants t.tenant).bind fun n => n.ring with
  | slot :: ext, some r =>
    writeSlots (if t.prot then s1 else regulatorWrite s1 r.region (128 * slot + 8) [BitVec.ofNat 8 (moreOf t)]) r.region ext (landedBytes t)
  | _, _ => s1

/-- Whether a region has been revoked from under a task (R460). -/
def lostRegion (s : State) (t : Task) (r : Nat) : Bool :=
  ((kget? s.regions r).map fun e => e.state == 3).getD false || t.faults.any fun f => f.cls == 6 && f.code == 1 && bits f.aux 0 20 == r

/-- The landed list of a stopped task, which lists nothing of a region revoked from under it (R407, R460). -/
def landedOf (s : State) (k : Nat) (t : Task) : List Landed :=
  (t.landed ++ (coresOf s k t).flatMap (fun g => landingsOn (coreAt s g)) ++
    (s.saves.filter fun v => v.slot == k).flatMap fun v => landingsOn v.core).filter fun e => !lostRegion s t e.region.toNat

/-- A task at the end of its stop (its own record waits for its producer's, R360): carried lines written back, dirty lines lost, state 5, regions marked, dependants aborted,
cores freed, saves dropped (R122 step 5, R338, R360, R405, R406, R460, R468). -/
def settleTask (s : State) (k : Nat) (t : Task) : State :=
  let s0 := writeCarried s k t
  let t1 := { t with landed := landedOf s k t, faults := ((kget? s0.tasks k).map fun q => q.faults).getD t.faults }
  let s1 := clearTags s0 k t []
  let s2 := updTask s1 k fun q => { q with state := 5, quiet := true, landed := t1.landed, saved := false, consumer := none, carried := [] }
  let s3 := match t.producer with
    | some p => updTask s2 p fun q => { q with consumer := none }
    | none => s2
  let s3 := if t.kind = .user then s3 else dropProducer s3 k
  let s4 := { s3 with saves := s3.saves.filter fun v => v.slot != k }
  abortAll (freeRing (finishConfined (freeCores (markIncomplete s4 t) k t) t1) t)

/-- Whether more may still come through a channel of a core: a vector on its way, a block held or readable, or a source core whose copies
or movement program go on (R218, R311). -/
def mayCome (s : State) (g ch : Nat) : Bool :=
  (coreAt s g).chanFlight.any (fun p => p.1 == ch) || match channelStream s g ch with
    | none => false
    | some (_, st) =>
      let src := coreAt s (streamSrc (clusterOf g) st.entry)
      !exhausted st (kOf g) 1 && ((kget? st.held (kget st.delivered (kOf g) 0)).isSome ||
        !isEmpty s (streamRel (clusterOf g) st.entry st.read) || src.channels.any (fun p => p.2.st != 0 && !stageWaits s (streamSrc (clusterOf g) st.entry) p.2) ||
        (!src.epHalted && ((kget? src.strands 64).map fun t => !t.stopped && t.wait.isNone).getD false))

/-- Whether a guarded channel that holds a vector operand of a core back may still get on: chunks are in flight or due to issue, or its last
record finds room or the movement program that makes room (R173, R225). -/
def guardMayEnd (s : State) (g : Nat) (e : VEntry) : Bool :=
  let c := coreAt s g
  let epRuns := !c.epHalted && ((kget? c.strands 64).map fun t => !t.stopped).getD false
  let moves (ch : Channel) : Bool := !ch.flight.isEmpty || (ch.st == 1 && (nextChunk ch).isSome) || eventRoom c || epRuns
  engineOn s g && (entryRanges e).any fun r => c.channels.any fun p => guardsRange p.2 r.1 r.2 && moves p.2

/-- Whether the vector engine of a core may get on: a word has started that ends by itself, a word may start, the partner's vector of a waiting
`vswap` is on its way, an access may still land, or what the head of the queue waits for may come (R218, R225, R242). -/
def vecGoesOn (s : State) (g : Nat) : Bool :=
  let c := coreAt s g
  match c.vrun with
  | some r => !r.partner || (stepVectorComplete s g).isSome || !(coreAt s (partnerOf g)).vswapSent.isEmpty
  | none =>
    (stepVectorStart s g).isSome || s.accs.any (fun a => a.gcn == g && !droppable s a && a.kind != .vector) ||
    match c.vq with
    | [] => false
    | e :: _ => (chNums e.instr).any (mayCome s g) || guardMayEnd s g e ||
        ((e.acc.bind (accAt? s)).map fun x => s.accs.any fun b => standsBefore b x && !droppable s b).getD false

/-- Whether the partner of a core with a waiting `vswap` may come to send its vector: a `vswap` of it is queued, and its engine gets on (R225,
R242). -/
def swapMayCome (s : State) (g : Nat) : Bool :=
  let p := partnerOf g
  (swapWaiting (coreAt s g)).isSome && ((coreAt s p).vq.any fun e => swapsOut p e.instr) && vecGoesOn s p

/-- Whether the vector work of a faulting strand is over: nothing of it is left, or nothing that can go on (R225). -/
def vecSettled (s : State) (f : FaultInfo) : Bool :=
  let c := coreAt s f.gcn
  f.eng || !(c.vq.any (fun e => e.sid == f.sid) || (c.vrun.map fun r => r.entry.sid == f.sid).getD false) ||
  !(vecGoesOn s f.gcn || swapMayCome s f.gcn)

/-- TASK_STOP: a confined stage fault stops its stage, whose waiting tests wait on; any other fault, a second one, or the end of the remaining stages stops
the task; and once everything outstanding has landed the stop ends (R122, R331). -/
def stepTaskStop (s : State) (k : Nat) : Option State :=
  match kget? s.tasks k, (kget? s.tasks k).bind fun t => firstFault t.faults with
  | some t, some f =>
    if t.quiet || !(t.faults.all (vecSettled s)) then none
    else if t.stopped then (if (coresOf s k t).all (coreQuiet s) && !carriedWait s k t then some (settleTask s k t) else none)
    else match t.confined with
    | none =>
      if t.confines then
        let s1 := stopIssue s f.gcn
        let s2 := (coresOf s1 k t).foldl (fun s g => updCore s g endCheckpoints) s1
        some (updTask s2 k fun t => { t with confined := some f.gcn })
      else some (stopWhole s k t)
    | some g => if 2 ≤ t.faults.length || stagesOver s k t g then some (stopWhole s k t) else none
  | _, _ => none

/-- TASK_STOP (R122). -/
def execTaskStop (slot : Nat) (s : State) : Host.Outcome State Fault Refusal := device "TASK_STOP" (stepTaskStop s slot)

/-! ### The fault record (R124, R126, R127, R407, R471) -/

/-- A fault record as its 512 bits; a confidential task keeps only the fields of R471 (R124). -/
def recordBits (t : Task) (f : FaultInfo) (seq : Nat) : Nat :=
  let keep (v : Nat) : Nat := if t.prot then 0 else v
  seq % 2 ^ 32 + 2 ^ 32 + (if f.eng then 2 ^ 33 else 0) + (if f.gang then 2 ^ 34 else 0) + (if t.prot then 2 ^ 35 else 0) +
  f.cls * 2 ^ 44 + f.code * 2 ^ 48 + keep (moreOf t * 2 ^ 64 + f.win * 2 ^ 72 + f.sid * 2 ^ 78) +
  f.gcn % 16 * 2 ^ 84 + f.gcn / 16 % 40 * 2 ^ 88 + f.gcn / 640 * 2 ^ 94 + t.launch.toNat * 2 ^ 96 + t.handle.toNat * 2 ^ 128 +
  f.time.toNat * 2 ^ 192 + f.image.toNat * 2 ^ 256 +
  keep (f.pcoff.toNat * 2 ^ 320 + f.word.toNat * 2 ^ 352 + f.addr.toNat * 2 ^ 384 + f.aux.toNat * 2 ^ 448)

/-- The run of n free slots in ring order from the next slot on (R126). -/
def freeRun (r : FaultRing) (n : Nat) : Option (List Nat) :=
  if r.slots < n ∨ r.slots = 0 then none else
  (List.range r.slots).findSome? fun i =>
    let l := (List.range n).map fun j => (r.next + i + j) % r.slots
    if l.all fun q => (kget? r.used q).isNone then some l else none

/-- The run claimed for a record: in use, the sequence number taken. -/
def claimRun (r : FaultRing) (l : List Nat) : FaultRing :=
  let first := l.headD 0
  { r with next := (l.getLastD 0 + 1) % r.slots, seq := r.seq + 1, used := l.foldl (fun m q => kset m q first) r.used }

/-- A record whose freed slots another record takes has none any more (R126, R407). -/
def loseSlots (tenant : Nat) (run : List Nat) (t : Task) : Task :=
  if t.tenant = tenant ∧ t.ringSlots.any run.contains = true then { t with ringSlots := [] } else t

/-- The faulted task whose record a slot is to write: a retired one whose record still waits, else the one that the slot tracks (R126,
R338). -/
def recordTask (s : State) (k : Nat) : Option Task :=
  match s.unreported.find? fun t => handleSlot t.handle == k with
  | some t => some t
  | none => kget? s.tasks k

/-- The operator of the handler for a faulted task: its own, else the tenant's default; a faulted handler gets the default, a
faulted default handler none (R127). -/
def handlerOp (t : Task) (dflt : Nat) : Option Nat :=
  let op := t.f 1632 32
  if t.isHandler then (if dflt = 0 ∨ t.f 1600 32 = dflt then none else some dflt)
  else if op ≠ 0 then some op
  else if dflt ≠ 0 then some dflt else none

/-- The record of a handler task: the operator, the faulted task's priority and key, one core, and a copy of the faulted task's
region records for its windows, of which the handler itself has none (R127); a faulted handler has no records. -/
def handlerRecord (t : Task) (op : Nat) : BitVec 2048 :=
  let recs := if t.isHandler then 0 else t.f 0 (128 * t.nrec)
  BitVec.ofNat 2048 (recs + 2 ^ 1280 + 0xFFFF * 2 ^ 1328 + t.f 1344 64 * 2 ^ 1344 + op * 2 ^ 1600 + t.prio * 2 ^ 1664 + 2 ^ 1672 + 2 ^ 1684 + 64 * 2 ^ 1692)

/-- The chain marked failed, and the event of kind 1 to the tenant (R127, R480). -/
def failChain (s : State) (t : Task) : State :=
  match kget? s.tenants t.tenant with
  | none => s
  | some n => emitTenant { s with tenants := kset s.tenants t.tenant { n with chainFailed := true } } 1 t.tenant [t.handle]

/-- The number of a stopped stage, with the number of stages (R332). -/
def stageNo (t : Task) : Option (Nat × Nat) :=
  t.confined.bind fun g => (t.members.findIdx? fun h => h == g).map fun i => (i, t.members.length)

/-- The handler task spawned for a record in a run of slots, bound to the stage of a confined fault, or the chain failed (R127,
R332). -/
def spawnHandler (s : State) (t : Task) (run : List Nat) : Option State :=
  let dflt := ((kget? s.tenants t.tenant).map fun n => n.handler.toNat).getD 0
  match handlerOp t dflt with
  | none => some (failChain s t)
  | some op =>
    match (entriesOf s t 1).find? fun p => mOp p.2 == op with
    | none => some (failChain s t)
    | some m => (addTask s (handlerRecord t op) t.tenant t.queue (.handler t.handle) t.launch).map fun a =>
        updTask a.2 a.1 fun q => { q with ringSlots := run, bound := t.confined, stageOf := stageNo t, method := some m.1, image := mImage m.2 }

/-- The slots that a record needs: its own, and those of its landed list; eight of these for a confined fault (R407). -/
def slotsNeeded (t : Task) (confined : Bool) : Nat := 1 + (if confined then 8 else ((landedList t).length + 7) / 8)

/-- FAULT_RECORD_WRITE: once the run of slots fits, the record, the task's handle, the record's address and the landed list are
written, the owner's copy too, and the handler is spawned (R126, R127, R407). -/
def stepFaultRecord (s : State) (k : Nat) : Option State :=
  match recordTask s k, (recordTask s k).bind fun t => firstFault t.faults with
  | some t, some f =>
    let conf := t.confined.isSome && !t.quiet
    if t.recorded || !(t.quiet || conf) then none else
    match (kget? s.tenants t.tenant).bind fun n => n.ring with
    | none => none
    | some r =>
      match freeRun r (slotsNeeded t conf) with
      | none => none
      | some run =>
        let slot := run.headD 0
        let base := ((kget? s.regions r.region).map fun e => e.base).getD 0
        let b := recordBits t f r.seq
        let s1 := regulatorWrite s r.region (128 * slot) (leBytes 64 b ++ leBytes 8 t.handle.toNat ++ leBytes 8 (base + 128 * slot) ++ List.replicate 48 0)
        let s2 := writeSlots s1 r.region run.tail (if conf then [] else landedBytes t)
        let s3 := updRing { s2 with ownerRing := s2.ownerRing ++ [BitVec.ofNat 512 b] } t.tenant fun r => claimRun r run
        let s4 := { s3 with tasks := s3.tasks.map fun p => (p.1, loseSlots t.tenant run p.2), unreported := s3.unreported.filter fun q => q.handle != t.handle }
        let s4 := updTask s4 k fun q => if q.handle = t.handle then { q with recorded := true, ringSlots := run } else q
        spawnHandler s4 t run
  | _, _ => none

/-- FAULT_RECORD_WRITE (R126). -/
def execFaultRecordWrite (slot : Nat) (s : State) : Host.Outcome State Fault Refusal := device "FAULT_RECORD_WRITE" (stepFaultRecord s slot)

/-! ### Errors of cores and data (R404, R408, R409) -/

/-- The machine fault of a core that fails: unit and, for scratchpad, the failing word's address (R404, R408). -/
def coreError (s : State) (t : Task) (g unit addr : Nat) : FaultInfo :=
  { regFault s t 5 1 (w64 unit) 63 with gcn := g, addr := w64 (if unit = 1 then addr else 0), gang := decide (1 < t.members.length) }

/-- GANG_CORE_UNCORRECTABLE_ERROR: the core is withheld from placement, and the task it hosts takes machine fault 0x0001 (R408). -/
def stepCoreError (s : State) (g unit addr : Nat) : Option State :=
  if 2560 ≤ g ∨ unit = 0 ∨ 5 < unit then none else
  let s1 := updCore s g fun c => { c with withheld := true }
  match taskOn s g with
  | none => some s1
  | some t => some (raiseTask s1 g (coreError s t g unit addr))

/-- GANG_CORE_UNCORRECTABLE_ERROR (R408). -/
def execGangCoreUncorrectableError (g unit addr : Nat) (s : State) : Host.Outcome State Fault Refusal :=
  device "GANG_CORE_UNCORRECTABLE_ERROR" (stepCoreError s g unit addr)

/-- UNCORRECTABLE_DATA: a word of scratchpad or HBM is poisoned (R409, R414). -/
def stepBadData (s : State) (addr : Nat) : Option State :=
  if isHbm addr || (isSpad addr && decide (offOf addr < 0x180000) && !coreDisabled s (slotOf addr)) then some { s with poison := sinsert s.poison (wordOf addr) } else none

/-- UNCORRECTABLE_DATA (R409). -/
def execUncorrectableData (addr : Nat) (s : State) : Host.Outcome State Fault Refusal := device "UNCORRECTABLE_DATA" (stepBadData s addr)

end Sys2Proof.Machine
end

