-- ==== Sys2Proof/Machine/Preemption.lean ====
section
/-! DEFINITION. Stopping a task without fault: slices (R453), quiescence (R450 to R452, R363, R379), the context save (R454), the
resumption (R455), cascade roll-back (R329), the move of a region (R457) and the rebase of addresses (R458, R459). -/

namespace Sys2Proof.Machine

/-! ### Slices (R453) -/

/-- The save slots of device-reserved HBM (R454). -/
def saveSlots : Nat := 3072

/-- The effective cluster minimum of a tenant (R422, R464). -/
def clusterMin (s : State) (tenant : Nat) : Nat :=
  match kget? s.tenants tenant with
  | none => 0
  | some t => match t.part with
    | none => 0
    | some p => if t.degraded then t.effMin.1 else bits p 160 16

/-- Whether a held task of another tenant lacks cores, its tenant's cluster maximum aside, and outranks a placed one: its tenant is below
its cluster minimum, or its priority is higher (R453). -/
def wantsCores (s : State) (t : Task) (j : Nat) (u : Task) : Bool :=
  u.state == 0 && u.tenant != t.tenant && u.method.isSome && (boundTo s u).isNone && u.deps.isEmpty && u.faults.isEmpty && releasable s j u &&
  lacksCores s u &&
  (decide ((tenantClusters s u.tenant).length < clusterMin s u.tenant) || decide (t.prio < u.prio))

/-- Whether a task stands on a cluster that is being retired (R462). -/
def onRetiring (s : State) (k : Nat) (t : Task) : Bool := (coresOf s k t).any fun g => s.retiring.contains (clusterOf g)

/-- The save slots in use, and those that gangs already quiescing for a save will take (R453, R454). -/
def slotsTaken (s : State) : Nat :=
  s.saves.length + ((s.tasks.filter fun p => p.2.quiesce == .slice).map fun p => p.2.members.length).sum

/-- Whether a task is the handler that holds a core of a cascade, bound to its stopped stage (R332). -/
def holdsStage (s : State) (k : Nat) (u : Task) : Bool :=
  (u.state == 2 || u.state == 3) && boundTo s u == some k && (u.bound.map fun g => (coreAt s g).task != some k).getD false

/-- A task set to quiesce, from now on; one whose quiescence was cancelled waits out the time until its next (R450, R451). -/
def startQuiesce (s : State) (q : Quiesce) (t : Task) : Task :=
  match t.retry with
  | some r => { t with retry := some (q, r.2) }
  | none => if t.quiesce = .no then { t with quiesce := q, stopAt := s.clk } else t

/-- The gangs that a pre-emption for slice saves: the task, and the handler that holds a stopped stage's core (R332, R453). -/
def sliceGroup (s : State) (k : Nat) : KMap Task := s.tasks.filter fun p => p.1 == k || holdsStage s k p.2

/-- Whether too few save slots are free for the gangs of a pre-emption that are not quiescing for it already (R453, R454). -/
def slotsShort (s : State) (k : Nat) : Bool :=
  decide (saveSlots < slotsTaken s + ((sliceGroup s k).map fun p => if p.2.quiesce = .slice then 0 else p.2.members.length).sum)

/-- The gangs of a pre-emption for slice set to quiesce. -/
def startSlice (s : State) (k : Nat) : State := (sliceGroup s k).foldl (fun s p => updTask s p.1 (startQuiesce s .slice)) s

/-- SLICE_EXPIRY: a task that has held its cores for its tenant's slice is to be pre-empted; a cascade with a confined stage fault too, with
the handler that holds the stopped stage's core (R331, R332, R453, R462). -/
def stepSlice (s : State) (k : Nat) : Option State :=
  match kget? s.tasks k with
  | none => none
  | some t =>
    let slice := ((kget? s.tenants t.tenant).map fun n => n.slice).getD 0
    if !(t.state == 2 || t.state == 3) || t.saved || t.quiesce != .no || t.retry.isSome || t.held || t.stopped || t.stops || slice == 0 ||
       decide ((s.clk - t.placedAt).toNat < slice) || slotsShort s k || onRetiring s k t || !(s.tasks.any fun p => wantsCores s t p.1 p.2) then none
    else some (startSlice s k)

/-- SLICE_EXPIRY (R453). -/
def execSliceExpiry (slot : Nat) (s : State) : Host.Outcome State Fault Refusal := device "SLICE_EXPIRY" (stepSlice s slot)

/-! ### Quiescence (R450, R451) -/

/-- Whether an access of a core bars no quiescence: a test or a guarded load that waits, or the access of a vector word that has no work
started (R173, R225, R450, R452). -/
def standsStill (s : State) (a : Access) : Bool := droppable s a || (vecAccs (coreAt s a.gcn)).contains a.id

/-- Whether a strand's pending values have arrived, but for those of accesses that stand still. -/
def pendingLanded (s : State) (t : Strand) : Bool :=
  t.pending.all fun p => p.arrived || s.accs.any fun a => a.id == p.id && standsStill s a

/-- Whether a core has come to rest: everything outstanding has landed and started work has completed (R450 steps 2 to 4). -/
def coreAtRest (s : State) (g : Nat) : Bool :=
  let c := coreAt s g
  s.accs.all (fun a => a.gcn != g || standsStill s a) && s.reqs.all (fun r => r.gcn != g) && c.steal.asked.isNone &&
  s.flights.all (fun f => (f.src != g && f.dst != g) || (f.phase != .sent && f.phase != .accepted)) &&
  c.strands.all (fun p => pendingLanded s p.2) && c.rill.flight.isEmpty && c.rill.creditFlight == 0 && !c.rill.noticeFlight &&
  !startedWork c && c.vswapSent.isEmpty && c.channels.all fun p => p.2.flight.isEmpty

/-- A lock-step pair that must take a checkpoint yet: it has taken none since issue stopped, or its release buffer is not empty (R450
step 1). -/
def needsCheckpoint (s : State) (t : Task) (g : Nat) : Bool :=
  match (coreAt s g).lock with
  | none => false
  | some l => !l.release.isEmpty || decide ((s.clk - t.stopAt).toNat ≤ (s.clk - l.lastCkpt).toNat)

/-- Whether a cascade rolls back instead of saving its strands: it still runs, and no stage has faulted (R329, R331, R363, R453). -/
def rollsBack (t : Task) : Bool := t.period != 0 && t.state == 2 && t.confined.isNone && t.faults.isEmpty

/-- Whether a gang has come to rest; a cascade that rolls back lets its rills be discarded. -/
def gangAtRest (s : State) (k : Nat) (t : Task) : Bool :=
  (coresOf s k t).all fun g =>
    let r := (coreAt s g).rill
    coreAtRest (if rollsBack t then updCore s g fun c => { c with rill := { r with flight := [], creditFlight := 0, noticeFlight := false } } else s) g

/-- The number of the latest complete checkpoint of a cascade (R329). -/
def completeCheckpoint (s : State) (k : Nat) (t : Task) : Nat :=
  ((coresOf s k t).filterMap fun g => (coreAt s g).stage.map fun st => st.taken).foldl min (lastTaken s 16 ((coresOf s k t).headD 0))

/-- A cascade core as a roll-back leaves it: the strand from its record, unless its spawn message is still to come (`due`), rills empty and
open (R329, R353). -/
def rolledCore (cp : Nat) (due : Bool) (c : Core) : Core :=
  match c.stage with
  | none => c
  | some st =>
    let back := if due then [] else (kget? st.recs (cp % 2)).toList.map fun t => (0, { t with wait := none })
    { c with
        strands := back ++ c.strands.filter (fun p => p.1 == 64), startQ := [], rill := Core.idle.rill,
        stage := some { st with taken := cp, pushes := 8 * st.period * cp, due := false } }

/-- The vector that a waiting `vswap` sent, with its number: at resumption it is sent again (R242). -/
def sentBy (n : Nat) : VWrite → Nat × Vec
  | .reg _ v => (n, v)
  | .mem _ v => (n, v)

/-- A core as its save holds it: strands as R84 has them, a stopped one stopped, the refused migrations back at their words, forwarding entries gone, the
vector of a waiting `vswap` to be sent again, no strand at the distribution engine yet (R136, R242, R378, R379, R454). -/
def savedCore (c : Core) : Core :=
  { c with
      strands := c.strands.map (fun p => (p.1, savedStrand p.2)), fwds := [], steal := Core.idle.steal, distQ := [],
      vswapSent := ((swapWaiting c).map fun r => r.writes.map (sentBy c.vswapStarted)).getD [],
      kregs := c.kpend.foldl (fun m e => kset m e.2.1 e.2.2) c.kregs, kpend := [] }

/-- The kinds of access whose strand stands at its word while they are parked: the word is issued again (R450). -/
def reissued (k : AccKind) : Bool :=
  match k with
  | .join => true
  | .barWait _ => true
  | _ => false

/-- Whether an access waits for a strand that does not issue again: the word that a quiescence drops from its wait list is not met again
(R331, R450). -/
def unissued (s : State) (a : Access) : Bool :=
  droppable s a && ((kget? (coreAt s a.gcn).strands a.sid).map fun t => t.stopped).getD true

/-- One member saved: of a cascade that rolls back no access stays outstanding, since its strand restarts from its record (R329, R454). -/
def saveMember (s : State) (k : Nat) (t : Task) (cp : Nat) (i g : Nat) : Save :=
  let inside (a : Nat) : Bool := decide (slotBase g ≤ a) && decide (a < slotBase g + 0x180000)
  let c := savedCore (coreAt s g)
  { slot := k, member := i, gcn := g, core := if rollsBack t then rolledCore cp (t.spawnsLeft.any fun p => p.1 == i) c else c, bytes := s.mem.filter (fun p => inside p.1),
    empties := s.empties.filter inside, poison := s.poison.filter inside,
    accs := (s.accs.filter fun a => a.gcn == g && !reissued a.kind && !rollsBack t && !unissued s a).map fun a => { a with parked := false, refused := false },
    streams := s.streams.filter (fun p => streamSrc (p.1 / 64) p.2.entry == g), key := w64 (t.f 1344 64) }

/-- The accesses and contexts of a core gone with its save. -/
def dropWork (s : State) (g : Nat) : State :=
  let gone := (s.accs.filter fun a => a.gcn == g).map fun a => a.id
  { s with accs := s.accs.filter (fun a => a.gcn != g), waiters := s.waiters.filter (fun n => !gone.contains n),
           flights := s.flights.filter fun f => f.src != g }

/-- The context save: every member into a slot, the cores scrubbed if need be and freed (R454, R468). -/
def saveTask (s : State) (k : Nat) (t : Task) : State :=
  let cp := completeCheckpoint s k t
  let l := t.members.zipIdx.filter fun p => (coreAt s p.1).task == some k
  let s1 := { s with saves := s.saves ++ l.map fun p => saveMember s k t cp p.2 p.1 }
  let s2 := l.foldl (fun s p => dropWork s p.1) s1
  updTask (freeCores s2 k t) k fun t => { t with saved := true, quiesce := .no }

/-- Parked tests of a core that quiesces in place test again; those of strands that issue no more are gone (R450). -/
def unparkAll (s : State) (cores : List Nat) : State :=
  let s := dropAccs s ((s.accs.filter fun a => cores.contains a.gcn && unissued s a).map fun a => a.id)
  let mine (a : Access) : Bool := cores.contains a.gcn && a.parked
  let gone := (s.accs.filter mine).map fun a => a.id
  { s with accs := s.accs.map (fun a => if mine a then { a with parked := false } else a), waiters := s.waiters.filter fun n => !gone.contains n }

/-- What a task is to quiesce for once its pre-emption for slice is given up: a move of a region that it names, or the switch to full service
(R457, R462, R506). -/
def nextQuiesce (s : State) (t : Task) : Quiesce :=
  match (declared s t).find? fun d => ((kget? s.regions d.region).map fun e => e.state == 2).getD false with
  | some d => .compact d.region
  | none => if s.switching then .service else .no

/-- QUIESCENCE_COMPLETE: each lock-step pair takes its checkpoint; then, the gang at rest, a flush is downgraded and the task is saved, but
not a task that a fault stops, nor on a cluster that is being retired, where it goes on or quiesces for what else is due, nor a cascade before
the handler on its core has left; or it stands quiesced in place (R332, R363, R450, R452, R454, R457, R460, R462, R506). -/
def stepQuiesced (s : State) (k : Nat) : Option State :=
  match kget? s.tasks k with
  | none => none
  | some t =>
    if t.quiesce == .no || t.held || t.stopped || t.stops || (!t.faults.isEmpty && t.confined.isNone) then none else
    match (coresOf s k t).find? (needsCheckpoint s t) with
    | some g => lockCheckpoint s g
    | none =>
      if !gangAtRest s k t then none
      else match t.quiesce with
      | .slice =>
        if onRetiring s k t then some (updTask s k fun t => { t with quiesce := nextQuiesce s t })
        else if s.tasks.any fun p => holdsStage s k p.2 then none
        else (if t.state = 3 then downgrade s k else some s).map fun s1 => match kget? s1.tasks k with
          | some t1 => if t1.stops then s1 else saveTask s1 k t1
          | none => s1
      | _ => some (updTask (unparkAll s (coresOf s k t)) k fun t => { t with held := true })

/-- QUIESCENCE_COMPLETE (R450). -/
def execQuiescenceComplete (slot : Nat) (s : State) : Host.Outcome State Fault Refusal := device "QUIESCENCE_COMPLETE" (stepQuiesced s slot)

/-- QUIESCENCE_CANCEL: started engine work has not ended 65,536 cycles after issue stopped; issue resumes (R451). -/
def stepCancel (s : State) (k : Nat) : Option State :=
  match kget? s.tasks k with
  | none => none
  | some t =>
    let busy := (coresOf s k t).any fun g => startedWork (coreAt s g)
    if t.quiesce == .no || t.held || !busy || decide ((s.clk - t.stopAt).toNat < 65536) then none
    else some (updTask s k fun t => { t with retry := some (t.quiesce, s.clk), quiesce := .no })

/-- QUIESCENCE_CANCEL (R451). -/
def execQuiescenceCancel (slot : Nat) (s : State) : Host.Outcome State Fault Refusal := device "QUIESCENCE_CANCEL" (stepCancel s slot)

/-- QUIESCENCE_RETRY: no earlier than 2^20 cycles after the cancel; on a cluster that is being retired no slice pre-emption is tried again, and
elsewhere one needs its save slots; without them the task quiesces for what else is due (R451, R453, R457, R462). -/
def stepQuiesceRetry (s : State) (k : Nat) : Option State :=
  match kget? s.tasks k with
  | none => none
  | some t => match t.retry with
    | none => none
    | some r =>
      if (s.clk - r.2).toNat < 2 ^ 20 || t.stopped || t.stops then none
      else
        let again (q : Quiesce) : State := updTask s k fun t => { t with quiesce := q, retry := none, stopAt := s.clk }
        if r.1 != .slice then some (again r.1)
        else if onRetiring s k t then some (again (nextQuiesce s t))
        else if !slotsShort s k then some (startSlice (again .slice) k)
        else if nextQuiesce s t != .no then some (again (nextQuiesce s t))
        else none

/-- QUIESCENCE_RETRY (R451). -/
def execQuiescenceRetry (slot : Nat) (s : State) : Host.Outcome State Fault Refusal := device "QUIESCENCE_RETRY" (stepQuiesceRetry s slot)

/-! ### The rebase of addresses (R458, R459) -/

/-- A value of window n moved with the window: bits 47:0 shifted, bits 63:48 kept (R459). -/
def moved (old new : KMap Window) (n : Nat) (v : Word) : Word :=
  let a := kget old n Window.empty
  let b := kget new n Window.empty
  if a.region = b.region then
    w64 (v.toNat / 2 ^ 48 * 2 ^ 48 + addr48 ((addrOf v : Int) + b.base.toNat - a.base.toNat))
  else v

/-- The map entries of the image that holds an address, at that word for a kind of strand (R458). -/
def mapAt (s : State) (pc : Addr) (kind : Nat) : List AMapEntry :=
  match imageOf s pc.toNat with
  | none => []
  | some p => p.2.amap.filter fun e => e.off == pc.toNat - p.2.base && e.kind == kind

/-- Word j of a frame: `lr`, then its registers. -/
def moveFrameWord (old new : KMap Window) (win j : Nat) (f : Frame) : Frame :=
  if j = 0 then { f with lr := moved old new win f.lr }
  else { f with regs := f.regs.modify (j - 1) (moved old new win) }

/-- One entry of the map applied to a strand: file 0 a general register, 1 a pointer register, 2 word idx mod 64 of frame idx / 64
from the top, 3 the same from the bottom (R458, R459). -/
def moveStrand (old new : KMap Window) (t : Strand) (e : AMapEntry) : Strand :=
  match e.file with
  | 0 => t.setGen (BitVec.ofNat 7 e.idx) (moved old new e.win (t.gen (BitVec.ofNat 7 e.idx)))
  | 1 => { t with xptr := match kget? t.xptr e.idx with
      | some v => kset t.xptr e.idx (moved old new e.win v)
      | none => t.xptr }
  | 2 => { t with frames := t.frames.modify (e.idx / 64) (moveFrameWord old new e.win (e.idx % 64)) }
  | 3 => { t with frames := (t.frames.reverse.modify (e.idx / 64) (moveFrameWord old new e.win (e.idx % 64))).reverse }
  | _ => t

/-- A strand resumed after a move: its windows loaded again, its addresses rebased at its program counter (R459). -/
def rebaseStrand (s : State) (new : KMap Window) (sid : Nat) (t : Strand) : Strand :=
  { (mapAt s (savePc t) (if sid = 64 then 1 else if t.roaming then t.carry else 0)).foldl (moveStrand t.wins new) t with wins := new }

/-- A child of the deque or start queue rebased at its program counter (R459). -/
def rebaseChild (s : State) (old new : KMap Window) (h : Child) : Child :=
  (mapAt s h.pc (if h.roaming then h.carry else 0)).foldl (fun h e => if e.file = 0 ∧ e.idx = 0 then { h with g0 := moved old new e.win h.g0 } else h) h

/-- A context rebased at its program counter (R459). -/
def rebaseCtx (s : State) (old new : KMap Window) (x : Ctx) : Ctx :=
  (mapAt s x.pc x.carry).foldl (fun x e =>
    if e.file ≠ 0 then x
    else if e.idx = 123 then { x with lr := moved old new e.win x.lr }
    else { x with regs := x.regs.modify e.idx (moved old new e.win) }) x

/-- An address moved with a window whose old range holds it. -/
def movedIn (old new : KMap Window) (a : Nat) : Nat :=
  match old.find? fun p => decide (p.2.base.toNat ≤ a) && decide (a < p.2.limit.toNat) with
  | some p => (moved old new p.1 (w64 a)).toNat
  | none => a

/-- How far window n moved. -/
def shiftOf (old new : KMap Window) (n : Nat) (a : Nat) : Nat := addrOf (moved old new n (w64 a))

/-- Whether window n moved. -/
def movedWin (old new : KMap Window) (n : Nat) : Bool := (kget old n Window.empty).base != (kget new n Window.empty).base

/-- A stopped channel with its windows captured again; its cursor moves with them, and what is left of its walk is cut at the boundaries
where it then stands (R291, R303). -/
def rebaseChannel (old new : KMap Window) (ch : Channel) : Channel :=
  let sn := Blk.swin ch.block
  let dn := Blk.dwin ch.block
  { ch with
      sw := kget new sn Window.empty, dw := kget new dn Window.empty,
      todo := if movedWin old new sn || movedWin old new dn then
        chunkRuns ch.iter (ch.todo.map fun c => (shiftOf old new sn c.src, shiftOf old new dn c.dst, c.len)) else ch.todo,
      env := (shiftOf old new dn ch.env.1, shiftOf old new dn ch.env.1 + (ch.env.2 - ch.env.1)), wm := shiftOf old new dn ch.wm }


/-- The windows that a core's task had when it was loaded: those of its escapement processor (R25, R280). -/
def epWindows (c : Core) : KMap Window := ((kget? c.strands 64).map fun t => t.wins).getD []

/-- A core resumed after a move: windows, registers, children, contexts, queued vector words and channels (R303, R455, R459). -/
def rebaseCore (s : State) (new : KMap Window) (c : Core) : Core :=
  let old := epWindows c
  { c with
      strands := c.strands.map (fun p => (p.1, rebaseStrand s new p.1 p.2)), deque := c.deque.map (rebaseChild s old new),
      startQ := c.startQ.map (rebaseChild s old new), stolen := c.stolen.map (rebaseChild s old new),
      arrivals := c.arrivals.map (rebaseCtx s old new), refilled := c.refilled.map (rebaseCtx s old new),
      vq := c.vq.map (fun e => { e with ea := movedIn old new e.ea }), channels := c.channels.map fun p => (p.1, rebaseChannel old new p.2) }

/-- The spilled contexts of a core rebased in their slots (R459). -/
def rebaseSpilled (s : State) (g : Nat) (new : KMap Window) : State :=
  let c := coreAt s g
  let old := epWindows c
  c.spilled.foldl (fun s i => pokeRaw s (spillAddr g i) (leBytes 256 (rebaseCtx s old new (spillCtx s g i)).encode)) s

/-- A core's lock-step record after a resumption: the state it resumes from is its checkpoint (R212, R450). -/
def relock (s : State) (g : Nat) : State :=
  updCore s g fun c => { c with lock := c.lock.map fun l => { lockSaved s g c l with count := l.count } }

/-- A core's accesses that test again, and its contexts that were refused, moved with their windows (R379, R459). -/
def rebaseAccs (s : State) (g : Nat) (old new : KMap Window) : State :=
  { s with accs := s.accs.map (fun a => if a.gcn = g then { a with addr := movedIn old new a.addr, xr := a.xr.map fun r => (movedIn old new r.1, r.2) } else a),
           flights := s.flights.map fun f => if f.src = g then { f with ctx := rebaseCtx s old new f.ctx } else f }

/-- The spawn messages that a task's cores have not received rebased at the start stub (R353, R459). -/
def rebaseSpawnsFrom (s : State) (k : Nat) (old : KMap Window) : State :=
  updTask s k fun t => { t with spawnsLeft := t.spawnsLeft.map fun p => (p.1, rebaseChild s old (taskWindows s t) p.2) }

/-- One core of a task resumed with the task's windows as they are now (R455 step 3, R459). -/
def resumeCore (s : State) (t : Task) (g : Nat) : State :=
  let new := taskWindows s t
  let old := epWindows (coreAt s g)
  relock (updCore (rebaseSpilled (rebaseAccs s g old new) g new) g (rebaseCore s new)) g

/-! ### Resumption (R455) -/

/-- The scratchpad of a saved member restored, but for foreign bytes (R455 step 1). -/
def restoreBytes (s : State) (t : Task) (v : Save) : State :=
  let own (a : Nat) : Bool := decide (slotBase v.gcn ≤ a) && decide (a < slotBase v.gcn + 0x180000) && !foreign s t a
  { s with mem := (v.bytes.filter fun p => own p.1).foldl (fun m p => Memory.set m p.1 p.2) (s.mem.filter fun p => !own p.1),
           empties := (v.empties.filter own).foldl sinsert (s.empties.filter fun a => !own a),
           poison := (v.poison.filter own).foldl sinsert (s.poison.filter fun a => !own a) }

/-- A saved core's part in a cascade as it is restored: a bound handler finds the stage and the rills as its cascade has them now, or no
neighbours once the cascade has ended (R332). -/
def restoreStage (s : State) (t : Task) (v c : Core) : Core :=
  if t.bound.isNone then v
  else if (boundTo s t).isSome then { v with stage := c.stage.map fun st => { st with period := 0, due := false }, rill := c.rill }
  else unlink v

/-- One member restored on its core, in a lock-step task with the same bytes in the odd scratchpad; vectors that its partner sent meanwhile
wait there (R210, R242, R332, R455). -/
def restoreMember (k : Nat) (t : Task) (s : State) (v : Save) : State :=
  let s1 := restoreBytes s t v
  let s1 := if t.lockStep then mirrorSlot s1 v.gcn (foreign s t) else s1
  let back (c : Core) : Core :=
    let r := restoreStage s t v.core c
    { r with task := some k, member := v.member, withheld := c.withheld,
                  vswapIn := v.core.vswapIn ++ c.vswapIn.filter fun p => !swapKnown v.core p.1 }
  let s2 := updCore s1 v.gcn back
  let s3 := if t.lockStep then updCore s2 (v.gcn + 1) fun c => { placedShadow k v.member with withheld := c.withheld } else s2
  resumeCore { s3 with accs := s3.accs ++ v.accs, streams := v.streams.foldl (fun m p => kset m p.1 p.2) s3.streams } t v.gcn

/-- A saved task on its cores again. -/
def restoreTask (s : State) (k : Nat) (t : Task) : State :=
  let l := s.saves.filter fun v => v.slot == k
  let s0 := match l.head? with
    | some v => rebaseSpawnsFrom s k (epWindows v.core)
    | none => s
  let s1 := l.foldl (restoreMember k t) { s0 with saves := s.saves.filter fun v => v.slot != k }
  updTask s1 k fun t => { t with saved := false, placedAt := s.clk }

/-- A task quiesced in place goes on: after a move with its windows loaded anew and its addresses rebased (R457 step 5, R506). -/
def releaseHeld (s : State) (k : Nat) (t : Task) : State :=
  let old := epWindows (coreAt s ((coresOf s k t).headD 0))
  updTask ((coresOf s k t).foldl (fun s g => resumeCore s t g) (rebaseSpawnsFrom s k old)) k fun t => { t with held := false, quiesce := .no }

/-- Whether a saved task may resume: no fault stops it, its cores are free, no region that it names is moving, and no saved task of a retiring
cluster goes first; a handler bound to a stage waits only for one that can resume now (R332, R455, R457, R462). -/
def mayResume (s : State) (k : Nat) (t : Task) : Bool :=
  !s.switching && t.faults.all (fun f => t.confined == some f.gcn) && coresBack s k t && !namesMoving s t &&
  !savedFirst s k (if (boundTo s t).isSome then [] else savedCores s k t)

/-- TASK_RESUME: a saved task whose cores are free, or a task quiesced in place whose region has moved or whose clocks have
switched (R455, R457, R506). -/
def stepResume (s : State) (k : Nat) : Option State :=
  match kget? s.tasks k with
  | none => none
  | some t =>
    if t.saved then (if mayResume s k t then some (restoreTask s k t) else none)
    else if !t.held then none
    else match t.quiesce with
    | .no => none
    | .slice => none
    | _ => if s.switching || namesMoving s t then none else some (releaseHeld s k t)

/-- TASK_RESUME (R455). -/
def execTaskResume (slot : Nat) (s : State) : Host.Outcome State Fault Refusal := device "TASK_RESUME" (stepResume s slot)

/-! ### The move of a region (R456, R457) -/

/-- Whether a task names a region. -/
def names (s : State) (t : Task) (r : Nat) : Bool := (declared s t).any fun d => d.region == r

/-- Whether a task in state 3 names a region (R456). -/
def namedInFlush (s : State) (r : Nat) : Bool := s.tasks.any fun p => p.2.state == 3 && names s p.2 r

/-- The holders of a region: the tasks in state 2 that name it and hold cores (R457). -/
def holders (s : State) (r : Nat) : List (Nat × Task) :=
  s.tasks.filter fun p => p.2.state == 2 && !p.2.saved && names s p.2 r

/-- A region's lines copied to its new range, with their full/empty bits and poison marks (R457 step 3). -/
def moveBytes (s : State) (base new ext : Nat) : State :=
  let here (a : Nat) : Bool := decide (base ≤ a) && decide (a < base + ext)
  let there (a : Nat) : Bool := decide (new ≤ a) && decide (a < new + ext)
  let moved (a : Nat) : Nat := a - base + new
  { s with mem := (s.mem.filter fun p => here p.1).foldl (fun m p => Memory.set m (moved p.1) p.2) (s.mem.filter fun p => !there p.1),
           empties := (s.empties.filter here).foldl (fun l a => sinsert l (moved a)) (s.empties.filter fun a => !there a),
           poison := (s.poison.filter here).foldl (fun l a => sinsert l (moved a)) (s.poison.filter fun a => !there a) }

/-- A tag entry whose source lies in the old range, rebased by the move (R457 step 3). -/
def moveTag (base new ext : Nat) (p : Nat × Word) : Nat × Word :=
  if tagValid p.2 && decide (base ≤ tagAddr p.2) && decide (tagAddr p.2 < base + ext) then
    (p.1, setBits p.2 0 40 ((tagAddr p.2 - base + new) / 256))
  else p

/-- The tag table of a core rebased by a move. -/
def moveTags (base new ext : Nat) (c : Core) : Core := { c with tagTab := c.tagTab.map (moveTag base new ext) }

/-- COMPACTION_ENTRY_WRITE: every holder stands quiesced and no task in state 3 names the region; the lines are copied, and in one write
the entry takes its new base and generation and is live (R418, R419, R456, R457, R481). -/
def stepCompaction (s : State) (r : Nat) : Option State :=
  match kget? s.regions r with
  | none => none
  | some e => match e.state == 2, e.moveTo with
    | true, some new =>
      if !((holders s r).all fun p => p.2.held) || namedInFlush s r then none
      else
        let s1 := moveBytes s e.base new e.extent
        let s2 := { s1 with cores := s1.cores.map (fun p => (p.1, moveTags e.base new e.extent p.2)),
                            saves := s1.saves.map fun v => { v with core := moveTags e.base new e.extent v.core } }
        let s3 := updRegion s2 r fun e => { e with base := new, gen := e.gen + 1, state := 1, moveTo := none }
        some (logWrite s3 new e.extent)
    | _, _ => none

/-- COMPACTION_ENTRY_WRITE (R457). -/
def execCompactionEntryWrite (r : Nat) (s : State) : Host.Outcome State Fault Refusal := device "COMPACTION_ENTRY_WRITE" (stepCompaction s r)

/-- A region set moving to a new base, and its holders quiesced in place (R457 steps 1 and 2). -/
def startMove (s : State) (r new : Nat) : State :=
  let s1 := updRegion s r fun e => { e with state := 2, moveTo := some new }
  (holders s1 r).foldl (fun s p => updTask s p.1 (startQuiesce s (.compact r))) s1

end Sys2Proof.Machine
end

