-- ==== Sys2Proof/Machine/Regions.lean ====
section
/-! DEFINITION. Management requests and replies (R474, R509, R510), and those on memory: regions (R416 to R419, R423, R456, R460,
R470, R479), incomplete marks (R406), memory windows (R420), host transfers (R421, R479), fault rings (R126). -/

namespace Sys2Proof.Machine

/-! ### Requests (R509, R510) -/

/-- What a performed request gives: the state, the status of the reply and its data. -/
abbrev Answer := State × Nat × List Word

/-- A request done. -/
def done (s : State) : Answer := (s, 0, [])

/-- A request refused. -/
def refuse (s : State) : Answer := (s, 1, [])

/-- The header's 128 bits (R509). -/
def headerBits (h : ReqHdr) : Nat :=
  h.kind % 2 ^ 8 + h.master % 2 ^ 8 * 2 ^ 8 + h.tenant % 2 ^ 8 * 2 ^ 16 + h.status % 2 ^ 8 * 2 ^ 24 + h.seq % 2 ^ 32 * 2 ^ 32 + h.arg.toNat * 2 ^ 64

/-- The reply to a request, on its master's connection: the request's header with the status, stored little-endian, and the data (R509). -/
def reply (s : State) (h : ReqHdr) (status : Nat) (data : List Word) : State :=
  emit s (.reply h.master (leBytes 16 (headerBits { h with status := status })) data)

/-- Whether a request is the one that its master waits for. -/
def reqWaits (s : State) (h : ReqHdr) : Bool := kget? s.reqWait h.master == some h.seq

/-- Whether another request must be performed first: one of the same master, or for an owner's request any owner's (R475, R509). -/
def reqBehind (s : State) (h : ReqHdr) (owned : Bool) : Bool :=
  s.reqWait.any fun p => if p.1 = h.master then p.2 != h.seq else owned

/-- Whether a kind is served before reduced service (R510). -/
def earlyKind (kind : Nat) : Bool := kind == 1 || kind == 2 || kind == 15

/-- A request of the row's kind performed, of a master that the device descriptor records. Requests of a master are performed in order: one
that finds another waiting is held back or answered busy (log entry 89). A kind not listed is refused; until reduced service only an early
kind is served; an owner's request of another master is refused; else the request gives its own answer, or waits (R474, R475, R509, R510). -/
def manage (s : State) (h : ReqHdr) (kind : Nat) (owned : Bool) (k : State → Option Answer) : Option State :=
  if s.service == .halted || (kget? s.mgmt h.master).isNone then none
  else if reqBehind s h owned then
    (if Config.busyReply s.nextId then some (reply { s with nextId := s.nextId + 1 } h 4 []) else none)
  else if h.kind == 0 || decide (15 < h.kind) then some (reply s h 1 [])
  else if h.kind != kind then none
  else if !earlyKind kind && !inService s then some (reply s h 3 [])
  else if owned && s.owner != some h.master && !reqWaits s h then some (reply s h 2 [])
  else match k s with
    | some a => some (reply { a.1 with reqWait := kdel a.1.reqWait h.master } h a.2.1 a.2.2)
    | none => if reqWaits s h then none else some { s with reqWait := kset s.reqWait h.master h.seq }

/-- Whether a request's body agrees with its header: the tenant that it acts on, and its first argument, where the body has one (R509; DESIGN
CHOICE, log entry 98). -/
def headerAgrees (h : ReqHdr) (tenant arg : Option Nat) : Bool := tenant.all (fun t => h.tenant == t) && arg.all fun n => h.arg == w64 n

/-- A request on the tenant and the first argument that its header names, else refused (R509, log entry 98). -/
def manageOn (s : State) (h : ReqHdr) (kind : Nat) (owned : Bool) (tenant arg : Option Nat) (k : State → Option Answer) : Option State :=
  manage s h kind owned fun s => if headerAgrees h tenant arg then k s else some (refuse s)

/-! ### Ranges and capacity (R417, R423) -/

/-- 1 GiB. -/
def gib : Nat := 2 ^ 30

/-- Whether a range shares a byte with a region other than r, or with the range that one is moving to (R417, R457). -/
def rangeTaken (s : State) (r base ext : Nat) : Bool :=
  s.regions.any fun p => p.1 != r && p.2.state != 0 &&
    (overlap base ext p.2.base p.2.extent || (match p.2.moveTo with
      | some m => overlap base ext m p.2.extent
      | none => false))

/-- Whether a range lies wholly in tenant-allocatable HBM (R15, R16, R463). -/
def inHbm (s : State) (base ext : Nat) : Bool := decide (base + ext ≤ allocTop s)

/-- Whether a range lies wholly in the populated part of one slot, below offset 0x14_0000 (R3, R115, R417). -/
def inSlot (s : State) (base ext : Nat) : Bool :=
  isSpad base && decide (offOf base + ext ≤ 0x140000) && !coreDisabled s (slotOf base)

/-- Base and extent as R416 has them. -/
def rangeShaped (base ext : Nat) : Bool := base % 256 == 0 && ext % 256 == 0 && decide (256 ≤ ext)

/-- The HBM bytes of a tenant's live, moving and revoked regions (R423). -/
def usedBy (s : State) (t : Nat) : Nat :=
  (s.regions.filterMap fun p => if p.2.owner = t ∧ p.2.state ≠ 0 ∧ isHbm p.2.base = true then some p.2.extent else none).sum

/-- The capacity limits of a tenant in GiB: effective minimum and maximum (R422, R464). -/
def capLimits (s : State) (t : Nat) : Nat × Nat :=
  match kget? s.tenants t with
  | none => (0, 0)
  | some n => match n.part with
    | none => (0, 0)
    | some p => (if n.degraded then n.effMin.2 else bits p 208 16, bits p 224 16)

/-- The tenant capacity in GiB (R463). -/
def capacity (s : State) : Nat := 1008 - 32 * mostChans s.chanRetired

/-- Whether a tenant may take more bytes of HBM: up to its maximum, and beyond its minimum only what the others' minima do not
reserve (R423). -/
def capacityOk (s : State) (t ext : Nat) : Bool :=
  let mine := usedBy s t + ext
  let lim := capLimits s t
  let others := ((List.range 64).map fun j => if j = t then 0 else max ((capLimits s j).1 * gib) (usedBy s j)).sum
  decide (mine ≤ lim.2 * gib) && (decide (mine ≤ lim.1 * gib) || decide (mine + others ≤ capacity s * gib))

/-! ### Regions (R417 to R419) -/

/-- The generation that an entry holds; one never used holds 0 (R418). -/
def genOf (s : State) (r : Nat) : BitVec 16 := ((kget? s.regions r).map fun e => e.gen).getD 0

/-- The generation of a region at creation: the next of its entry, or that which it brings from another device (R417, R483). -/
def createGen (s : State) (d : RegionDesc) : BitVec 16 :=
  match d.moved with
  | some m => m.1
  | none => genOf s d.number + 1

/-- Whether a creation is refused (R417, R469, R483). -/
def createRefused (s : State) (d : RegionDesc) : Bool :=
  decide (s.regionSize ≤ d.number) || decide (63 < d.owner) || s.burnt.contains d.number ||
  ((kget? s.regions d.number).map fun e => e.state != 0).getD false || !rangeShaped d.base d.extent ||
  !(if isSpad d.base then inSlot s d.base d.extent else inHbm s d.base d.extent) || rangeTaken s d.number d.base d.extent ||
  (isHbm d.base && !capacityOk s d.owner d.extent) || (d.prot && isSpad d.base) ||
  (d.prot && s.regions.any fun p => (p.2.state == 1 || p.2.state == 2) && p.2.prot && p.2.tensor == d.tensor)

/-- Every byte of a range zero, every word full and unpoisoned (R417). -/
def zeroRange (s : State) (base ext : Nat) : State :=
  let inside (a : Nat) : Bool := decide (base ≤ a) && decide (a < base + ext)
  { s with
      mem := s.mem.filter (fun p => !inside p.1), empties := s.empties.filter (fun a => !inside a),
      poison := s.poison.filter fun a => !inside a }

/-- The entry of a region at creation; its incomplete mark may come from another device (R416, R483). -/
def newRegion (d : RegionDesc) (gen : BitVec 16) : Region :=
  { base := d.base, extent := d.extent, gen := gen, tag := d.tag, owner := d.owner, state := 1, prot := d.prot, inc := (d.moved.map fun m => m.2).getD false,
    rekey := false, tensor := if d.prot then d.tensor else 0, wver := 0, sweep := 0, moveTo := none }

/-- REGION_CREATE: checked, scrubbed, live with the next generation, or that of the region's old device; where the next would be 0xFFFF the
number is retired (R417, R418, R483). -/
def stepRegionCreate (s : State) (h : ReqHdr) (d : RegionDesc) : Option State :=
  manageOn s h 4 true (some d.owner) (some d.number) fun s => some (
    if createRefused s d then refuse s
    else if createGen s d = 0xFFFF then refuse { s with burnt := if d.moved.isNone then sinsert s.burnt d.number else s.burnt }
    else
      let s1 := zeroRange s d.base d.extent
      done (logWrite { s1 with regions := kset s1.regions d.number (newRegion d (createGen s d)) } d.base d.extent))

/-- REGION_CREATE (R417). -/
def execRegionCreate (h : ReqHdr) (d : RegionDesc) (s : State) : Host.Outcome State Fault Refusal := device "REGION_CREATE" (stepRegionCreate s h d)

/-- Whether a task in states 0 to 3 names a region. -/
def regionNamed (s : State) (r : Nat) : Bool := s.tasks.any fun p => decide (p.2.state ≤ 3) && names s p.2 r

/-- REGION_FREE: state 00; it waits while a task in states 0 to 3 names the region (R419). -/
def stepRegionFree (s : State) (h : ReqHdr) (r : Nat) : Option State :=
  manageOn s h 4 true none (some r) fun s => match kget? s.regions r with
    | none => some (refuse s)
    | some e =>
      if e.state = 0 then some (refuse s)
      else if regionNamed s r then none
      else some (done (updRegion s r fun e => { e with state := 0, moveTo := none, rekey := false, sweep := 0 }))

/-- REGION_FREE (R419). -/
def execRegionFree (h : ReqHdr) (r : Nat) (s : State) : Host.Outcome State Fault Refusal := device "REGION_FREE" (stepRegionFree s h r)

/-- The lowest window whose record names a region, for a task that holds cores; else 63 (R461). -/
def nameWin (s : State) (t : Task) (r : Nat) : Nat :=
  if t.members.isEmpty || t.saved then 63 else
  match (taskWindows s t).find? fun p => p.2.region.toNat == r && p.2 != .empty with
  | some p => p.1
  | none => (((List.range t.nrec).find? fun i => t.reg i == r)).getD 63

/-- The core that a record of the regulator names: the root of a gang that holds cores, else the unit's (R344). -/
def rootCore (t : Task) : Nat := if t.members.isEmpty || t.saved then unitCore t else t.members.headD 0

/-- A revocation fault (R460, R461). -/
def revokeFault (s : State) (t : Task) (code : Nat) (aux : Word) (win : Nat) : FaultInfo :=
  { regFault s t 6 code aux win with image := t.image, gcn := rootCore t }

/-- REGION_REVOKE: state 11 in one write; every task in states 0 to 3 that names the region takes revocation fault 0x0001 and
stops (R460). -/
def stepRegionRevoke (s : State) (h : ReqHdr) (r : Nat) : Option State :=
  manageOn s h 4 true none (some r) fun s => some (match kget? s.regions r with
    | none => refuse s
    | some e =>
      if e.state = 0 then refuse s
      else
        let hit (p : Nat × Task) : Nat × Task :=
          if p.2.state ≤ 3 ∧ names s p.2 r = true then
            (p.1, { p.2 with faults := p.2.faults ++ [revokeFault s p.2 1 (w64 (r + e.gen.toNat * 2 ^ 20)) (nameWin s p.2 r)] })
          else p
        done (updRegion { s with tasks := s.tasks.map hit } r fun e => { e with state := 3, moveTo := none }))

/-- REGION_REVOKE (R460). -/
def execRegionRevoke (h : ReqHdr) (r : Nat) (s : State) : Host.Outcome State Fault Refusal := device "REGION_REVOKE" (stepRegionRevoke s h r)

/-- A region entry as its 512 bits (R416). -/
def regionBits (e : Region) : Nat :=
  e.sweep * 2 ^ 464 + e.wver.toNat * 2 ^ 432 + e.tensor.toNat * 2 ^ 400 + e.extent * 2 ^ 144 + e.base * 2 ^ 96 + e.gen.toNat * 2 ^ 80 +
  e.tag.toNat * 2 ^ 64 + e.owner * 2 ^ 58 + e.state.toNat * 2 ^ 56 + (if e.prot then 2 ^ 55 else 0) + (if e.inc then 2 ^ 54 else 0) +
  (if e.rekey then 2 ^ 53 else 0)

/-- The data of a region query: words 1 and 2 of the entry, and owner and state at their places in word 0 (R416, R479). -/
def queryData (e : Region) : List Word :=
  [w64 (regionBits e / 2 ^ 64), w64 (regionBits e / 2 ^ 128), w64 (e.owner * 2 ^ 58 + e.state.toNat * 2 ^ 56)]

/-- REGION_QUERY: for a region of the requesting tenant, by a master that serves it (R474, R479). -/
def stepRegionQuery (s : State) (h : ReqHdr) (r : Nat) : Option State :=
  manageOn s h 4 false none (some r) fun s => some (match kget? s.regions r with
    | none => refuse s
    | some e => if e.state = 0 ∨ e.owner ≠ h.tenant ∨ masterServes s h.master h.tenant = false then refuse s else (s, 0, queryData e))

/-- REGION_QUERY (R479). -/
def execRegionQuery (h : ReqHdr) (r : Nat) (s : State) : Host.Outcome State Fault Refusal := device "REGION_QUERY" (stepRegionQuery s h r)

/-- Whether a region may move to a new base: a live HBM region, a free range in tenant-allocatable HBM, a generation left (R456). -/
def moveOk (s : State) (r : Nat) (e : Region) (base : Nat) : Bool :=
  e.state == 1 && isHbm e.base && rangeShaped base e.extent && inHbm s base e.extent && !rangeTaken s r base e.extent && e.gen != 0xFFFE

/-- REGION_COMPACT: the move of a live HBM region begins; it waits for a flush and for a sweep (R456, R457). -/
def stepRegionCompact (s : State) (h : ReqHdr) (r base : Nat) : Option State :=
  manageOn s h 4 true none (some r) fun s => match kget? s.regions r with
    | none => some (refuse s)
    | some e =>
      if !moveOk s r e base then some (refuse s)
      else if namedInFlush s r || e.rekey then none
      else some (done (startMove s r base))

/-- REGION_COMPACT (R457). -/
def execRegionCompact (h : ReqHdr) (r base : Nat) (s : State) : Host.Outcome State Fault Refusal := device "REGION_COMPACT" (stepRegionCompact s h r base)

/-- REGION_REKEY: the write version of a live protected region advances and its sweep begins; it waits while the region moves
(R470). -/
def stepRegionRekey (s : State) (h : ReqHdr) (r : Nat) : Option State :=
  manageOn s h 4 true none (some r) fun s => match kget? s.regions r with
    | none => some (refuse s)
    | some e =>
      if e.state = 2 then none
      else if e.state ≠ 1 ∨ e.prot = false ∨ e.rekey = true ∨ e.wver = 0xFFFFFFFF then some (refuse s)
      else some (done (updRegion s r fun e => { e with wver := e.wver + 1, sweep := 0, rekey := true }))

/-- REGION_REKEY (R470). -/
def execRegionRekey (h : ReqHdr) (r : Nat) (s : State) : Host.Outcome State Fault Refusal := device "REGION_REKEY" (stepRegionRekey s h r)

/-- REKEY_SWEEP_STEP: one line re-encrypted, or the last write of the sweep (R470). -/
def stepSweep (s : State) (r : Nat) : Option State :=
  match kget? s.regions r with
  | none => none
  | some e =>
    if e.rekey = false ∨ e.state = 0 then none
    else if e.sweep < e.extent then some (updRegion s r fun e => { e with sweep := e.sweep + 256 })
    else some (updRegion s r fun e => { e with rekey := false, sweep := 0 })

/-- REKEY_SWEEP_STEP (R470). -/
def execRekeySweepStep (r : Nat) (s : State) : Host.Outcome State Fault Refusal := device "REKEY_SWEEP_STEP" (stepSweep s r)

/-- INCOMPLETE_MARK_CLEAR: system software clears a mark (R406). -/
def stepMarkClear (s : State) (h : ReqHdr) (r : Nat) : Option State :=
  manageOn s h 4 true none (some r) fun s => some (match kget? s.regions r with
    | none => refuse s
    | some e => if e.state = 0 then refuse s else done (updRegion s r fun e => { e with inc := false }))

/-- INCOMPLETE_MARK_CLEAR (R406). -/
def execIncompleteMarkClear (h : ReqHdr) (r : Nat) (s : State) : Host.Outcome State Fault Refusal := device "INCOMPLETE_MARK_CLEAR" (stepMarkClear s h r)

/-! ### Memory windows and host transfers (R420, R421, R479) -/

/-- MEMORY_WINDOW_INSTALL: refused over device-reserved HBM, or off a multiple of 4 KiB (R16, R420). -/
def stepMemWindow (s : State) (h : ReqHdr) (t i : Nat) (w : BitVec 128) : Option State :=
  manageOn s h 5 true (some t) (some i) fun s => some (match kget? s.tenants t with
    | none => refuse s
    | some n =>
      let base := bits w 0 48
      let limit := bits w 48 48
      if 16 ≤ i ∨ base % 4096 ≠ 0 ∨ limit % 4096 ≠ 0 ∨ (base < spadBase ∧ reservedBase < limit ∧ base < limit) then refuse s
      else done { s with tenants := kset s.tenants t { n with wins := kset n.wins i w } })

/-- MEMORY_WINDOW_INSTALL (R420). -/
def execMemoryWindowInstall (h : ReqHdr) (t i : Nat) (w : BitVec 128) (s : State) : Host.Outcome State Fault Refusal :=
  device "MEMORY_WINDOW_INSTALL" (stepMemWindow s h t i w)

/-- Whether a tenant's window holds a range and permits a direction (R420, R421). -/
def windowCovers (n : Tenant) (write : Bool) (a len : Nat) : Bool :=
  n.wins.any fun p => bit1 p.2 (110 + if write then 1 else 0) && decide (bits p.2 0 48 ≤ a) && decide (a + len ≤ bits p.2 48 48)

/-- Whether n bytes touch a poisoned word that they do not cover (R409). -/
def partPoison (s : State) (a n : Nat) : Bool := (wordsOf a n).any fun w => s.poison.contains w && !covers a n w

/-- Bytes from outside landed: a poisoned word that they cover in part stays as it is (R170, R409, R421). -/
def landOutside (s : State) (a : Nat) (l : List Byte) : State :=
  if partPoison s a l.length then
    (wordsOf a l.length).foldl (fun s w =>
      let lo := max a w
      let n := min (a + l.length) (w + 8) - lo
      if s.poison.contains w && !covers a l.length w then s else landBytes s lo ((l.drop (lo - a)).take n)) s
  else landBytes s a l

/-- What a host transfer answers: 0 passed, 1 check failed, or sent by another endpoint than the tenant's, 2 outside every window, 3 stale
generation, 4 the tenant drains (R26, R421, R476, R479, R482). -/
def transferCode (s : State) (t : Transfer) : Nat :=
  match kget? s.regions t.region, kget? s.tenants t.tenant with
  | some e, some n =>
    if !fromTenant s ⟨t.endpoint, t.tenant⟩ || e.state != 1 || e.owner != t.tenant || decide (e.extent < t.offset + t.len) then 1
    else if e.gen ≠ t.gen then 3
    else if t.write && draining s t.tenant then 4
    else if !windowCovers n t.write (e.base + t.offset) t.len then 2
    else if !t.write && poisonedIn s (e.base + t.offset) t.len then 1
    else 0
  | _, _ => 1

/-- HOST_TRANSFER_CHUNK: one chunk, checked and transferred or refused; it waits while its region moves (R26, R421). -/
def stepTransfer (s : State) (t : Transfer) : Option State :=
  let a := ((kget? s.regions t.region).map fun e => e.base).getD 0 + t.offset
  if !inService s || ((kget? s.regions t.region).map fun e => e.state == 2).getD false || t.len == 0 || decide (512 < a % 512 + t.len) || (t.write && t.bytes.length != t.len) then none
  else
    let code := transferCode s t
    some (
      if code ≠ 0 then emit s (.host t.endpoint t.tenant code [])
      else if t.write then emit (landOutside s a t.bytes) (.host t.endpoint t.tenant 0 [])
      else emit s (.host t.endpoint t.tenant 0 (readBytes s a t.len)))

/-- HOST_TRANSFER_CHUNK (R421). -/
def execHostTransferChunk (t : Transfer) (s : State) : Host.Outcome State Fault Refusal := device "HOST_TRANSFER_CHUNK" (stepTransfer s t)

/-! ### Fault rings (R126) -/

/-- FAULT_RING_REGISTER: a live region of the tenant in tenant-allocatable HBM, of at least 16 slots of 128 bytes (R126). -/
def stepFaultRing (s : State) (h : ReqHdr) (t r : Nat) : Option State :=
  manageOn s h 3 true (some t) (some r) fun s => some (match kget? s.tenants t, kget? s.regions r with
    | some n, some e =>
      if n.ring.isSome || e.state != 1 || e.owner != t || isSpad e.base || decide (e.extent < 16 * 128) then refuse s
      else done { s with tenants := kset s.tenants t { n with ring := some { region := r, slots := e.extent / 128, next := 0, seq := 0, used := [] } } }
    | _, _ => refuse s)

/-- FAULT_RING_REGISTER (R126). -/
def execFaultRingRegister (h : ReqHdr) (t r : Nat) (s : State) : Host.Outcome State Fault Refusal := device "FAULT_RING_REGISTER" (stepFaultRing s h t r)

/-- Whether a handler that has not ended uses the run of slots that begins with a slot. -/
def handlerUses (s : State) (t slot : Nat) : Bool :=
  s.tasks.any fun p => p.2.tenant == t && p.2.isHandler && decide (p.2.state ≤ 3) && p.2.ringSlots.head? == some slot

/-- FAULT_SLOT_FREE: system software frees the run of slots of a record that no handler uses (R126). -/
def stepFaultSlotFree (s : State) (h : ReqHdr) (t slot : Nat) : Option State :=
  manageOn s h 3 true (some t) (some slot) fun s => some (match (kget? s.tenants t).bind fun n => n.ring with
    | none => refuse s
    | some r =>
      if kget? r.used slot != some slot || handlerUses s t slot then refuse s
      else done (updRing s t fun r => { r with used := r.used.filter fun p => p.2 != slot }))

/-- FAULT_SLOT_FREE (R126). -/
def execFaultSlotFree (h : ReqHdr) (t slot : Nat) (s : State) : Host.Outcome State Fault Refusal := device "FAULT_SLOT_FREE" (stepFaultSlotFree s h t slot)

end Sys2Proof.Machine
end

