-- ==== Sys2Proof/Machine/Service.lean ====
section
/-! DEFINITION. Partitions and slices (R422, R453, R464), method entries (R340), retirement and return to service (R408, R462 to
R464, R468), bring-up (R502 to R504, R506), power, thermal limits and events of timing alone (R209, R507, R508). -/

namespace Sys2Proof.Machine

/-! ### Partitions (R422, R464) -/

/-- The clusters that are enabled and not retired. -/
def enabledClusters (s : State) : Nat := ((List.range 160).filter fun c => !(s.disabled.contains c || s.retired.contains c)).length

/-- A partition record's field: capmax, capmin, bwmax, bwmin, clmax, clmin in this order (R422). -/
def partField (p : BitVec 256) (i : Nat) : Nat :=
  match i with
  | 0 => bits p 224 16
  | 1 => bits p 208 16
  | 2 => bits p 200 8
  | 3 => bits p 192 8
  | 4 => bits p 176 16
  | _ => bits p 160 16

/-- The sum of a field over all tenants' records, one tenant's record replaced. -/
def partSum (s : State) (t : Nat) (p : BitVec 256) (i : Nat) : Nat :=
  partField p i + (s.tenants.map fun q => if q.1 = t then 0 else (q.2.part.map fun r => partField r i).getD 0).sum

/-- What is left of clusters and GiB while the minima are met in order, and whether one has failed. -/
structure Left where
  cl : Nat
  cap : Nat
  failed : Bool
  deriving DecidableEq, Repr

/-- One tenant's minima met as far as what is left allows; newly degraded, an event goes to the owner (R464, R480). -/
def refitOne (acc : State × Left) (t : Nat) : State × Left :=
  match (kget? acc.1.tenants t).bind fun n => n.part.map fun p => (n, p) with
  | none => acc
  | some (n, p) =>
    let clm := partField p 5
    let capm := partField p 1
    let bad := acc.2.failed || decide (acc.2.cl < clm) || decide (acc.2.cap < capm)
    let e := (min clm acc.2.cl, min capm acc.2.cap)
    let s1 := { acc.1 with tenants := kset acc.1.tenants t { n with degraded := bad, effMin := e } }
    let s2 := if bad && !n.degraded then emitOwner s1 2 t [w64 e.1, w64 e.2] else s1
    (s2, { cl := acc.2.cl - e.1, cap := acc.2.cap - e.2, failed := bad })

/-- The degraded marks computed anew, in the order of installation (R464). -/
def refit (s : State) : State :=
  (s.partOrder.foldl refitOne (s, { cl := enabledClusters s, cap := capacity s, failed := false })).1

/-- Whether a partition record is refused (R422). -/
def partRefused (s : State) (p : BitVec 256) : Bool :=
  let t := bits p 0 6
  let f := partField p
  (kget? s.tenants t).isNone || decide (f 0 < f 1) || decide (f 2 < f 3) || decide (f 4 < f 5) ||
  f 0 == 0 || decide (1008 < f 0) || f 2 == 0 || decide (100 < f 2) || f 4 == 0 || decide (160 < f 4) ||
  decide (enabledClusters s < partSum s t p 5) || decide (100 < partSum s t p 3) || decide (capacity s < partSum s t p 1)

/-- PARTITION_RECORD_INSTALL (R422, R464, R475). -/
def stepPartition (s : State) (h : ReqHdr) (p : BitVec 256) : Option State :=
  manageOn s h 6 true (some (bits p 0 6)) none fun s => some (
    let t := bits p 0 6
    match kget? s.tenants t with
    | none => refuse s
    | some n =>
      if partRefused s p then refuse s
      else done (refit { s with tenants := kset s.tenants t { n with part := some p }, partOrder := sdel s.partOrder t ++ [t] }))

/-- PARTITION_RECORD_INSTALL (R422). -/
def execPartitionRecordInstall (h : ReqHdr) (p : BitVec 256) (s : State) : Host.Outcome State Fault Refusal :=
  device "PARTITION_RECORD_INSTALL" (stepPartition s h p)

/-- SLICE_SET: 0, or 2^16 to 2^32 cycles (R453). -/
def stepSliceSet (s : State) (h : ReqHdr) (t cycles : Nat) : Option State :=
  manageOn s h 6 true (some t) (some cycles) fun s => some (match kget? s.tenants t with
    | none => refuse s
    | some n =>
      if cycles = 0 ∨ (2 ^ 16 ≤ cycles ∧ cycles ≤ 2 ^ 32) then done { s with tenants := kset s.tenants t { n with slice := cycles } }
      else refuse s)

/-- SLICE_SET (R453). -/
def execSliceSet (h : ReqHdr) (t cycles : Nat) (s : State) : Host.Outcome State Fault Refusal := device "SLICE_SET" (stepSliceSet s h t cycles)

/-- Whether a method entry is refused (R340). -/
def methodRefused (i : Nat) (e : BitVec 512) : Bool :=
  decide (2 ^ 18 ≤ i) || (List.range 8).any (fun j => mOmask e j && decide (mNrec e ≤ j)) ||
  (mKind e == 2 && (mOp e != 0 || mNrec e != 1 || bits e 152 8 != 1 || bits e 144 8 != 1))

/-- METHOD_ENTRY_INSTALL (R340). -/
def stepMethod (s : State) (h : ReqHdr) (i : Nat) (e : BitVec 512) : Option State :=
  manageOn s h 7 true none (some i) fun s => some (if methodRefused i e then refuse s else done { s with methods := kset s.methods i e })

/-- METHOD_ENTRY_INSTALL (R340). -/
def execMethodEntryInstall (h : ReqHdr) (i : Nat) (e : BitVec 512) (s : State) : Host.Outcome State Fault Refusal :=
  device "METHOD_ENTRY_INSTALL" (stepMethod s h i e)

/-! ### Retirement (R408, R462, R463) -/

/-- The withheld core of a retiring cluster that a saved task needs. -/
def lostCore (s : State) (cl k : Nat) (t : Task) : Option Nat :=
  (s.saves.findSome? fun v =>
    if v.slot ≠ k then none else
    ([v.gcn] ++ if t.lockStep then [v.gcn + 1] else []).find? fun g => clusterOf g == cl && (coreAt s g).withheld)

/-- Every saved task that needs a withheld core of a retiring cluster takes machine fault 0x0001 with unit 5 (R462). -/
def endLost (s : State) (cl : Nat) : State :=
  s.tasks.foldl (fun s p =>
    if p.2.saved && !p.2.stops then
      match lostCore s cl p.1 p.2 with
      | some g => updTask s p.1 fun t => { t with faults := t.faults ++ [{ coreError s t g 5 0 with gcn := g }] }
      | none => s
    else s) s

/-- CLUSTER_RETIRE: nothing more is placed on the cluster (R462). -/
def stepClusterRetire (s : State) (h : ReqHdr) (cl : Nat) : Option State :=
  manageOn s h 11 true none (some cl) fun s => some (
    if decide (160 ≤ cl) || s.disabled.contains cl || s.retired.contains cl || s.retiring.contains cl then refuse s
    else done (endLost { s with retiring := sinsert s.retiring cl } cl))

/-- CLUSTER_RETIRE (R462). -/
def execClusterRetire (h : ReqHdr) (cl : Nat) (s : State) : Host.Outcome State Fault Refusal := device "CLUSTER_RETIRE" (stepClusterRetire s h cl)

/-- Whether a task occupies a cluster or a save slot names its cores (R462). -/
def clusterInUse (s : State) (cl : Nat) : Bool :=
  (List.range 16).any (fun i => (coreAt s (16 * cl + i)).task.isSome) || s.saves.any fun v => clusterOf v.gcn == cl

/-- CLUSTER_RETIREMENT_EFFECT: unused, the cluster's slots behave as disabled ones from now on (R462, R464). -/
def stepClusterEffect (s : State) (cl : Nat) : Option State :=
  if !s.retiring.contains cl then none
  else if clusterInUse s cl then
    (let s1 := endLost s cl
     if s1 = s then none else some s1)
  else some (refit { s with retiring := sdel s.retiring cl, retired := sinsert s.retired cl })

/-- CLUSTER_RETIREMENT_EFFECT (R462). -/
def execClusterRetirementEffect (cl : Nat) (s : State) : Host.Outcome State Fault Refusal := device "CLUSTER_RETIREMENT_EFFECT" (stepClusterEffect s cl)

/-- The end of tenant-allocatable HBM once a channel is retired too. -/
def topWith (s : State) (c : Nat × Nat) : Nat := reservedBase - mostChans (c :: s.chanRetired) * 2 ^ 35

/-- The regions that stand in the range that a channel's retirement withholds, or are moving there (R457, R463). -/
def stranded (s : State) (c : Nat × Nat) : List (Nat × Region) :=
  s.regions.filter fun p => p.2.state != 0 && isHbm p.2.base &&
    ((p.2.base :: p.2.moveTo.toList).any fun b => decide (topWith s c < b + p.2.extent))

/-- Where the free ranges of HBM may begin: at address 0, and at the end of each range that a region holds or is moving to (R417, R457). -/
def rangeStarts (s : State) : List Nat :=
  sortNat (0 :: s.regions.flatMap fun p => (p.2.base + p.2.extent) :: (p.2.moveTo.map fun m => m + p.2.extent).toList)

/-- A free range for a region below a bound: the lowest. -/
def freeRange (s : State) (top r : Nat) (e : Region) : Option Nat :=
  (rangeStarts s).find? fun b => decide (b + e.extent ≤ top) && moveOk s r e b

/-- Whether a stranded region has nowhere to go. -/
def noRoom (s : State) (c : Nat × Nat) : Bool :=
  (stranded s c).any fun p => p.2.state == 1 && (freeRange s (topWith s c) p.1 p.2).isNone

/-- The owner told, once, that no free range fits while a channel's retirement is pending (R463, R480). -/
def tellPending (s : State) (c : Nat × Nat) : State :=
  emitOwner { s with chanTold := s.chanTold ++ [c] } 3 0xFF [w64 (c.1 * 2 ^ 8 + c.2)]

/-- CHANNEL_RETIRE: the request is pending; an event goes to the owner if no free range fits (R463, R480). -/
def stepChannelRetire (s : State) (h : ReqHdr) (st ch : Nat) : Option State :=
  manageOn s h 11 true none (some st) fun s => some (
    if 16 ≤ st ∨ 32 ≤ ch ∨ (st, ch) ∈ s.chanRetired ∨ (st, ch) ∈ s.chanPending then refuse s
    else
      let s1 := { s with chanPending := s.chanPending ++ [(st, ch)] }
      done (if noRoom s (st, ch) then tellPending s1 (st, ch) else s1))

/-- CHANNEL_RETIRE (R463). -/
def execChannelRetire (h : ReqHdr) (stack ch : Nat) (s : State) : Host.Outcome State Fault Refusal := device "CHANNEL_RETIRE" (stepChannelRetire s h stack ch)

/-- The first stranded region that can be moved now, with its new base. -/
def nextMove (s : State) (c : Nat × Nat) : Option (Nat × Nat) :=
  (stranded s c).findSome? fun p =>
    if p.2.state = 1 ∧ p.2.rekey = false ∧ namedInFlush s p.1 = false then (freeRange s (topWith s c) p.1 p.2).map fun b => (p.1, b) else none

/-- CHANNEL_RETIREMENT_EFFECT: regions are compacted out of the range to be withheld; once it is empty, the retirement takes effect. When
room for one runs out later, the owner is told then (R463, R464). -/
def stepChannelEffect (s : State) (st ch : Nat) : Option State :=
  if (st, ch) ∉ s.chanPending then none
  else match stranded s (st, ch) with
  | [] =>
    some (refit { s with chanPending := s.chanPending.filter (fun p => p != (st, ch)), chanTold := s.chanTold.filter (fun p => p != (st, ch)),
                         chanRetired := s.chanRetired ++ [(st, ch)] })
  | _ =>
    if noRoom s (st, ch) && !s.chanTold.contains (st, ch) then some (tellPending s (st, ch))
    else (nextMove s (st, ch)).map fun p => startMove { s with chanTold := s.chanTold.filter fun q => q != (st, ch) } p.1 p.2

/-- CHANNEL_RETIREMENT_EFFECT (R463). -/
def execChannelRetirementEffect (stack ch : Nat) (s : State) : Host.Outcome State Fault Refusal :=
  device "CHANNEL_RETIREMENT_EFFECT" (stepChannelEffect s stack ch)

/-- RETURN_TO_SERVICE: a withheld core, once it hosts no task, is scrubbed and may be placed again (R408, R468). -/
def stepReturn (s : State) (h : ReqHdr) (g : Nat) : Option State :=
  manageOn s h 11 true none (some g) fun s =>
    if decide (2560 ≤ g) || coreDisabled s g || !(coreAt s g).withheld then some (refuse s)
    else if (coreAt s g).task.isSome then none
    else some (done (updCore (scrubCore s g) g fun _ => Core.idle))

/-- RETURN_TO_SERVICE (R408). -/
def execReturnToService (h : ReqHdr) (g : Nat) (s : State) : Host.Outcome State Fault Refusal := device "RETURN_TO_SERVICE" (stepReturn s h g)

/-! ### Bring-up (R502 to R506) -/

/-- The package after a reset; the device keeps its descriptor's ordering code, disabled clusters and management endpoints, its signature
index, and the messages it has sent (R2, R3, R472, R474). -/
def resetPackage (s : State) : State :=
  { State.reset with order := s.order, disabled := s.disabled, mgmt := s.mgmt, attestUsed := s.attestUsed, outbox := s.outbox,
                     eventSeq := s.eventSeq, sched := s.sched }

/-- PACKAGE_RESET: each die verifies its firmware; if one fails, the package offers no service (R502). -/
def stepReset (s : State) (fw : List Bool) : Option State :=
  if fw.length ≠ 4 then none
  else
    let ok := (List.range 4).filter fun d => fw.getD d false
    some { resetPackage s with service := if ok.length = 4 then .bringUp else .halted, dieOk := ok }

/-- PACKAGE_RESET (R502). -/
def execPackageReset (fw : List Bool) (s : State) : Host.Outcome State Fault Refusal := device "PACKAGE_RESET" (stepReset s fw)

/-- Whether every Ethernet port is trained (R473, R502). -/
def portsTrained (s : State) : Bool := (List.range 16).all s.trained.contains

/-- REDUCED_SERVICE_START: the ports and the die-to-die links are trained, and basic training has ended on all stacks (R502, log entry 91). -/
def stepReduced (s : State) : Option State :=
  if s.service == .bringUp && s.dieOk.length == 4 && portsTrained s then
    some { s with service := .reduced, dieLinks := List.range 4, stacksBasic := List.range 16 }
  else none

/-- REDUCED_SERVICE_START (R502). -/
def execReducedServiceStart (s : State) : Host.Outcome State Fault Refusal := device "REDUCED_SERVICE_START" (stepReduced s)

/-- The steps of a die before its self-test are done: the links are trained, and basic training has ended on the stacks that it drives (R502,
log entry 91). -/
def dieTrained (s : State) (d : Nat) : State :=
  { s with dieLinks := List.range 4, stacksBasic := (List.range 4).foldl (fun l i => sinsert l (4 * d + i)) s.stacksBasic }

/-- CLUSTER_SELF_TEST_RESULT: once the ports are trained; a cluster that passes is placeable, one that fails counts as retired (R462, R502,
R503). -/
def stepSelfTest (s : State) (cl : Nat) (pass : Bool) : Option State :=
  if !(s.service == .bringUp || s.service == .reduced) || s.dieOk.length != 4 || !portsTrained s || decide (160 ≤ cl) || s.disabled.contains cl ||
     (kget? s.tested cl).isSome then none
  else
    let s1 := { dieTrained s (cl / 40) with tested := kset s.tested cl pass }
    some (if pass then s1 else refit { s1 with retired := sinsert s1.retired cl })

/-- CLUSTER_SELF_TEST_RESULT (R503). -/
def execClusterSelfTestResult (cl : Nat) (pass : Bool) (s : State) : Host.Outcome State Fault Refusal :=
  device "CLUSTER_SELF_TEST_RESULT" (stepSelfTest s cl pass)

/-- Whether every cluster that is not disabled has passed or failed. -/
def allTested (s : State) : Bool := (List.range 160).all fun c => s.disabled.contains c || (kget? s.tested c).isSome

/-- Whether a task holds cores and does not stand quiesced. -/
def gangRuns (t : Task) : Bool := (t.state == 2 || t.state == 3) && !t.saved && !t.held

/-- Every gang asked to quiesce in place for the switch of clocks; one whose quiescence was cancelled tries again when its time comes (R451,
R506). -/
def quiesceAll (s : State) : State :=
  { s with tasks := s.tasks.map fun p => if gangRuns p.2 then (p.1, startQuiesce s .service p.2) else p }

/-- FULL_SERVICE_SWITCH: fine training has ended on every stack and every gang is quiesced; when all stand, the clocks switch (R506, log
entry 91). -/
def stepFull (s : State) : Option State :=
  if s.service != .reduced || !allTested s then none
  else if !s.switching then some (quiesceAll { s with switching := true, stacksFine := List.range 16 })
  else if s.tasks.all (fun p => !gangRuns p.2) then some { s with service := .full, switching := false }
  else none

/-- FULL_SERVICE_SWITCH (R506). -/
def execFullServiceSwitch (s : State) : Host.Outcome State Fault Refusal := device "FULL_SERVICE_SWITCH" (stepFull s)

/-! ### Power and thermal limits, events of timing alone (R209, R507, R508) -/

/-- THERMAL_THROTTLE: a die's issue cycles are gated (R209, R508). -/
def stepThrottle (s : State) (die : Nat) : Option State :=
  if 4 ≤ die ∨ die ∈ s.throttled then none else some { s with throttled := sinsert s.throttled die }

/-- THERMAL_THROTTLE (R508). -/
def execThermalThrottle (die : Nat) (s : State) : Host.Outcome State Fault Refusal := device "THERMAL_THROTTLE" (stepThrottle s die)

/-- THROTTLING_END (R508). -/
def stepThrottleEnd (s : State) (die : Nat) : Option State :=
  if die ∈ s.throttled then some { s with throttled := sdel s.throttled die } else none

/-- THROTTLING_END (R508). -/
def execThrottlingEnd (die : Nat) (s : State) : Host.Outcome State Fault Refusal := device "THROTTLING_END" (stepThrottleEnd s die)

/-- THERMAL_TRIP: the event of kind 6 with the die, then the package reset (R480, R508). -/
def stepTrip (s : State) (die : Nat) : Option State :=
  if 4 ≤ die then none else some (resetPackage (emitOwner s 6 0xFF [w64 die, 0]))

/-- THERMAL_TRIP (R508). -/
def execThermalTrip (die : Nat) (s : State) : Host.Outcome State Fault Refusal := device "THERMAL_TRIP" (stepTrip s die)

/-- The rated power of an ordering code in watts (R2, R507). -/
def ratedPower : OrderCode → Nat
  | .zn9m2560L => 3600
  | _ => 3300

/-- POWER_CAP_SET: from 1,500 W to the rated power of the ordering code (R2, R507). -/
def stepPowerCap (s : State) (h : ReqHdr) (watts : Nat) : Option State :=
  manageOn s h 6 true none (some watts) fun s => some (if 1500 ≤ watts ∧ watts ≤ ratedPower s.order then done { s with powerCap := watts } else refuse s)

/-- POWER_CAP_SET (R507). -/
def execPowerCapSet (h : ReqHdr) (watts : Nat) (s : State) : Host.Outcome State Fault Refusal := device "POWER_CAP_SET" (stepPowerCap s h watts)

/-- POWER_WINDOW_EXPIRY: a window of 1 ms ends; its average power is at or below the cap (R507). -/
def stepPowerWindow (s : State) (watts : Nat) : Option State :=
  if watts ≤ s.powerCap then some { s with powerLast := watts } else none

/-- POWER_WINDOW_EXPIRY (R507). -/
def execPowerWindowExpiry (watts : Nat) (s : State) : Host.Outcome State Fault Refusal := device "POWER_WINDOW_EXPIRY" (stepPowerWindow s watts)

/-- Cycles that pass and change nothing but the count of cycles (R209). -/
def passCycles (s : State) (n : Nat) : State := { s with clk := s.clk + BitVec.ofNat 64 n }

/-- REFRESH: cycles pass (R209). -/
def execRefresh (cycles : Nat) (s : State) : Host.Outcome State Fault Refusal := device "REFRESH" (some (passCycles s cycles))

/-- LINK_LAYER_RETRY: cycles pass (R209, R473). -/
def execLinkLayerRetry (cycles : Nat) (s : State) : Host.Outcome State Fault Refusal := device "LINK_LAYER_RETRY" (some (passCycles s cycles))

/-- PATROL_SCRUB: a base die has read its words; timing alone (R414). -/
def execPatrolScrub (stack : Nat) (s : State) : Host.Outcome State Fault Refusal :=
  device "PATROL_SCRUB" (if stack < 16 then some s else none)

end Sys2Proof.Machine
end

