-- ==== Sys2Proof/Machine/Fabric.lean ====
section
/-! DEFINITION. Ownership (R474, R475), status (R510), tenants, queues and fences (R476, R478), migration (R481, R482), ports (R473),
groups and collectives (R484 to R488), keys (R465 to R467), attestation (R472). -/

namespace Sys2Proof.Machine

/-! ### Ownership (R474, R475) -/

/-- The core cycles in one second: 3.6 GHz in full service, else 1.8 GHz (R504, R506). -/
def clockRate (s : State) : Nat := if s.service == .full then 3600000000 else 1800000000

/-- Whether n seconds have passed since a cycle. -/
def passed (s : State) (since : BitVec 64) (n : Nat) : Bool := decide (n * clockRate s ≤ (s.clk - since).toNat)

/-- Eight words for 160 flags, cluster c in bit c mod 64 of word c / 64. -/
def clusterWords (l : List Nat) : List Word :=
  (List.range 3).map fun i => l.foldl (fun w c => if c / 64 = i then w ||| w64 (2 ^ (c % 64)) else w) 0

/-- The clusters that failed their self-test (R503). -/
def failedClusters (s : State) : List Nat := (s.tested.filter fun p => !p.2).map fun p => p.1

/-- The device descriptor as words: the ordering code, the disabled and the failed clusters as bits, and each management endpoint behind its
master's number. The spec names these fields and gives no layout (R2, R3, R472, R474, R503, log entry 38). -/
def descriptorWords (s : State) : List Word :=
  [w64 (match s.order with
    | .zn9p2560 => 0
    | .zn9p2304 => 1
    | .zn9m2560L => 2)] ++ clusterWords s.disabled ++ clusterWords (failedClusters s) ++ s.mgmt.flatMap fun p => [w64 p.1, w64 p.2]

/-- What a status read returns: how far service has come, the owner with 8 for none, the power cap and last power, the retired
clusters, the trained ports, the tenant's dropped events, and the device descriptor (R3, R480, R503, R507, R510, log entry 38). -/
def statusData (s : State) (tenant : Nat) : List Word :=
  [w64 (match s.service with
    | .halted => 0
    | .bringUp => 1
    | .reduced => 2
    | .full => 3), w64 (s.owner.getD 8), w64 s.powerCap, w64 s.powerLast] ++ clusterWords s.retired ++
  [w64 ((s.trained.map fun p => 2 ^ p).sum), w64 (((kget? s.tenants tenant).map fun n => n.dropped).getD 0)] ++ descriptorWords s

/-- STATUS_READ (R510). -/
def stepStatus (s : State) (h : ReqHdr) : Option State := manage s h 1 false fun s => some (s, 0, statusData s h.tenant)

/-- STATUS_READ (R510). -/
def execStatusRead (h : ReqHdr) (s : State) : Host.Outcome State Fault Refusal := device "STATUS_READ" (stepStatus s h)

/-- OWNERSHIP_CLAIM: accepted while there is no owner (R474, R475). -/
def stepClaim (s : State) (h : ReqHdr) : Option State :=
  manage s h 2 false fun s => some (if s.owner.isSome then refuse s else done { s with owner := some h.master, ownerSeen := s.clk })

/-- OWNERSHIP_CLAIM (R474). -/
def execOwnershipClaim (h : ReqHdr) (s : State) : Host.Outcome State Fault Refusal := device "OWNERSHIP_CLAIM" (stepClaim s h)

/-- OWNERSHIP_HANDOVER: the owner names another master (R475). -/
def stepHandover (s : State) (h : ReqHdr) (dst : Nat) : Option State :=
  manageOn s h 2 true none (some dst) fun s => some (
    if (kget? s.mgmt dst).isNone = true ∨ dst = h.master then refuse s else done (emit { s with handover := some (dst, s.clk) } (.handover dst)))

/-- OWNERSHIP_HANDOVER (R475). -/
def execOwnershipHandover (h : ReqHdr) (dst : Nat) (s : State) : Host.Outcome State Fault Refusal := device "OWNERSHIP_HANDOVER" (stepHandover s h dst)

/-- HANDOVER_ACK: within 10 s the named master becomes owner (R475). -/
def stepHandoverAck (s : State) (h : ReqHdr) : Option State :=
  manage s h 2 false fun s => some (match s.handover with
    | none => refuse s
    | some p =>
      if p.1 = h.master ∧ passed s p.2 10 = false then done { s with owner := some h.master, handover := none, ownerSeen := s.clk }
      else refuse s)

/-- HANDOVER_ACK (R475). -/
def execHandoverAck (h : ReqHdr) (s : State) : Host.Outcome State Fault Refusal := device "HANDOVER_ACK" (stepHandoverAck s h)

/-- HANDOVER_LAPSE: 10 s without an acknowledgement (R475). -/
def stepHandoverLapse (s : State) : Option State :=
  match s.handover with
  | none => none
  | some p => if passed s p.2 10 then some { s with handover := none } else none

/-- HANDOVER_LAPSE (R475). -/
def execHandoverLapse (s : State) : Host.Outcome State Fault Refusal := device "HANDOVER_LAPSE" (stepHandoverLapse s)

/-- A keepalive that arrives from the owner (R475). -/
def heardOwner (s : State) (h : ReqHdr) : State :=
  if s.owner == some h.master && h.kind == 2 && s.service != .halted then { s with ownerSeen := s.clk } else s

/-- KEEPALIVE of the owner: what counts is that it arrives, though its reply may wait behind an earlier request (R475, R509, log entry 89). -/
def stepKeepalive (s : State) (h : ReqHdr) : Option State :=
  let s1 := heardOwner s h
  match manage s1 h 2 true fun s => some (done s) with
  | some t => some t
  | none => if s1 = s then none else some s1

/-- KEEPALIVE (R475). -/
def execKeepalive (h : ReqHdr) (s : State) : Host.Outcome State Fault Refusal := device "KEEPALIVE" (stepKeepalive s h)

/-- OWNERSHIP_LOSS: 30 s without a keepalive make ownership vacant (R475). -/
def stepLoss (s : State) : Option State :=
  if s.owner.isSome && passed s s.ownerSeen 30 then some { s with owner := none, handover := none } else none

/-- OWNERSHIP_LOSS (R475). -/
def execOwnershipLoss (s : State) : Host.Outcome State Fault Refusal := device "OWNERSHIP_LOSS" (stepLoss s)

/-! ### Tenants, queues, fences (R476, R478) -/

/-- A tenant just created; its first launch number is 1 (R476, R477). -/
def newTenant (endpoint handler : Nat) : Tenant :=
  { endpoint := endpoint, handler := BitVec.ofNat 32 handler, wins := [], part := none, degraded := false, effMin := (0, 0), slice := 0,
    queues := [], fences := [], ring := none, nextLaunch := 1, dropped := 0, migr := none, chainFailed := false }

/-- TENANT_CREATE (R476). -/
def stepTenant (s : State) (h : ReqHdr) (t endpoint handler : Nat) : Option State :=
  manageOn s h 3 true (some t) (some endpoint) fun s => some (
    if decide (64 ≤ t) || (kget? s.tenants t).isSome then refuse s
    else done { s with tenants := kset s.tenants t (newTenant endpoint handler) })

/-- TENANT_CREATE (R476). -/
def execTenantCreate (h : ReqHdr) (t endpoint handler : Nat) (s : State) : Host.Outcome State Fault Refusal :=
  device "TENANT_CREATE" (stepTenant s h t endpoint handler)

/-- Whether a region serves as a ring of n bytes of a tenant: live, its own, large enough (R476). -/
def ringFits (s : State) (t r n : Nat) : Bool :=
  match kget? s.regions r with
  | none => false
  | some e => (e.state == 1 || e.state == 2) && e.owner == t && decide (n ≤ e.extent)

/-- A queue as its record describes it, with the completion records written and freed: all counts 0 but for a queue that comes from another
device (R476, R483). -/
def newQueue (d : QueueDesc) : Queue :=
  let q := d.record
  { fence := bits q 192 64, tail := bits q 128 64, head := bits q 64 64, cring := bits q 44 20, cslots := bits q 40 4, lring := bits q 20 20,
    lslots := bits q 16 4, cseq := d.written, cfreed := d.freed }

/-- Whether a queue's counts could be those of a queue: nothing read that is not written, no ring overfull (R477, R478). -/
def countsFit (r : Queue) : Bool :=
  decide (r.head ≤ r.tail) && decide (r.tail ≤ r.head + 2 ^ r.lslots) && decide (r.cfreed ≤ r.cseq) && decide (r.cseq ≤ r.cfreed + 2 ^ r.cslots)

/-- LAUNCH_QUEUE_CREATE: refused without a fault ring or with regions too small (R126, R476, R483). -/
def stepQueue (s : State) (h : ReqHdr) (t i : Nat) (d : QueueDesc) : Option State :=
  manageOn s h 3 true (some t) (some i) fun s => some (match kget? s.tenants t with
    | none => refuse s
    | some n =>
      let r := newQueue d
      if decide (16 ≤ i) || (kget? n.queues i).isSome || n.ring.isNone || r.cslots == 0 || r.lslots == 0 || decide (12 < r.lslots) || !countsFit r ||
         !ringFits s t r.cring (32 * 2 ^ r.cslots) || !ringFits s t r.lring (256 * 2 ^ r.lslots) then refuse s
      else done { s with tenants := kset s.tenants t { n with queues := kset n.queues i r } })

/-- LAUNCH_QUEUE_CREATE (R476). -/
def execLaunchQueueCreate (h : ReqHdr) (t q : Nat) (d : QueueDesc) (s : State) : Host.Outcome State Fault Refusal :=
  device "LAUNCH_QUEUE_CREATE" (stepQueue s h t q d)

/-- FENCE_CREATE: a further fence, at value 0 but for one that comes from another device (R478, R483). -/
def stepFence (s : State) (h : ReqHdr) (t : Nat) (d : FenceDesc) : Option State :=
  manageOn s h 3 true (some t) (some d.number) fun s => some (match kget? s.tenants t with
    | none => refuse s
    | some n =>
      if decide (4096 ≤ d.number) || decide (2 ^ 64 ≤ d.value) || (kget? n.fences d.number).isSome then refuse s
      else done { s with tenants := kset s.tenants t { n with fences := kset n.fences d.number d.value } })

/-- FENCE_CREATE (R478). -/
def execFenceCreate (h : ReqHdr) (t : Nat) (d : FenceDesc) (s : State) : Host.Outcome State Fault Refusal := device "FENCE_CREATE" (stepFence s h t d)

/-! ### Migration (R481, R482) -/

/-- The 64 KiB granules of a range of addresses. -/
def granulesOf (lo hi : Nat) : List Nat :=
  if hi ≤ lo then [] else (List.range ((hi - 1) / 65536 - lo / 65536 + 1)).map fun i => lo / 65536 + i

/-- The granules of a region's offsets, if the region lies in HBM. -/
def regionGranules (s : State) (r lo hi : Nat) : List Nat :=
  match kget? s.regions r with
  | none => []
  | some e => if isHbm e.base then granulesOf (e.base + lo) (e.base + hi) else []

/-- The regions of a tenant's completion rings and fault ring. -/
def ringRegions (n : Tenant) : List Nat := (n.queues.map fun p => p.2.cring) ++ (n.ring.map fun r => r.region).toList

/-- The dirty set of a round: the granules logged, unless there are more than 16,384; then every granule of the tenant, or in
the final round the declared write sets of its tasks and the rings that were written (R481, R482). -/
def dirtySet (s : State) (t : Nat) (n : Tenant) (m : Migr) : List Nat :=
  if m.log.length ≤ 16384 then m.log
  else if m.final then
    let rings := (ringRegions n).flatMap fun r => regionGranules s r 0 (((kget? s.regions r).map fun e => e.extent).getD 0)
    sortNat ((m.ran.flatMap fun q => regionGranules s q.1 q.2.1 q.2.2) ++ m.log.filter rings.contains)
  else sortNat ((s.regions.filter fun p => p.2.owner == t && p.2.state != 0).flatMap fun p => regionGranules s p.1 0 p.2.extent)

/-- A round ended: the event of kind 5, and the dirty set as the reply's data (R480, R481). -/
def endRound (s : State) (t : Nat) (n : Tenant) (m : Migr) : State × List Word :=
  let l := dirtySet s t n m
  (emitTenant s 5 t [w64 m.round, w64 l.length], l.map w64)

/-- A new round of a tenant's migration, with the ranges that its running tasks declare. -/
def newRound (s : State) (t round : Nat) (final : Bool) : Migr :=
  let l := s.tasks.filter fun p => p.2.tenant == t && (p.2.state == 2 || p.2.state == 3)
  { round := round, log := [], final := final,
    ran := if final then l.flatMap fun p => ((declared s p.2).filter fun d => d.write).map fun d => (d.region, d.lo, d.hi) else [] }

/-- A tenant's migration record replaced. -/
def setMigr (s : State) (t : Nat) (m : Migr) : State :=
  match kget? s.tenants t with
  | none => s
  | some n => { s with tenants := kset s.tenants t { n with migr := some m } }

/-- MIGRATION_ROUND: the next round begins, and the one before it ends; the final round ends once the tenant has no task in
states 0 to 3 (R481, R482). -/
def stepRound (s : State) (h : ReqHdr) (t : Nat) : Option State :=
  manageOn s h 14 true (some t) none fun s => match kget? s.tenants t with
    | none => some (refuse s)
    | some n => match n.migr with
      | none => some (done (setMigr s t (newRound s t 1 false)))
      | some m =>
        if m.final && s.tasks.any (fun p => p.2.tenant == t && decide (p.2.state ≤ 3)) then none
        else
          let r := endRound s t n m
          some (setMigr r.1 t (newRound s t (m.round + 1) m.final), 0, r.2)

/-- MIGRATION_ROUND (R481). -/
def execMigrationRound (h : ReqHdr) (t : Nat) (s : State) : Host.Outcome State Fault Refusal := device "MIGRATION_ROUND" (stepRound s h t)

/-- MIGRATION_FINAL_ROUND: the round before it ends, the drain begins (R482). -/
def stepFinalRound (s : State) (h : ReqHdr) (t : Nat) : Option State :=
  manageOn s h 14 true (some t) none fun s => some (match kget? s.tenants t with
    | none => refuse s
    | some n => match n.migr with
      | none => refuse s
      | some m =>
        if m.final then refuse s
        else
          let r := endRound s t n m
          (setMigr r.1 t (newRound s t (m.round + 1) true), 0, r.2))

/-- MIGRATION_FINAL_ROUND (R482). -/
def execMigrationFinalRound (h : ReqHdr) (t : Nat) (s : State) : Host.Outcome State Fault Refusal := device "MIGRATION_FINAL_ROUND" (stepFinalRound s h t)

/-! ### Ports (R473) -/

/-- PORT_SPLIT: a port is to be split at its next link training (R473). -/
def stepSplit (s : State) (h : ReqHdr) (port : Nat) : Option State :=
  manageOn s h 12 true none (some port) fun s => some (
    if 16 ≤ port ∨ port ∈ s.split ∨ port ∈ s.splitPending then refuse s else done { s with splitPending := sinsert s.splitPending port })

/-- PORT_SPLIT (R473). -/
def execPortSplit (h : ReqHdr) (port : Nat) (s : State) : Host.Outcome State Fault Refusal := device "PORT_SPLIT" (stepSplit s h port)

/-- LINK_TRAINING: once every die's firmware is verified, a port is trained, and a split asked for takes effect (R473, R502). -/
def stepTraining (s : State) (port : Nat) : Option State :=
  if 16 ≤ port ∨ s.service = .halted ∨ s.dieOk.length ≠ 4 then none
  else some { s with
    trained := sinsert s.trained port,
    split := if port ∈ s.splitPending then sinsert s.split port else s.split,
    splitPending := sdel s.splitPending port }

/-- LINK_TRAINING (R473). -/
def execLinkTraining (port : Nat) (s : State) : Host.Outcome State Fault Refusal := device "LINK_TRAINING" (stepTraining s port)

/-- Whether a port number names a port: 0 to 15, or after a split 0 to 31, where 2i + 1 is the second half of a split port i (R473). -/
def portExists (s : State) (p : Nat) : Bool :=
  if s.split = [] then decide (p < 16) else decide (p < 32) && (p % 2 == 0 || s.split.contains (p / 2))

/-! ### Groups (R484, R485, R488) -/

/-- The address of a slot of a send queue. -/
def slotAddr (s : State) (q : SendQ) (i : Nat) : Nat := ((kget? s.regions q.region).map fun e => e.base).getD 0 + 64 * i

/-- A slot ended: its done word written and set full, the next slot in ring order is next (R486). The word is written at the entry's base
without a check, whatever has become of the queue's region since it was bound; the spec is silent there (DESIGN CHOICE, log entry 49). -/
def endSlot (s : State) (i : Nat) (q : SendQ) (slot code : Nat) : State :=
  let n := ((kget? s.regions q.region).map fun e => e.extent / 64).getD 1
  let s1 := landBytes s (slotAddr s q slot + 56) (leBytes 8 code)
  { s1 with sendqs := kset s1.sendqs i { q with run := none, next := (slot + 1) % n } }

/-- A queue's unfinished slot ended by a view change (R488). -/
def cutSlot (s : State) (p : Nat × SendQ) : State :=
  match p.2.run with
  | none => s
  | some r => endSlot s p.1 p.2 r.slot 3

/-- The lowest of a task's records that name a region; a handler has none (R127, R488). -/
def recordNaming (t : Task) (r : Nat) : Option Nat := if t.isHandler then none else (List.range t.nrec).find? fun i => t.reg i == r

/-- The view-change fault of a task that names a queue's region in a record (R488). -/
def viewFault (s : State) (old new : BitVec 32) (r : Nat) (p : Nat × Task) : Nat × Task :=
  match recordNaming p.2 r with
  | some win =>
    if p.2.state = 2 ∨ p.2.state = 3 then
      let fi := { regFault s p.2 7 1 (w64 (new.toNat * 2 ^ 32 + old.toNat)) win with image := p.2.image, gcn := rootCore p.2, eng := true }
      (p.1, { p.2 with faults := p.2.faults ++ [fi] })
    else p
  | none => p

/-- A view or roster installed: the event of kind 4; if it follows another, unfinished slots end and the tasks that name a queue
of the group fault (R484, R485, R488). -/
def installGroup (s : State) (i : Nat) (g : Group) : State :=
  let s1 := emitTenant { s with groups := kset s.groups i g } 4 g.tenant [w64 i, w64 g.number.toNat]
  match kget? s.groups i with
  | none => s1
  | some o =>
    let qs := s1.sendqs.filter fun p => p.2.group == i
    let s2 := qs.foldl cutSlot s1
    qs.foldl (fun s p => { s with tasks := s.tasks.map (viewFault s o.number g.number p.2.region) }) s2

/-- Whether a view number is not greater than the current one. -/
def staleView (s : State) (i : Nat) (n : BitVec 32) : Bool := ((kget? s.groups i).map fun g => decide (n ≤ g.number)).getD false

/-- The integrity word that an unwrap must give (RFC 3394, R466). -/
def kwCheck : BitVec 64 := 0xA6A6A6A6A6A6A6A6

/-- A key sent to the device: its ciphertext and its wrapped form undone, none where the integrity check fails (R466, R484). -/
def unwrapped (ct wrapped : List Byte) : Option (BitVec 512) :=
  let u := Config.keyUnwrap ct wrapped
  if ct.length ≠ 1568 ∨ wrapped.length ≠ 72 ∨ u.1 ≠ kwCheck then none else some u.2

/-- VIEW_INSTALL: a view of up to 16 devices with a greater number, and the key that protects its traffic (R484). -/
def stepView (s : State) (h : ReqHdr) (v : ViewRecord) : Option State :=
  manageOn s h 13 true (some v.tenant) (some v.group) fun s => some (
    if staleView s v.group v.number || decide (16 < v.members.length) then refuse s
    else match unwrapped v.ct v.key with
      | none => refuse s
      | some k => done (installGroup s v.group { number := v.number, members := v.members, roster := false, tenant := v.tenant, key := some k }))

/-- VIEW_INSTALL (R484). -/
def execViewInstall (h : ReqHdr) (v : ViewRecord) (s : State) : Host.Outcome State Fault Refusal := device "VIEW_INSTALL" (stepView s h v)

/-- The bytes of a roster that the fabric manager signs (R485). -/
def rosterBytes (v : RosterRecord) : List Byte :=
  leBytes 4 v.group ++ leBytes 4 v.number.toNat ++ leBytes 4 v.tenant ++ v.members.flatMap fun m => leBytes 8 m

/-- Whether a roster is signed by the fabric manager whose key the owner has installed (R485). -/
def rosterSigned (s : State) (v : RosterRecord) : Bool :=
  match s.fabricKey with
  | none => false
  | some k => Config.lmsVerifies k (rosterBytes v) v.signature

/-- ROSTER_INSTALL: the fabric manager's public key is installed, or a signed roster with a greater number (R485, log entry 90). -/
def stepRoster (s : State) (h : ReqHdr) (v : RosterRecord) : Option State :=
  manageOn s h 13 true (if v.manager.isSome then none else some v.tenant) (if v.manager.isSome then none else some v.group) fun s => some (match v.manager with
    | some k => done { s with fabricKey := some k }
    | none =>
      if staleView s v.group v.number || !rosterSigned s v then refuse s
      else done (installGroup s v.group { number := v.number, members := v.members, roster := true, tenant := v.tenant, key := none }))

/-- ROSTER_INSTALL (R485). -/
def execRosterInstall (h : ReqHdr) (v : RosterRecord) (s : State) : Host.Outcome State Fault Refusal := device "ROSTER_INSTALL" (stepRoster s h v)

/-! ### Collectives (R486, R487) -/

/-- GROUP_SEND_QUEUE_BIND: a region of 2 to 256 slots of the group's tenant is bound to a port and a group (R486). -/
def stepBindQueue (s : State) (h : ReqHdr) (i r port group : Nat) : Option State :=
  manageOn s h 13 true none (some i) fun s => some (match kget? s.groups group, kget? s.regions r with
    | some g, some e =>
      if (kget? s.sendqs i).isSome || e.state != 1 || e.owner != g.tenant || decide (e.extent < 2 * 64) || decide (256 * 64 < e.extent) ||
         s.sendqs.any (fun p => p.2.region == r) || !portExists s port then refuse s
      else done { s with sendqs := kset s.sendqs i { region := r, port := port, group := group, next := 0, run := none } }
    | _, _ => refuse s)

/-- GROUP_SEND_QUEUE_BIND (R486). -/
def execGroupSendQueueBind (h : ReqHdr) (q r port group : Nat) (s : State) : Host.Outcome State Fault Refusal :=
  device "GROUP_SEND_QUEUE_BIND" (stepBindQueue s h q r port group)

/-- The chunks of n bytes from a source address: cut at multiples of 512, with the offset reached so far (R26). -/
def cutChunks (src : Nat) : Nat → Nat → Nat → List Chunk
  | 0, _, _ => []
  | fuel + 1, off, n =>
    if n = 0 then [] else
    let a := src + off
    let k := min n (512 - a % 512)
    { src := a, dst := off, len := k, iter := 0, zero := false } :: cutChunks src fuel (off + k) (n - k)

/-- The chunks of a slot's record (R486). -/
def slotChunks (s : State) (b : BitVec 512) : List Chunk :=
  let len := bits b 224 32
  let r := BitVec.ofNat 128 (bits b 64 128)
  let src := ((kget? s.regions (bits r 0 20)).map fun e => e.base).getD 0 + bits r 32 48
  cutChunks src (len / 512 + 2) 0 len

/-- The check of a source chunk: R26 with the queue's tenant as owner, within the source record, no poisoned word (R409, R487). -/
def sourceCheck (s : State) (tenant : Nat) (b : BitVec 512) (c : Chunk) : Check :=
  let r := BitVec.ofNat 128 (bits b 64 128)
  let n := bits r 0 20
  let gen := ((kget? s.regions n).map fun e => e.gen).getD 0
  let k := chunkCheck s { gen := gen, region := BitVec.ofNat 20 n, access := BitVec.ofNat 2 (bits r 20 2), limit := 0, base := 0 } tenant false c.src c.len
  match k with
  | .pass => if bits r 80 48 < c.dst + c.len ∨ poisonedIn s c.src c.len = true then .fail else .pass
  | k => k

/-- The bytes of a packet that its protection covers: what it names and what it carries. -/
def packetBytes (view : BitVec 32) (dreg : Nat) (dgen : BitVec 16) (doff : Nat) (flag : Bool) (data : List Byte) : List Byte :=
  leBytes 4 view.toNat ++ leBytes 4 dreg ++ leBytes 2 dgen.toNat ++ leBytes 8 doff ++ leBytes 1 (if flag then 1 else 0) ++ data

/-- What protects a packet of a group: a tag under the key of its view; a roster has no key (R484, R485, log entry 90). -/
def packetTag (s : State) (group : Nat) (packet : List Byte) : Word :=
  match (kget? s.groups group).bind fun g => g.key with
  | none => 0
  | some k => Config.tssTag k packet

/-- A packet of a slot sent, protected under its view (R484, R487). -/
def sendPacket (s : State) (q : SendQ) (b : BitVec 512) (doff : Nat) (flag : Bool) (bytes : List Byte) : State :=
  let view := BitVec.ofNat 32 (bits b 416 32)
  let dgen := BitVec.ofNat 16 (bits b 384 16)
  let dreg := bits b 364 20
  emit s (.chunk q.group view (bits b 404 12) dreg dgen doff flag bytes
    (packetTag s q.group (packetBytes view dreg dgen doff flag bytes)))

/-- A data chunk sent (R487). -/
def sendChunk (s : State) (q : SendQ) (b : BitVec 512) (c : Chunk) : State := sendPacket s q b (bits b 304 48 + c.dst) false (readBytes s c.src c.len)

/-- The flag word sent (R487). -/
def sendFlag (s : State) (q : SendQ) (b : BitVec 512) : State := sendPacket s q b (bits b 256 48) true (leBytes 8 (bits b 0 64))

/-- A slot whose data chunks are all acknowledged: the flag is sent if it has one, else the slot has landed (R487). -/
def afterData (s : State) (i : Nat) (q : SendQ) (r : SendRun) : State :=
  if bits r.record 192 1 = 1 ∧ r.flagSent = false then
    let r1 := { r with flagSent := true, unacked := [(1024 * 1024, leBytes 8 (bits r.record 0 64))] }
    { sendFlag s q r.record with sendqs := kset s.sendqs i { q with run := some r1 } }
  else endSlot s i q r.slot 1

/-- GROUP_SEND_SLOT_TAKE: the next slot of a queue, submitted, is taken: with another view it ends; else its source is read and
sent chunk by chunk, up to one that a check refuses (R486 to R488). -/
def stepTake (s : State) (i : Nat) : Option State :=
  match kget? s.sendqs i with
  | none => none
  | some q => match kget? s.regions q.region, kget? s.groups q.group with
    | some e, some g =>
      let a := e.base + 64 * q.next
      if q.run.isSome || e.state != 1 || !s.empties.contains (a + 56) then none
      else
        let b := BitVec.ofNat 512 (readVal s a 64)
        if bits b 416 32 ≠ g.number.toNat then some (endSlot s i q q.next 3)
        else
          let l := slotChunks s b
          let cs := l.map (sourceCheck s e.owner b)
          let good := (l.zip cs).takeWhile (fun p => p.2 == .pass) |>.map fun p => p.1
          if cs.contains .wait then none
          else
            let s1 := good.foldl (fun s c => sendChunk s q b c) s
            if good.length < l.length then some (endSlot s1 i q q.next 2)
            else
              let r : SendRun := { slot := q.next, record := b, unacked := good.zipIdx.map fun p => (p.2, readBytes s p.1.src p.1.len), flagSent := false }
              if good = [] then some (afterData s1 i q r)
              else some { s1 with sendqs := kset s1.sendqs i { q with run := some r } }
    | _, _ => none

/-- GROUP_SEND_SLOT_TAKE (R486). -/
def execGroupSendSlotTake (q : Nat) (s : State) : Host.Outcome State Fault Refusal := device "GROUP_SEND_SLOT_TAKE" (stepTake s q)

/-- COLLECTIVE_CHUNK_ACK: a chunk is acknowledged or refused at its receiver (R487). -/
def stepChunkAck (s : State) (i c : Nat) (ok : Bool) : Option State :=
  match kget? s.sendqs i with
  | none => none
  | some q => match q.run with
    | none => none
    | some r =>
      if !(r.unacked.any fun p => p.1 == c) then none
      else if !ok then some (endSlot s i q r.slot 2)
      else
        let r1 := { r with unacked := r.unacked.filter fun p => p.1 != c }
        if r1.unacked = [] then some (afterData s i q r1)
        else some { s with sendqs := kset s.sendqs i { q with run := some r1 } }

/-- COLLECTIVE_CHUNK_ACK (R487). -/
def execCollectiveChunkAck (q i : Nat) (ok : Bool) (s : State) : Host.Outcome State Fault Refusal := device "COLLECTIVE_CHUNK_ACK" (stepChunkAck s q i ok)

/-- The check of a received chunk. No sender's chunk need cross a multiple of 512, and the spec is silent on one that does: it is checked piece by
piece, and lands whole or not at all (R26, R487; DESIGN CHOICE, log entry 49). -/
def receiveCheck (s : State) (g : Group) (p : GroupPacket) : Check :=
  let a := ((kget? s.regions p.dreg).map fun e => e.base).getD 0 + p.doff
  let w : Window := { gen := p.dgen, region := BitVec.ofNat 20 p.dreg, access := 3, limit := 0, base := 0 }
  let cs := (pieces a p.bytes.length).map fun q => chunkCheck s w g.tenant true q.1 q.2
  if cs.contains .wait then .wait else if cs.contains .fail then .fail else .pass

/-- Whether a packet is of its group's view and protected under its key, and its sender on the roster if the group has one (R484, R485). -/
def packetTaken (s : State) (g : Group) (p : GroupPacket) : Bool :=
  p.view == g.number && (!g.roster || g.members.contains p.member) &&
  (g.key.isNone || p.tss == packetTag s p.group (packetBytes p.view p.dreg p.dgen p.doff p.flag p.bytes))

/-- COLLECTIVE_CHUNK_RECEIVE: a packet of another view, one not protected under its key, or from a device not on the roster, is dropped; a
chunk that passes lands full and is acknowledged (R170, R484, R485, R487). -/
def stepReceive (s : State) (p : GroupPacket) : Option State :=
  if !inService s || p.bytes = [] || decide (512 < p.bytes.length) || decide (2 ^ 20 ≤ p.dreg) then none else
  match kget? s.groups p.group with
  | none => some s
  | some g =>
    if !packetTaken s g p then some s
    else match receiveCheck s g p with
    | .wait => none
    | .fail => some (emit s (.chunkAck p.group p.member false))
    | .pass =>
      let a := ((kget? s.regions p.dreg).map fun e => e.base).getD 0 + p.doff
      some (emit (landOutside s a p.bytes) (.chunkAck p.group p.member true))

/-- COLLECTIVE_CHUNK_RECEIVE (R487). -/
def execCollectiveChunkReceive (p : GroupPacket) (s : State) : Host.Outcome State Fault Refusal := device "COLLECTIVE_CHUNK_RECEIVE" (stepReceive s p)

/-! ### Keys (R465 to R467) -/

/-- The lowest free key slot (R466). -/
def freeKeySlot (s : State) : Option Nat :=
  ((List.range 4095).map fun i => i + 1).find? fun i => match kget? s.keys i with
    | none => true
    | some k => k.held.isNone

/-- The generation of a key slot. -/
def keyGen (s : State) (i : Nat) : BitVec 16 := ((kget? s.keys i).map fun k => k.gen).getD 0

/-- KEY_INSTALL: the tenant's key is unwrapped and stored in the lowest free slot; its handle is the reply's data (R466). -/
def stepKeyInstall (s : State) (h : ReqHdr) (ct wrapped : List Byte) : Option State :=
  manage s h 10 true fun s => some (
    match freeKeySlot s, unwrapped ct wrapped with
    | some i, some u =>
      if (kget? s.tenants h.tenant).isNone then refuse s
      else ({ s with keys := kset s.keys i { gen := keyGen s i, held := some (h.tenant, Config.deviceWrap u) } }, 0,
            [keyHandle h.tenant (keyGen s i) i])
    | _, _ => refuse s)

/-- KEY_INSTALL (R466). -/
def execKeyInstall (h : ReqHdr) (ct wrapped : List Byte) (s : State) : Host.Outcome State Fault Refusal := device "KEY_INSTALL" (stepKeyInstall s h ct wrapped)

/-- Whether a key is in use: a task in states 0 to 3 names the handle, or a region's tensor id names its slot (R467). -/
def keyInUse (s : State) (handle : Word) : Bool :=
  s.tasks.any (fun p => decide (p.2.state ≤ 3) && p.2.f 1344 64 == handle.toNat) ||
  s.regions.any fun p => p.2.state != 0 && p.2.prot && bits p.2.tensor 20 12 == bits handle 0 12

/-- KEY_DESTROY: the slot is erased and its generation advances (R467). -/
def stepKeyDestroy (s : State) (h : ReqHdr) (handle : Word) : Option State :=
  manageOn s h 10 true none (some handle.toNat) fun s => some (
    let i := bits handle 0 12
    if !keyHeld s (bits handle 58 6) handle || keyInUse s handle then refuse s
    else done { s with keys := kset s.keys i { gen := keyGen s i + 1, held := none } })

/-- KEY_DESTROY (R467). -/
def execKeyDestroy (h : ReqHdr) (handle : BitVec 64) (s : State) : Host.Outcome State Fault Refusal := device "KEY_DESTROY" (stepKeyDestroy s h handle)

/-! ### Attestation (R472) -/

/-- The device descriptor as the bytes that a report hashes, its words little-endian; the layout is the model's (R472, log entry 38). -/
def descriptorBytes (s : State) : List Byte := (descriptorWords s).flatMap fun w => leBytes 8 w.toNat

/-- Bytes 0 to 223 of a report (R472). -/
def reportBytes (s : State) (nonce : BitVec 512) (key image : Word) (mhash : BitVec 256) : List Byte :=
  leBytes 4 1 ++ leBytes 64 nonce.toNat ++ leBytes 32 (Config.sha256 (descriptorBytes s)).toNat ++ leBytes 32 Config.firmwareHash.toNat ++
  leBytes 4 Config.translatorVer.toNat ++ leBytes 8 s.revSeq ++ leBytes 32 Config.kemKeyHash.toNat ++ leBytes 8 key.toNat ++
  leBytes 8 image.toNat ++ leBytes 32 mhash.toNat

/-- The mhash of an installed image, or zeros (R425, R472). -/
def mhashOf (s : State) (image : Word) : BitVec 256 :=
  match kget? s.images image.toNat with
  | none => 0
  | some im => BitVec.ofNat 256 (bits im.header 1024 256)

/-- Bytes as the words of a reply's data, little-endian, the last one filled up with zeros. -/
def byteWords (l : List Byte) : List Word := (List.range ((l.length + 7) / 8)).map fun i => w64 (leNat ((l.drop (8 * i)).take 8))

/-- ATTESTATION_REPORT: the reply's data is the report, signed with an index never used before; refused when none is left, or for a key that is not the
requester's or an image that is not installed (R472). -/
def stepAttest (s : State) (h : ReqHdr) (nonce : BitVec 512) (key image : Word) : Option State :=
  manage s h 15 false fun s => some (
    if Config.hssCapacity ≤ s.attestUsed ∨ (key ≠ 0 ∧ keyHeld s h.tenant key = false) ∨ (image ≠ 0 ∧ (kget? s.images image.toNat).isNone = true) then refuse s
    else
      let b := reportBytes s nonce key image (mhashOf s image)
      ({ s with attestUsed := s.attestUsed + 1 }, 0, byteWords (b ++ Config.hssSign s.attestUsed b)))

/-- ATTESTATION_REPORT (R472). -/
def execAttestationReport (h : ReqHdr) (nonce : BitVec 512) (key image : BitVec 64) (s : State) : Host.Outcome State Fault Refusal :=
  device "ATTESTATION_REPORT" (stepAttest s h nonce key image)

end Sys2Proof.Machine
end

