-- ==== Sys2Proof/Machine/Intervals.lean ====
section
/-! DEFINITION. What Glousk knows of values: intervals and kinds of value (R428, R513), their joins, widening and narrowing, the
window stack of a path (R511), open lookahead windows, checks passed (R430), and what each word does to them. -/

namespace Sys2Proof.Machine

/-! ### Intervals -/

/-- An interval with bounds that may be absent, the compares that narrowed it, and whether it comes from g0 at entry. -/
structure Iv where
  lo : Option Int
  hi : Option Int
  gs : List Nat
  arg : Bool
  deriving DecidableEq, Repr

/-- The interval of one number. -/
def Iv.one (v : Int) : Iv := { lo := some v, hi := some v, gs := [], arg := false }

/-- The interval without bounds. -/
def Iv.all : Iv := { lo := none, hi := none, gs := [], arg := false }

/-- An interval between two numbers. -/
def Iv.mk' (lo hi : Int) : Iv := { lo := some lo, hi := some hi, gs := [], arg := false }

/-- A bound combined with another where both are there. -/
def both (f : Int → Int → Int) (a b : Option Int) : Option Int :=
  match a, b with
  | some x, some y => some (f x y)
  | _, _ => none

/-- A sorted list of numbers with those of another. -/
def unionN (a b : List Nat) : List Nat := b.foldl sinsert a

/-- What an interval computed from two carries along. -/
def Iv.from2 (i a b : Iv) : Iv := { i with gs := unionN a.gs b.gs, arg := a.arg || b.arg }

/-- What an interval computed from one carries along. -/
def Iv.from1 (i a : Iv) : Iv := { i with gs := a.gs, arg := a.arg }

/-- Whether a bound stays within i64. -/
def inI64 (b : Option Int) : Bool :=
  match b with
  | none => true
  | some v => decide (-(2 : Int) ^ 63 ≤ v) && decide (v < (2 : Int) ^ 63)

/-- A result, unbounded where a bound would leave i64 (R513). -/
def Iv.fit (i : Iv) : Iv := if inI64 i.lo && inI64 i.hi then i else { i with lo := none, hi := none }

/-- The join of two intervals. -/
def Iv.join (a b : Iv) : Iv := ({ Iv.all with lo := both min a.lo b.lo, hi := both max a.hi b.hi } : Iv).from2 a b

/-- A bound that moved down is widened. -/
def widenLo (old new : Option Int) : Option Int :=
  match old, new with
  | some x, some y => if y < x then none else some x
  | _, _ => none

/-- A bound that moved up is widened. -/
def widenHi (old new : Option Int) : Option Int :=
  match old, new with
  | some x, some y => if x < y then none else some x
  | _, _ => none

/-- Each bound that moved widened in its direction (R428). -/
def Iv.widen (old new : Iv) : Iv := { new with lo := widenLo old.lo new.lo, hi := widenHi old.hi new.hi }

/-- Whether an interval holds one number only, and which. -/
def Iv.const (a : Iv) : Option Int :=
  match a.lo, a.hi with
  | some x, some y => if x = y then some x else none
  | _, _ => none

/-- Whether every number of an interval is at least 0. -/
def Iv.nonneg (a : Iv) : Bool :=
  match a.lo with
  | some x => decide (0 ≤ x)
  | none => false

/-- Whether every number of an interval is below 0. -/
def Iv.neg (a : Iv) : Bool :=
  match a.hi with
  | some x => decide (x < 0)
  | none => false

/-- A bound changed. -/
def onB (f : Int → Int) (b : Option Int) : Option Int := b.map f

/-- The sum of two intervals (R513). -/
def Iv.add (a b : Iv) : Iv := ({ Iv.all with lo := both (· + ·) a.lo b.lo, hi := both (· + ·) a.hi b.hi } : Iv).fit.from2 a b

/-- Their difference (R513). -/
def Iv.sub (a b : Iv) : Iv := ({ Iv.all with lo := both (· - ·) a.lo b.hi, hi := both (· - ·) a.hi b.lo } : Iv).fit.from2 a b

/-- Shifted left by n (R513). -/
def Iv.shl (a : Iv) (n : Nat) : Iv :=
  ({ Iv.all with lo := onB (· * 2 ^ n) a.lo, hi := onB (· * 2 ^ n) a.hi } : Iv).fit.from1 a

/-- Shifted right by n, zero fill; unbounded below 0 (R513). -/
def Iv.shr (a : Iv) (n : Nat) : Iv :=
  (if a.nonneg then ({ Iv.all with lo := onB (· / 2 ^ n) a.lo, hi := onB (· / 2 ^ n) a.hi } : Iv) else Iv.all).from1 a

/-- Shifted right arithmetically by n (R513). -/
def Iv.sar (a : Iv) (n : Nat) : Iv := ({ Iv.all with lo := onB (· / 2 ^ n) a.lo, hi := onB (· / 2 ^ n) a.hi } : Iv).from1 a

/-- The bits of an operand that is at least 0, and of another; the guards are those of the operand whose bound decides (R513). -/
def Iv.mask (c other : Iv) : Iv :=
  let arg := c.arg || other.arg
  match c.hi, other.hi with
  | none, _ => { Iv.all with gs := unionN c.gs other.gs, arg := arg }
  | some m, none => { Iv.mk' 0 m with gs := c.gs, arg := arg }
  | some m, some h =>
    if other.nonneg ∧ h < m then { Iv.mk' 0 h with gs := other.gs, arg := arg } else { Iv.mk' 0 m with gs := c.gs, arg := arg }

/-- AND (R513). -/
def Iv.and (a b : Iv) : Iv :=
  if a.nonneg && a.hi.isSome then Iv.mask a b else if b.nonneg && b.hi.isSome then Iv.mask b a else Iv.all.from2 a b

/-- The smaller of two numbers; an absent bound of either decides (R513). -/
def Iv.min (a b : Iv) : Iv :=
  ({ Iv.all with lo := both (fun x y => Min.min x y) a.lo b.lo, hi := match a.hi, b.hi with
      | some x, some y => some (Min.min x y)
      | _, _ => none } : Iv).from2 a b

/-- The larger of two numbers (R513). -/
def Iv.max (a b : Iv) : Iv :=
  ({ Iv.all with lo := both (fun x y => Max.max x y) a.lo b.lo, hi := both (fun x y => Max.max x y) a.hi b.hi } : Iv).from2 a b

/-- An interval kept if it lies within a range, else the range (R513). -/
def Iv.clampTo (a : Iv) (lo hi : Int) : Iv :=
  match a.lo, a.hi with
  | some x, some y => if lo ≤ x ∧ y ≤ hi then a else (Iv.mk' lo hi).from1 a
  | _, _ => (Iv.mk' lo hi).from1 a

/-! ### Values (R428) -/

/-- The value of a register: an integer, an address of a window with its pointer step, a return value with the words it may
return to (`ext`: or to a caller of an export), an `lr` that a `leave` restored from an unknown frame and that is no return value (R511),
or nothing known. -/
inductive AV where
  | int (i : Iv)
  | addr (n : Nat) (i : Iv) (step : Option Int)
  | ret (sites : List Nat) (ext : Bool)
  | lost
  | top
  deriving DecidableEq, Repr

/-- An integer of which nothing is known. -/
def AV.any : AV := .int Iv.all
/-- The integer 0. -/
def AV.zero : AV := .int (Iv.one 0)

/-- A value as an integer, if it is one. -/
def AV.asInt : AV → Option Iv
  | .int i => some i
  | .ret _ _ => some Iv.all
  | _ => none

/-- The join of two values (R428). -/
def AV.join : AV → AV → AV
  | .int a, .int b => .int (a.join b)
  | .addr n a s, .addr m b t => if n = m then .addr n (a.join b) (if s = t then s else none) else .top
  | .ret a e, .ret b f => .ret (unionN a b) (e || f)
  | .int _, .ret _ _ => .any
  | .ret _ _, .int _ => .any
  | .lost, _ => .lost
  | _, .lost => .lost
  | _, _ => .top

/-- A value at a loop head widened (R428). -/
def AV.widen : AV → AV → AV
  | .int a, .int b => .int (a.widen b)
  | .addr _ a _, .addr n b s => .addr n (a.widen b) s
  | _, b => b

/-! ### The state of a path -/

/-- An operand of a compare: a register that still holds it, or its value, once the register has been written again. -/
inductive POp where
  | reg (r : Nat)
  | val (v : AV)
  deriving DecidableEq, Repr

/-- What a predicate is known to be: a truth, or the outcome of a compare. -/
inductive PFact where
  | known (b : Bool)
  | cmp (c : Nat) (a b : POp) (pc : Nat)
  deriving DecidableEq, Repr

/-- An open lookahead window: its destinations, the words still to count, whether every path has it (R82, R431). -/
structure APend where
  dst : List Nat
  rem : Nat
  sure : Bool
  deriving DecidableEq, Repr

/-- A check passed: window, register, direction, length (R430). -/
structure Chk where
  win : Nat
  reg : Nat
  dir : Nat
  len : Nat
  deriving DecidableEq, Repr

/-- A frame of the window stack as a path knows it; without a size, one that is there and of which nothing is known, or (`many`) any number
of them (R511). -/
structure AFrame where
  k : Option Nat
  lr : AV
  regs : List AV
  many : Bool := false
  deriving DecidableEq, Repr

/-- What a path knows at a word: general registers, `lr`, pointer registers, predicates, the frames above an unknown base (`root`: the base
is the strand's empty stack), open windows, checks. -/
structure AState where
  regs : List AV
  lr : AV
  xs : List AV
  preds : KMap PFact
  stack : List AFrame
  root : Bool
  pend : List APend
  chks : List Chk
  deriving DecidableEq, Repr

/-- A register's value by its code: `zr` reads 0, `qin` anything. -/
def AState.get (s : AState) (r : Nat) : AV :=
  if r < 120 then s.regs.getD r .top else if r = 123 then s.lr else if r = 121 then .any else .zero

/-- What an operand of a compare holds. -/
def AState.operand (s : AState) : POp → AV
  | .reg r => s.get r
  | .val v => v

/-- An operand of a compare before a register is written: it keeps the value. -/
def AState.keep (s : AState) (r : Nat) (p : POp) : POp := if p = .reg r then .val (s.get r) else p

/-- What a write of a register undoes: the checks that rest on it; a compare keeps what it held. -/
def AState.forget (s : AState) (r : Nat) : AState :=
  let keep : PFact → PFact
    | .known b => .known b
    | .cmp c a b pc => .cmp c (s.keep r a) (s.keep r b) pc
  { s with preds := s.preds.map (fun p => (p.1, keep p.2)), chks := s.chks.filter fun c => c.reg != r }

/-- A register's value replaced, facts and checks kept (a value narrowed, not written). -/
def AState.put (s : AState) (r : Nat) (v : AV) : AState :=
  if r < 120 then { s with regs := s.regs.set r v } else if r = 123 then { s with lr := v } else s

/-- A register written; `zr` and `qout` are none. -/
def AState.write (s : AState) (r : Nat) (v : AV) : AState := if r < 120 ∨ r = 123 then (s.forget r).put r v else s

/-- Joins of two lists value by value. -/
def joinAll : List AV → List AV → List AV
  | a :: r, b :: t => a.join b :: joinAll r t
  | _, _ => []

/-- Widening of two lists value by value. -/
def widenAll : List AV → List AV → List AV
  | a :: r, b :: t => a.widen b :: widenAll r t
  | _, _ => []

/-- A frame of which nothing is known. -/
def AFrame.unknown : AFrame := { k := none, lr := .lost, regs := [] }

/-- Any number of frames of which nothing is known. -/
def AFrame.open : AFrame := { AFrame.unknown with many := true }

/-- The stacks of two paths joined: frame by frame what they have in common from the bottom; above it, be it nothing, stand as many unknown
frames where the depths agree, else any number of them (R511). -/
def joinStack (a b : List AFrame) : List AFrame :=
  let join (p : AFrame × AFrame) : AFrame := { p.1 with lr := p.1.lr.join p.2.lr, regs := joinAll p.1.regs p.2.regs }
  let same := (a.reverse.zip b.reverse).takeWhile fun p => p.1.k == p.2.k && p.1.many == p.2.many
  let kept := (same.map join).reverse
  let n := same.length
  if n = a.length ∧ n = b.length then kept
  else if a.length = b.length ∧ (a ++ b).all (fun f => !f.many) = true then List.replicate (a.length - n) AFrame.unknown ++ kept
  else match kept with
    | [] => [AFrame.open]
    | f :: r => if f.many then f :: r else AFrame.open :: f :: r

/-- An operand of a compare on two paths. -/
def joinOperand (a b : AState) (p q : POp) : POp := if p = q then p else .val ((a.operand p).join (b.operand q))

/-- What two paths know of a predicate: the same truth, or the outcome of the same compare. -/
def joinFact (a b : AState) : PFact → PFact → Option PFact
  | .known x, .known y => if x = y then some (.known x) else none
  | .cmp c p q pc, .cmp d p' q' pc' => if c = d ∧ pc = pc' then some (.cmp c (joinOperand a b p p') (joinOperand a b q q') pc) else none
  | _, _ => none

/-- Open windows of two paths: those of both are sure. -/
def joinPend (a b : List APend) : List APend :=
  let weak (l : List APend) (p : APend) : APend := { p with sure := p.sure && l.any fun q => q.dst == p.dst && q.rem == p.rem && q.sure }
  (a.map (weak b)) ++ (b.filter fun p => !a.any fun q => q.dst == p.dst && q.rem == p.rem).map (weak a)

/-- Whether a check covers another: the same window and register, at least its directions and its bytes. -/
def Chk.covers (c d : Chk) : Bool := c.win == d.win && c.reg == d.reg && c.dir &&& d.dir == d.dir && decide (d.len ≤ c.len)

/-- A check passed beside others; one that another covers says nothing more. -/
def addChk (l : List Chk) (c : Chk) : List Chk :=
  if l.any fun d => d.covers c then l else l.filter (fun d => !c.covers d) ++ [c]

/-- The checks that two paths share: what each check of one has in common with each of the other (R430). -/
def joinChks (a b : List Chk) : List Chk :=
  (a.flatMap fun c => (b.filter fun d => d.win == c.win && d.reg == c.reg && c.dir &&& d.dir != 0).map fun d =>
    { c with dir := c.dir &&& d.dir, len := Min.min c.len d.len }).foldl addChk []

/-- What kind of value a register holds: 0 an integer, 1 a return value, 2 nothing known, 3 + n an address of window n, 19 an `lr` of an
unknown frame. -/
def AV.kind : AV → Nat
  | .int _ => 0
  | .ret _ _ => 1
  | .top => 2
  | .lost => 19
  | .addr n _ _ => 3 + n

/-- Whether two paths hold values of the same kinds, so that their join loses none. -/
def AState.alike (a b : AState) : Bool :=
  (a.regs.map AV.kind == b.regs.map AV.kind) && a.lr.kind == b.lr.kind && (a.xs.map AV.kind == b.xs.map AV.kind)

/-- The join of two paths (R428, R511). -/
def AState.join (a b : AState) : AState :=
  { regs := joinAll a.regs b.regs, lr := a.lr.join b.lr, xs := joinAll a.xs b.xs,
    preds := a.preds.filterMap fun p => ((kget? b.preds p.1).bind (joinFact a b p.2)).map fun f => (p.1, f),
    stack := joinStack a.stack b.stack, root := a.root && b.root, pend := joinPend a.pend b.pend, chks := joinChks a.chks b.chks }

/-- A loop head's state widened; a compare whose operands changed with the pass is no longer known (R428). -/
def AState.widen (a b : AState) : AState :=
  { b with
      regs := widenAll a.regs b.regs, lr := a.lr.widen b.lr, xs := widenAll a.xs b.xs, preds := b.preds.filter (a.preds.contains ·),
      stack := if a.stack.map (fun f => f.k) = b.stack.map (fun f => f.k) then
          (a.stack.zip b.stack).map fun p => { p.2 with lr := p.1.lr.widen p.2.lr, regs := widenAll p.1.regs p.2.regs }
        else b.stack }

/-- An open window closed: its destinations hold a value of which nothing is known (R82). -/
def closeOne (s : AState) (p : APend) : AState :=
  p.dst.foldl (fun s r => s.write r (if p.sure then .any else (s.get r).join .any)) s

/-- One word counts for the open windows (R81, R82). -/
def AState.count (s : AState) : AState :=
  let l := s.pend.map fun p => { p with rem := p.rem - 1 }
  (l.filter fun p => p.rem == 0).foldl closeOne { s with pend := l.filter fun p => p.rem != 0 }

/-- n words count. -/
def AState.counts (s : AState) : Nat → AState
  | 0 => s
  | n + 1 => s.count.counts n

/-! ### Conditions (R86, R428) -/

/-- What intervals decide of a condition (R86). -/
def decideCond (c : Nat) (a b : Iv) : Option Bool :=
  let less (x y : Iv) : Option Bool :=
    match x.hi, y.lo, x.lo, y.hi with
    | some h, some l, xl, yh => if h < l then some true else match xl, yh with
      | some p, some q => if q ≤ p then some false else none
      | _, _ => none
    | _, _, some p, some q => if q ≤ p then some false else none
    | _, _, _, _ => none
  let same : Option Bool :=
    match a.const, b.const with
    | some x, some y => some (x == y)
    | _, _ => if less a b = some true ∨ less b a = some true then some false else none
  let lessN : Option Bool :=
    if (a.nonneg && b.nonneg) || (a.neg && b.neg) then less a b
    else if a.nonneg && b.neg then some true
    else if a.neg && b.nonneg then some false
    else none
  let zero : Option Bool := if a.const = some 0 ∨ b.const = some 0 then some false else none
  match c with
  | 0 => same
  | 1 => same.map (!·)
  | 2 => less a b
  | 3 => (less a b).map (!·)
  | 4 => lessN
  | 5 => lessN.map (!·)
  | 6 => zero
  | 7 => zero.map (!·)
  | _ => none

/-- A lower bound raised to at least v. -/
def atLeast (a : Iv) (v : Option Int) : Iv :=
  match v with
  | none => a
  | some v => { a with lo := some (match a.lo with
      | some x => Max.max x v
      | none => v) }

/-- An upper bound lowered to at most v. -/
def atMost (a : Iv) (v : Option Int) : Iv :=
  match v with
  | none => a
  | some v => { a with hi := some (match a.hi with
      | some x => Min.min x v
      | none => v) }

/-- A number taken off the ends of an interval. -/
def without (a : Iv) (v : Option Int) : Iv :=
  match v with
  | none => a
  | some v =>
    let a := if a.lo = some v then { a with lo := some (v + 1) } else a
    if a.hi = some v then { a with hi := some (v - 1) } else a

/-- Both operands narrowed by a < b. -/
def narrowLess (a b : Iv) : Iv × Iv := (atMost a (onB (· - 1) b.hi), atLeast b (onB (· + 1) a.lo))

/-- Both operands narrowed by b ≤ a. -/
def narrowGe (a b : Iv) : Iv × Iv := (atLeast a b.lo, atMost b a.hi)

/-- The part of an interval below 0. -/
def Iv.lower (a : Iv) : Iv := atMost a (some (-1))

/-- The part of an interval at or above 0. -/
def Iv.upper (a : Iv) : Iv := atLeast a (some 0)

/-- Whether an interval holds no number. -/
def Iv.empty (a : Iv) : Bool :=
  match a.lo, a.hi with
  | some x, some y => decide (y < x)
  | _, _ => false

/-- The interval over a part below 0 and one at or above 0. -/
def Iv.hull (p q : Iv) : Iv := if p.empty then q else if q.empty then p else { p with hi := q.hi }

/-- The number of an interval that is largest as n64; none for an unbounded interval of numbers at or above 0. -/
def Iv.topN (a : Iv) : Option Int := if a.lower.empty then a.hi else a.lower.hi

/-- The number of an interval that is least as n64; none for an unbounded interval of numbers below 0. -/
def Iv.botN (a : Iv) : Option Int := if a.upper.empty then a.lo else a.upper.lo

/-- An interval narrowed to numbers that as n64 are at most u - d, for an n64 number u that may be unknown. -/
def atMostN (a : Iv) (u : Option Int) (d : Int) : Iv :=
  match u with
  | none => a.upper
  | some v => if 0 ≤ v then atMost a.upper (some (v - d)) else (atMost a.lower (some (v - d))).hull a.upper

/-- An interval narrowed to numbers that as n64 are at least u + d. -/
def atLeastN (a : Iv) (u : Option Int) (d : Int) : Iv :=
  match u with
  | none => a.lower
  | some v => if 0 ≤ v then a.lower.hull (atLeast a.upper (some (v + d))) else atLeast a.lower (some (v + d))

/-- The bits that two i64 numbers share, as one number from 0 to 2^64 - 1. -/
def sharedBits (v c : Int) : Nat := (BitVec.ofInt 64 v &&& BitVec.ofInt 64 c).toNat

/-- The lowest bit of a number that is set; 64 for 0. -/
def lowBit (c : Int) : Nat := ((List.range 64).find? fun k => (BitVec.ofInt 64 c).getLsbD k).getD 64

/-- The least number at or above v that shares a bit with c. -/
def upAny (c v : Int) : Int := if sharedBits v c ≠ 0 then v else (v / 2 ^ lowBit c + 1) * 2 ^ lowBit c

/-- The greatest number at or below v that shares a bit with c. -/
def downAny (c v : Int) : Int := if sharedBits v c ≠ 0 then v else v / 2 ^ (lowBit c + 1) * 2 ^ (lowBit c + 1) - 1

/-- The highest bit that two numbers share. -/
def topShared (v c : Int) : Nat := (sharedBits v c).log2

/-- The greatest number at or below v that shares no bit with c: the highest shared bit is cleared, and below it every bit that c lacks is
set. -/
def downNone (c v : Int) : Int :=
  let i := topShared v c
  let ones : Nat := 2 ^ i - 1
  if sharedBits v c = 0 then v else v / 2 ^ (i + 1) * 2 ^ (i + 1) + (ones - sharedBits ones c : Nat)

/-- The least number at or above v that shares no bit with c: a bit that neither has, above all that they share, is set. -/
def upNone (c v : Int) : Int :=
  if sharedBits v c = 0 then v
  else match (List.range 64).find? fun j => decide (topShared v c < j) && !(BitVec.ofInt 64 v).getLsbD j && !(BitVec.ofInt 64 c).getLsbD j with
    | some j => (v / 2 ^ (j + 1) * 2 + 1) * 2 ^ j
    | none => if v < 0 then 0 else 2 ^ 63

/-- An interval narrowed to numbers that share a bit with those of another (R86). -/
def narrowAny (a b : Iv) : Iv :=
  match b.const with
  | some c => if c = 0 then Iv.mk' 1 0 else { a with lo := onB (upAny c) a.lo, hi := onB (downAny c) a.hi }
  | none => without a (some 0)

/-- An interval narrowed to numbers that share no bit with those of another: beside one below 0 they are at or above 0, and at most its
complement (R86). -/
def narrowNone (a b : Iv) : Iv :=
  let a := if b.neg then atMost a.upper (onB (fun l => -1 - l) b.lo) else a
  match b.const with
  | some c => if a.empty then a else { a with lo := onB (upNone c) a.lo, hi := onB (downNone c) a.hi }
  | none => a

/-- Both operands narrowed by a condition that holds (R86, R428). -/
def narrowCond (c : Nat) (a b : Iv) : Iv × Iv :=
  match c with
  | 0 =>
    let m := atMost (atLeast a b.lo) b.hi
    let n := atMost (atLeast b a.lo) a.hi
    (m, n)
  | 1 => (without a b.const, without b a.const)
  | 2 => narrowLess a b
  | 3 => narrowGe a b
  | 4 => (atMostN a b.topN 1, atLeastN b a.botN 1)
  | 5 => (atLeastN a b.botN 0, atMostN b a.topN 0)
  | 6 => (narrowAny a b, narrowAny b a)
  | _ => (narrowNone a b, narrowNone b a)

/-- The condition that holds when another does not. -/
def negCond (c : Nat) : Nat := if c % 2 = 0 then c + 1 else c - 1

/-- An interval as a compare narrowed it, marked with the compare if it changed. -/
def marked (old new : Iv) (pc : Nat) : Iv :=
  if old.lo = new.lo ∧ old.hi = new.hi then old else { new with gs := sinsert old.gs pc, arg := old.arg }

/-- A path on which a compare has an outcome: its operands narrowed; none if the path cannot be taken (R428). -/
def AState.assume (s : AState) (f : PFact) (truth : Bool) : Option AState :=
  match f with
  | .known b => if b = truth then some s else none
  | .cmp c a b pc =>
    let narrow (s : AState) (p : POp) (i : Iv) : AState :=
      match p with
      | .reg r => s.put r (.int i)
      | .val _ => s
    match s.operand a, s.operand b with
    | .int x, .int y =>
      if decideCond c x y = some (!truth) then none
      else
        let n := narrowCond (if truth then c else negCond c) x y
        if n.1.empty || n.2.empty then none
        else some (narrow (narrow s a (marked x n.1 pc)) b (marked y n.2 pc))
    | _, _ => some s

/-! ### What a word leaves in its destination (R428, R513) -/

/-- An address and an integer added. -/
def addAV (a b : AV) : AV :=
  match a, b with
  | .addr n i s, v => match v.asInt with
    | some j => .addr n (i.add j) s
    | none => .top
  | v, .addr n i s => match v.asInt with
    | some j => .addr n (j.add i) s
    | none => .top
  | a, b => match a.asInt, b.asInt with
    | some i, some j => .int (i.add j)
    | _, _ => .top

/-- A difference: of two addresses of one window an integer. -/
def subAV (a b : AV) : AV :=
  match a, b with
  | .addr n i _, .addr m j _ => if n = m then .int (Iv.all.from2 i j) else .top
  | .addr n i s, v => match v.asInt with
    | some j => .addr n (i.sub j) s
    | none => .top
  | a, b => match a.asInt, b.asInt with
    | some i, some j => .int (i.sub j)
    | _, _ => .top

/-- Two integers through a function, anything else opaque. -/
def intAV (f : Iv → Iv → Iv) (a b : AV) : AV :=
  match a.asInt, b.asInt with
  | some i, some j => .int (f i j)
  | _, _ => .top

/-- Whether a value is the integer 0. -/
def AV.isZero (a : AV) : Bool := match a with
  | .int i => i.const == some 0
  | _ => false

/-- `or` and `xor`: with 0 the other operand; `or` of an address with a constant of bits 63:48 sets its step (R428). -/
def orAV (isOr : Bool) (a b : AV) : AV :=
  let step (n : Nat) (i : Iv) (v : AV) : AV :=
    match v with
    | .int j => match j.const with
      | some c => if isOr ∧ c % 2 ^ 48 = 0 then .addr n i (some (c / 2 ^ 48)) else .top
      | none => .top
    | _ => .top
  if b.isZero then a else if a.isZero then b else
  match a, b with
  | .addr n i _, v => step n i v
  | v, .addr n i _ => step n i v
  | a, b => intAV (fun i j => Iv.all.from2 i j) a b

/-- A shift by a constant count. -/
def shiftAV (f : Iv → Nat → Iv) (a b : AV) : AV :=
  intAV (fun i j => match j.const with
    | some c => if 0 ≤ c ∧ c < 64 then f i c.toNat else Iv.all.from2 i j
    | none => Iv.all.from2 i j) a b

/-- `minn` and `maxn` on intervals at or above 0. -/
def minnAV (f : Iv → Iv → Iv) (a b : AV) : AV := intAV (fun i j => if i.nonneg && j.nonneg then f i j else Iv.all.from2 i j) a b

/-- A result within a fixed range, whatever the operands. -/
def rangeAV (lo hi : Int) : AV := .int (Iv.mk' lo hi)

/-- The value of a scalar word not listed: opaque where an address goes in. -/
def otherAV (l : List AV) : AV := if l.all fun v => v.asInt.isSome then .any else .top

/-- The value that an integer word leaves in its destination; none for a word of another kind. `decl`: the mins that the object
itself declares (R428, R513). -/
def valueOf (s : AState) (decl : Nat → Nat) (imm : Int) : Instr → Option AV
  | .add _ a b => some (addAV (s.get a.toNat) (s.get b.toNat))
  | .sub _ a b => some (subAV (s.get a.toNat) (s.get b.toNat))
  | .addi _ a _ => some (addAV (s.get a.toNat) (.int (Iv.one imm)))
  | .and _ a b => some (intAV Iv.and (s.get a.toNat) (s.get b.toNat))
  | .andi _ a _ => some (intAV Iv.and (s.get a.toNat) (.int (Iv.one imm)))
  | .or _ a b => some (orAV true (s.get a.toNat) (s.get b.toNat))
  | .ori _ a _ => some (orAV true (s.get a.toNat) (.int (Iv.one imm)))
  | .xor _ a b => some (orAV false (s.get a.toNat) (s.get b.toNat))
  | .xori _ a _ => some (orAV false (s.get a.toNat) (.int (Iv.one imm)))
  | .sll _ a b => some (shiftAV Iv.shl (s.get a.toNat) (s.get b.toNat))
  | .srl _ a b => some (shiftAV Iv.shr (s.get a.toNat) (s.get b.toNat))
  | .sra _ a b => some (shiftAV Iv.sar (s.get a.toNat) (s.get b.toNat))
  | .slli _ a n => some (shiftAV Iv.shl (s.get a.toNat) (.int (Iv.one n.toNat)))
  | .srli _ a n => some (shiftAV Iv.shr (s.get a.toNat) (.int (Iv.one n.toNat)))
  | .srai _ a n => some (shiftAV Iv.sar (s.get a.toNat) (.int (Iv.one n.toNat)))
  | .min _ a b => some (intAV Iv.min (s.get a.toNat) (s.get b.toNat))
  | .max _ a b => some (intAV Iv.max (s.get a.toNat) (s.get b.toNat))
  | .minn _ a b => some (minnAV Iv.min (s.get a.toNat) (s.get b.toNat))
  | .maxn _ a b => some (minnAV Iv.max (s.get a.toNat) (s.get b.toNat))
  | .slt _ _ _ => some (rangeAV 0 1)
  | .sltn _ _ _ => some (rangeAV 0 1)
  | .slti _ _ _ => some (rangeAV 0 1)
  | .sltni _ _ _ => some (rangeAV 0 1)
  | .sel _ a b _ => some ((s.get a.toNat).join (s.get b.toNat))
  | .clz _ _ => some (rangeAV 0 64)
  | .ctz _ _ => some (rangeAV 0 64)
  | .popc _ _ => some (rangeAV 0 64)
  | .zext _ a w => some (match (s.get a.toNat).asInt with
    | some i => .int (i.clampTo 0 (2 ^ w.toNat - 1))
    | none => .top)
  | .sext _ a w => some (match (s.get a.toNat).asInt with
    | some i => .int (i.clampTo (-(2 ^ (w.toNat - 1))) (2 ^ (w.toNat - 1) - 1))
    | none => .top)
  | .wba _ n b => some (match s.get b.toNat with
    | .int i => .addr n.toNat i (some 0)
    | _ => .addr n.toNat Iv.all (some 0))
  | .wrd _ n w => some (match w.toNat with
    | 0 => .addr n.toNat (Iv.one 0) (some 0)
    | 1 => .addr n.toNat (Iv.mk' (decl n.toNat) (2 ^ 48 - 1)) (some 0)
    | 2 => .int (Iv.mk' (decl n.toNat) (2 ^ 48 - 1))
    | _ => .any)
  | _ => none

/-! ### Accesses (R429) -/

/-- An access of a word: through a general register or a pointer register, its offset, its span end, its direction. -/
structure ARef where
  isX : Bool
  reg : Nat
  off : Int
  fin : Int
  dir : Nat
  deriving DecidableEq, Repr

/-- An access through a base register. -/
def baseRef (b : RCode) (off : Int) (width : Nat) (dir : Nat) : ARef := { isX := false, reg := b.toNat, off := off, fin := off + width, dir := dir }

/-- The pointer operands of a V-form word: one access for each pointer register named, since all its fields read one address
(R38). -/
def xRefs (i : Instr) : List ARef :=
  let u := usesOf i
  let named := ((u.vd ++ u.vs).filter fun v => decide (32 ≤ v.toNat) && decide (v.toNat < 40)).eraseDups
  named.map fun v => { isX := true, reg := v.toNat - 32, off := 0, fin := 512,
                       dir := (if u.vs.contains v then 1 else 0) + if u.vd.contains v then 2 else 0 }

/-- The accesses of a word (R429). -/
def refsOf : Instr → List ARef
  | .ld _ b _ z o => [baseRef b (o.toInt * 2 ^ z.toNat) (2 ^ z.toNat) 1]
  | .lds _ b _ z o => [baseRef b (o.toInt * 2 ^ z.toNat) (2 ^ z.toNat) 1]
  | .st _ b z o => [baseRef b (o.toInt * 2 ^ z.toNat) (2 ^ z.toNat) 2]
  | .ldf _ b _ o => [baseRef b (o.toInt * 8) 8 1]
  | .ldt _ b _ o => [baseRef b (o.toInt * 8) 8 1]
  | .stf _ b o => [baseRef b (o.toInt * 8) 8 2]
  | .stp _ b o => [baseRef b (o.toInt * 8) 8 2]
  | .stempty b o => [baseRef b (o.toInt * 8) 8 2]
  | .cas _ a _ _ => [baseRef a 0 8 3]
  | .xadd _ a _ _ => [baseRef a 0 8 3]
  | .barArrive _ a => [baseRef a 0 8 3]
  | .barWait a _ => [baseRef a 0 8 1]
  | .join a => [baseRef a 0 8 1]
  | .exit a => if a.toNat = 120 then [] else [baseRef a 0 8 3]
  | .dld _ g _ => [baseRef g 0 512 1]
  | .dst _ g => [baseRef g 0 512 2]
  | .dmk _ g _ => [baseRef g 0 256 1]
  | .vld v g => baseRef g 0 512 1 :: xRefs (.vld v g)
  | .vst v g => baseRef g 0 512 2 :: xRefs (.vst v g)
  | .mxIssue a => [baseRef a 0 64 1]
  | .mxIssueMeta a _ => [baseRef a 0 64 1]
  | .cpStart a _ => [baseRef a 0 128 1]
  | i => xRefs i

/-- The lookahead of a long-latency word (R80). -/
def laOf : Instr → Option Nat
  | .mul _ _ _ k => some k.toNat
  | .div _ _ _ k => some k.toNat
  | .ld _ _ k _ _ => some k.toNat
  | .lds _ _ k _ _ => some k.toNat
  | .ldf _ _ k _ => some k.toNat
  | .ldt _ _ k _ => some k.toNat
  | .cas _ _ _ k => some k.toNat
  | .xadd _ _ _ k => some k.toNat
  | .dadd _ _ _ k => some k.toNat
  | .dsub _ _ _ k => some k.toNat
  | .dmul _ _ _ k => some k.toNat
  | .dmax _ _ _ k => some k.toNat
  | .dmin _ _ _ k => some k.toNat
  | .dneg _ _ k => some k.toNat
  | .dld _ _ k => some k.toNat
  | .dmk _ _ k => some k.toNat
  | .dtag _ _ _ k => some k.toNat
  | .dsplat _ _ k => some k.toNat
  | .dmomV _ _ k _ => some k.toNat
  | .dmomG _ _ k _ => some k.toNat
  | .dqntV _ _ _ k => some k.toNat
  | .dqntG _ _ k => some k.toNat
  | _ => none

/-- A long-latency word with another lookahead. -/
def withLa (n : Nat) : Instr → Instr
  | .mul d a b _ => .mul d a b (BitVec.ofNat 4 n)
  | .div d a b _ => .div d a b (BitVec.ofNat 4 n)
  | .ld d b _ z o => .ld d b (BitVec.ofNat 4 n) z o
  | .lds d b _ z o => .lds d b (BitVec.ofNat 4 n) z o
  | .ldf d b _ o => .ldf d b (BitVec.ofNat 4 n) o
  | .ldt d b _ o => .ldt d b (BitVec.ofNat 4 n) o
  | .cas d a b _ => .cas d a b (BitVec.ofNat 4 n)
  | .xadd d a b _ => .xadd d a b (BitVec.ofNat 4 n)
  | .dadd d a b _ => .dadd d a b (BitVec.ofNat 4 n)
  | .dsub d a b _ => .dsub d a b (BitVec.ofNat 4 n)
  | .dmul d a b _ => .dmul d a b (BitVec.ofNat 4 n)
  | .dmax d a b _ => .dmax d a b (BitVec.ofNat 4 n)
  | .dmin d a b _ => .dmin d a b (BitVec.ofNat 4 n)
  | .dneg d a _ => .dneg d a (BitVec.ofNat 4 n)
  | .dld d g _ => .dld d g (BitVec.ofNat 4 n)
  | .dmk d g _ => .dmk d g (BitVec.ofNat 4 n)
  | .dtag d a g _ => .dtag d a g (BitVec.ofNat 4 n)
  | .dsplat d g _ => .dsplat d g (BitVec.ofNat 4 n)
  | .dmomV v a _ m => .dmomV v a (BitVec.ofNat 4 n) m
  | .dmomG a g _ m => .dmomG a g (BitVec.ofNat 4 n) m
  | .dqntV v a g _ => .dqntV v a g (BitVec.ofNat 4 n)
  | .dqntG a g _ => .dqntG a g (BitVec.ofNat 4 n)
  | i => i

/-! ### The effect of a word on what is known -/

/-- The general registers that a word writes, both halves of a pair included. -/
def dstCodes (i : Instr) : List Nat :=
  let u := usesOf i
  (u.dst ++ u.rw).map (fun r => r.toNat) ++ u.pair.flatMap fun r => if r.toNat = 120 then [] else [r.toNat, r.toNat + 1]

/-- The pointer registers that a word uses, advanced by their steps (R38). -/
def advanceX (s : AState) (l : List Nat) : AState :=
  l.foldl (fun s n => { s with xs := s.xs.modify n fun v => match v with
    | .addr w i (some st) => .addr w (i.add (Iv.one st)) (some st)
    | .addr w i none => .addr w (Iv.all.from1 i) none
    | _ => .top }) s

/-- The registers of an `enter` or `leave` frame below `lr`. -/
def frameCodes (k : Nat) : List Nat := (List.range k).map fun i => 8 + i

/-- A word's effect on the registers that a path knows; none where the path ends (R113, R428, R511). -/
def wordEffect (s : AState) (decl : Nat → Nat) (imm : Int) (i : Instr) : Option AState :=
  match i with
  | .enter k =>
    let n := frameK k
    some { s with stack := { k := some n, lr := s.lr, regs := (frameCodes n).map s.get } :: s.stack }
  | .leave k =>
    let n := frameK k
    match s.stack with
    | [] => some (((frameCodes n).foldl (fun s r => s.write r .top) s).write 123 .lost)
    | f :: r =>
      if f.k = none then
        let s1 : AState := { s with stack := if f.many then [AFrame.open] else r }
        some (((frameCodes n).foldl (fun s r => s.write r .top) s1).write 123 .lost)
      else if f.k ≠ some n then none
      else some (((frameCodes n).zip f.regs).foldl (fun s p => s.write p.1 p.2) ({ s with stack := r }.write 123 f.lr))
  | .vmovx x g => some { s with xs := s.xs.set x.toNat (s.get g.toNat) }
  | .mtp _ _ => some { s with preds := [] }
  | .pand d _ _ => some { s with preds := kdel s.preds d.toNat }
  | .por d _ _ => some { s with preds := kdel s.preds d.toNat }
  | .pxor d _ _ => some { s with preds := kdel s.preds d.toNat }
  | .pandn d _ _ => some { s with preds := kdel s.preds d.toNat }
  | .porn d _ _ => some { s with preds := kdel s.preds d.toNat }
  | .pnot d _ => some { s with preds := kdel s.preds d.toNat }
  | .fork p _ _ => some { s with preds := kdel s.preds p.toNat }
  | .forkRCarry8 p _ _ => some { s with preds := kdel s.preds p.toNat }
  | .forkRCarry16 p _ _ => some { s with preds := kdel s.preds p.toNat }
  | .forkRCarry24 p _ _ => some { s with preds := kdel s.preds p.toNat }
  | .chkR n a c => some { s with chks := addChk s.chks { win := n.toNat, reg := a.toNat, dir := 1, len := 2 ^ c.toNat } }
  | .chkW n a c => some { s with chks := addChk s.chks { win := n.toNat, reg := a.toNat, dir := 2, len := 2 ^ c.toNat } }
  | .chkRw n a c => some { s with chks := addChk s.chks { win := n.toNat, reg := a.toNat, dir := 3, len := 2 ^ c.toNat } }
  | i =>
    let s1 := advanceX s (sortNat ((xRefs i).map fun r => r.reg))
    match laOf i with
    | some k => some { s1 with pend := s1.pend ++ [{ dst := dstCodes i, rem := k + 1, sure := true }] }
    | none =>
      let s1 := match i with
        | .cpMbox _ p => { s1 with preds := kdel s1.preds p.toNat }
        | .cpEv _ p => { s1 with preds := kdel s1.preds p.toNat }
        | _ => s1
      let m := majorOf i
      let listed := decide (m ≤ 2) || (decide (4 ≤ m) && decide (m ≤ 10)) || m == 14
      let v := match valueOf s decl imm i with
        | some v => v
        | none => if listed then otherAV ((usesOf i).src.map fun r => s.get r.toNat) else .any
      some ((dstCodes i).foldl (fun s r => s.write r v) s1)

end Sys2Proof.Machine
end

