-- ==== Sys2Proof/Machine/Glousk.lean ====
section
/-! DEFINITION. The translator Glousk: reaching every word (R428, R511), refusing (R432, R446), proving or checking every access
(R426, R430), inserting words (R431, R445), the manifest (R433), the address map (R458), sealing (R425, R434, R442). -/

namespace Sys2Proof.Machine

/-! ### Words with their hints (R88, R90) -/

/-- A word with the hints that govern it: first index, index of the word, payload, relaxed, repeat with count register and mask,
number of hints. -/
structure Grp where
  start : Nat
  ipc : Nat
  imm : Option (BitVec 22)
  rlx : Bool
  rep : Option (Nat × RCode × BitVec 3)
  hints : Nat
  deriving DecidableEq, Repr

/-- What stands at an index: an illegal word, the end of the code, a hint over a word that it may not govern, or a word. -/
inductive Parsed where
  | illegal (q : Nat)
  | off
  | stop (g : Grp) (i : Instr)
  | ok (g : Grp) (i : Instr) (w : Nat)

/-- The word at an index. -/
def codeAt (code : List (BitVec 32)) (p : Nat) : Option Nat := (code[p]?).map fun w => w.toNat

/-- A governed word read and checked against its hint. -/
def governed (code : List (BitVec 32)) (g : Grp) (h : Hint) : Parsed :=
  match codeAt code g.ipc with
  | none => .off
  | some w => match decodeWord w with
    | .error _ => .illegal g.ipc
    | .ok i =>
      if hintOk h i then .ok g i w else .stop g i

/-- The word that begins at an index, its hints included. -/
def groupAt (code : List (BitVec 32)) (p : Nat) : Parsed :=
  let g : Grp := { start := p, ipc := p, imm := none, rlx := false, rep := none, hints := 0 }
  match codeAt code p with
  | none => .off
  | some w => match decodeWord w with
    | .error _ => .illegal p
    | .ok (.immHi pl) => governed code { g with ipc := p + 1, imm := some pl, hints := 1 } (.immHi 0 pl)
    | .ok .ckpt => governed code { g with ipc := p + 1, hints := 1 } (.ckpt 0)
    | .ok (.rep n c m) => governed code { g with ipc := p + 1, rep := some (n.toNat + 1, c, m), hints := 1 } (.rep 0 false (n.toNat + 1) c m)
    | .ok .rlx =>
      match (codeAt code (p + 1)).map decodeWord with
      | some (.ok (.rep n c m)) =>
        governed code { g with ipc := p + 2, rlx := true, rep := some (n.toNat + 1, c, m), hints := 2 } (.rep 0 true (n.toNat + 1) c m)
      | _ => governed code { g with ipc := p + 1, rlx := true, hints := 1 } (.rlx 0)
    | .ok i => .ok g i w

/-! ### Kinds of strand and their roots (R428, R447) -/

/-- The kinds of strand that may reach a word: 0 anchored, 1 escapement processor, 8, 16 and 24 roaming with that carry. -/
def strandKinds : List Nat := [0, 1, 8, 16, 24]

/-- What an analysis rests on: the object, and the checks inserted so far by index. -/
structure Gx where
  o : PraowObject
  ins : List (Nat × Chk)

/-- The general registers of a kind. -/
def kindRegs (o : PraowObject) (k : Nat) : Nat := if k = 0 then o.shapeW else if k = 1 then 64 else k

/-- An issuer of a kind, for the legality of words; a stage in the middle of a cascade. -/
def ghost (o : PraowObject) (k : Nat) (rlx : Bool) : Iss :=
  { g := 0, sid := if k = 1 then 64 else 0,
    c := { Core.idle with stage := some { stage := 1, stages := 3, up := none, down := none, period := 0, pushes := 0, taken := 0, due := false, recs := [] } },
    t := { Strand.blank with
      roaming := decide (1 < k), carry := k, shapeW := o.shapeW, shapeV := if k = 0 then o.shapeV else 0,
      shapeD := if k = 0 then o.shapeD else 0, hint := if rlx then .rlx 0 else .none } }

/-- The state of a path that begins: every register one value, g0 another; at an export the stack below is another image's (R428, R511). -/
def rootState (n : Nat) (all g0 lr : AV) (root : Bool) : AState :=
  { regs := (List.replicate n all).set 0 g0, lr := lr, xs := List.replicate 8 all, preds := [], stack := [], root := root, pend := [], chks := [] }

/-- The address that g0 carries at entry. -/
def entryG0 (o : PraowObject) : AV := .addr o.argw { lo := some o.argoff, hi := some o.argoff, gs := [], arg := true } (some 0)

/-- The roots: the Praow entry, the movement entry, the exports (R428, R447). -/
def roots (o : PraowObject) : List (Nat × AState) :=
  let e := rootState o.shapeW .zero (entryG0 o) .zero true
  [(o.entry / 4 * 32, { e with regs := (e.regs.set 1 .any).set 2 .any })] ++
  (o.mentry.toList.map fun m => (m / 4 * 32 + 1, rootState 64 .zero (entryG0 o) .zero true)) ++
  o.ports.map fun p => (p / 4 * 32, rootState o.shapeW .any .any (.ret [] true) false)

/-! ### One word of a path -/

/-- An access as one path makes it. -/
structure Acc where
  ipc : Nat
  start : Nat
  idx : Nat
  ref : ARef
  v : AV
  rep : Bool
  chks : List Chk
  deriving DecidableEq, Repr

/-- What analysing a word gives: where paths go on, the states between its repeats, refusals by code and index, accesses, whether it is a linkage call. -/
structure Res where
  outs : List (Nat × AState) := []
  mids : List AState := []
  errs : List (Nat × Nat) := []
  accs : List Acc := []
  guard : Bool := false

/-- Two results together. -/
def Res.and (a b : Res) : Res := { outs := a.outs ++ b.outs, mids := a.mids ++ b.mids, errs := a.errs ++ b.errs, accs := a.accs ++ b.accs, guard := a.guard || b.guard }

/-- A refusal. -/
def refusedAt (code p : Nat) : Res := { errs := [(code, p)] }

/-- A path that goes on at a word, unless that leaves the code. -/
def goTo (x : Gx) (kind ipc : Nat) (q : Int) (s : AState) : Res :=
  if 0 ≤ q ∧ q < x.o.code.length then { outs := [(q.toNat * 32 + kind, s)] } else refusedAt 3 ipc

/-- The mins that the object declares (R426). -/
def objMin (o : PraowObject) (n : Nat) : Nat := bits (o.decl.getD n 0) 0 30

/-- The value of the immediate of an I-form word (R88, R97). -/
def immOf (g : Grp) (i : Instr) : Int :=
  let v (b : BitVec 12) : Int :=
    match g.imm with
    | some p => ((p ++ b).signExtend 64).toInt
    | none => b.toInt
  match i with
  | .addi _ _ b => v b
  | .andi _ _ b => v b
  | .ori _ _ b => v b
  | .xori _ _ b => v b
  | .slti _ _ b => v b
  | .sltni _ _ b => v b
  | _ => 0

/-- The accesses of a word on a path; a base that may be no address is refused with 0x04 (R429, R432). -/
def accessesOf (g : Grp) (s : AState) (rep : Bool) (i : Instr) : Res :=
  let one (p : ARef × Nat) : Res :=
    let v := if p.1.isX then s.xs.getD p.1.reg .top else s.get p.1.reg
    match v with
    | .addr _ _ _ => { accs := [{ ipc := g.ipc, start := g.start, idx := p.2, ref := p.1, v := v, rep := rep, chks := s.chks }] }
    | _ => refusedAt 4 g.ipc
  let l := ((refsOf i).zipIdx.map one).foldl Res.and {}
  match i with
  | .vmovx _ a => match s.get a.toNat with
    | .addr _ _ _ => l
    | _ => l.and (refusedAt 4 g.ipc)
  | _ => l

/-- Whether a word ends its path by a fault that is no ground for a refusal: a window-stack word that the strand's kind or its registers do not
allow, `mx.issue` in a roaming strand (R113, R252, R432). -/
def endsPath (x : Gx) (kind : Nat) (i : Instr) : Bool :=
  (decide (1 < kind) && anchoredOnly i) || (kind != 1 && match i with
    | .enter k => decide (kindRegs x.o kind < 8 + frameK k)
    | .leave k => decide (kindRegs x.o kind < 8 + frameK k)
    | _ => false)

/-- Whether a word raises the illegal-instruction fault under R34, R77 or R282; of a word that a roaming strand does not execute for another
reason only its fields and registers count (R432). -/
def illegalAt (x : Gx) (kind : Nat) (rlx : Bool) (i : Instr) : Bool :=
  let t := ghost x.o kind rlx
  if 1 < kind ∧ anchoredOnly i = true then
    !(i.wf && (usesOf i).src.all t.codeOk && (usesOf i).dst.all t.codeOk && (usesOf i).vs.all (t.vecOk false))
  else !legalFor t i

/-- The refusal of a word that is illegal for its registers, also where its hint raises the fault (R34, R432). -/
def illegalError (x : Gx) (kind : Nat) (g : Grp) (i : Instr) : List (Nat × Nat) := if illegalAt x kind g.rlx i then [(2, g.ipc)] else []

/-- Refusals of a word for its registers, for rills inside windows, and for migration inside windows (R328, R371, R372). No field of an
object says that it is a cascade's: the checks of R328 meet every object (DESIGN CHOICE, log entry 99). -/
def wordErrors (x : Gx) (kind : Nat) (g : Grp) (s : AState) (i : Instr) : List (Nat × Nat) :=
  let u := usesOf i
  let outPends := s.pend.any fun p => p.dst.contains 122
  let m := majorOf i
  let moves := (decide (20 ≤ m) && decide (m ≤ 25)) || match i with
    | .barArrive _ _ => true
    | .barWait _ _ => true
    | .join _ => true
    | _ => false
  illegalError x kind g i ++
  (if 2 ≤ u.src.count 121 ∨ (121 ∈ u.src ∧ outPends = true) ∨ ((laOf i).isSome = true ∧ 122 ∈ u.dst ∧ outPends = true) then [(7, g.ipc)] else []) ++
  (if 1 < kind ∧ moves = true ∧ s.pend ≠ [] then [(8, g.ipc)] else [])

/-- A path that goes on where a return value leads; out of the image no lookahead window may be open (R112, R431, R432). -/
def jumpBack (x : Gx) (kind ipc : Nat) (v : AV) (s : AState) : Res :=
  match v with
  | .ret sites ext =>
    (sites.map fun (q : Nat) => goTo x kind ipc (q : Int) s).foldl Res.and (if ext ∧ s.pend ≠ [] then refusedAt 6 ipc else {})
  | _ => refusedAt 3 ipc

/-- What is known of a predicate. -/
def factOf (s : AState) (p : Nat) : Option PFact := if p = 0 then some (.known true) else kget? s.preds p

/-- The path on which a predicate has a value. -/
def onPred (s : AState) (p : Nat) (b : Bool) : Option AState :=
  let s1 := match factOf s p with
    | none => some s
    | some f => s.assume f b
  s1.map fun s => if p = 0 then s else { s with preds := kset s.preds p (.known b) }

/-- A path that may not be taken. -/
def goSome (x : Gx) (kind ipc : Nat) (q : Int) (s : Option AState) : Res :=
  match s with
  | none => {}
  | some s => goTo x kind ipc q s

/-- The fact that a compare leaves: its truth where the intervals decide it, else the compare (R428). -/
def AState.decided (s : AState) (f : PFact) : PFact :=
  match s.assume f true, s.assume f false with
  | some _, none => .known true
  | none, some _ => .known false
  | _, _ => f

/-- A compare: its predicate takes a fact; with a skip, one path annuls the words after it (R86, R87, R428). -/
def compareAt (x : Gx) (kind ipc : Nat) (s : AState) (f : PFact) (p sk : Nat) (sense : Bool) : Res :=
  let hold (s : AState) (b : Bool) : AState := if p = 0 then s else { s with preds := kset s.preds p (.known b) }
  if sk = 0 then goTo x kind ipc (ipc + 1) (if p = 0 then s else { s with preds := kset s.preds p (s.decided f) })
  else
    (goSome x kind ipc (ipc + 1) ((s.assume f !sense).map fun s => hold s !sense)).and
      (goSome x kind ipc (ipc + 1 + sk) ((s.assume f sense).map fun s => (hold s sense).counts sk))

/-- A child of a fork: its kind, its first word, g0 from the parent (R117, R428). -/
def childOf (x : Gx) (kind ipc : Nat) (o : BitVec 7) (a : RCode) (s : AState) : Res :=
  goTo x kind ipc (ipc + o.toInt) (rootState (kindRegs x.o kind) .zero (s.get a.toNat) .zero true)

/-- The state after a linkage call: nothing is known of any register (R446, R447). -/
def afterLink (s : AState) : AState :=
  { s with regs := s.regs.map fun _ => .any, lr := .any, xs := s.xs.map fun _ => .any, preds := [], chks := [] }

/-- A linkage call: refused without a link descriptor, from the movement program, or with a d field other than `lr` (R431, R445,
R446). -/
def linkCall (x : Gx) (kind ipc : Nat) (d : RCode) (s : AState) : Res :=
  if x.o.link.isNone || kind == 1 || d != 123 then refusedAt 3 ipc
  else
    let r := goTo x kind ipc (ipc + 1) (afterLink s)
    { r with guard := true, errs := r.errs ++ if s.pend = [] then [] else [(6, ipc)] }

/-- The words that end a path, and where the others go on. -/
def flowOf (x : Gx) (kind : Nat) (g : Grp) (s : AState) (i : Instr) : Res :=
  let ipc := g.ipc
  let next (k : Nat) : Res := match wordEffect s (objMin x.o) (immOf g i) i with
    | none => {}
    | some s => goTo x k ipc (ipc + 1) s
  let branch (p : BitVec 5) (o : BitVec 20) (b : Bool) : Res :=
    (goSome x kind ipc (ipc + o.toInt) (onPred s p.toNat b)).and (goSome x kind ipc (ipc + 1) (onPred s p.toNat !b))
  match i with
  | .br o => goTo x kind ipc (ipc + o.toInt) s
  | .call o => goTo x kind ipc (ipc + o.toInt) (s.write 123 (.ret [ipc + 1] false))
  | .bp p o => branch p o true
  | .bpn p o => branch p o false
  | .jr a => jumpBack x kind ipc (s.get a.toNat) s
  | .ret => jumpBack x kind ipc s.lr s
  | .jalr d a => match s.get a.toNat with
    | .ret l e => jumpBack x kind ipc (.ret l e) (s.write d.toNat (.ret [ipc + 1] false))
    | .lost => refusedAt 3 ipc
    | _ => linkCall x kind ipc d s
  | .fork _ a o => (childOf x kind ipc o a s).and (next kind)
  | .forkRCarry8 _ a o => (childOf x 8 ipc o a s).and (next kind)
  | .forkRCarry16 _ a o => (childOf x 16 ipc o a s).and (next kind)
  | .forkRCarry24 _ a o => (childOf x 24 ipc o a s).and (next kind)
  | .exit _ => {}
  | .trap _ _ => {}
  | .cpHalt => {}
  | .cmp a b c p sk e => compareAt x kind ipc s (.cmp c.toNat (.reg a.toNat) (.reg b.toNat) ipc) p.toNat sk.toNat (e == 1)
  | .cmpi a v c p sk e => compareAt x kind ipc s (.cmp c.toNat (.reg a.toNat) (.val (.int (Iv.one v.toInt))) ipc) p.toNat sk.toNat (e == 1)
  | _ => next kind

/-- A word that no repeat governs. -/
def plainAt (x : Gx) (kind : Nat) (g : Grp) (s : AState) (i : Instr) : Res :=
  let e := wordErrors x kind g s i
  if e.any fun p => p.1 == 2 then { errs := e }
  else if endsPath x kind i then { errs := e }
  else ({ errs := e } : Res).and ((accessesOf g s false i).and (flowOf x kind g s i))

/-- What is carried through the repeats of a word. -/
structure RepAcc where
  cur : Option AState
  res : Res

/-- One path or two. -/
def joinOpt (a b : Option AState) : Option AState :=
  match a, b with
  | some a, some b => some (a.join b)
  | some a, none => some a
  | none, b => b

/-- Whether a step mask selects a field that a word does not step (R90, R252). -/
def stepsNothing (ins : Instr) (m : BitVec 3) (i : Int) : Bool :=
  stepsMeta ins m i || (stepPlaces ins).zipIdx.any fun p => p.1.isNone && bit1 m (2 - p.2)

/-- One repeat: i of n, entered with the count n - i. A word that is illegal under R34 or R77, stepped where its fields allow it, is refused
with 0x02; a field that the word lacks, or a write of the count register, ends the path by the fault of R90 (R34, R90, R432). -/
def repeatAt (x : Gx) (kind : Nat) (g : Grp) (ins : Instr) (w n : Nat) (c : RCode) (m : BitVec 3) (entry : Nat → Option AState)
    (acc : RepAcc) (i : Nat) : RepAcc :=
  match joinOpt acc.cur (entry (n - i)) with
  | none => { acc with cur := none }
  | some s =>
    let s := (s.put c.toNat (.int (Iv.one ((n : Int) - i)))).count
    match stepWord ins w m i with
    | none => { cur := none, res := acc.res.and (if stepsNothing ins m i then { errs := illegalError x kind g ins } else refusedAt 2 g.ipc) }
    | some j =>
      if writesReg j c then { cur := none, res := acc.res.and { errs := illegalError x kind g j } }
      else
        let e := wordErrors x kind g s j
        if e.any (fun p => p.1 == 2) || endsPath x kind j then { cur := none, res := acc.res.and { errs := e } }
        else
          let next := (wordEffect s (objMin x.o) (immOf g j) j).map fun s => s.write c.toNat (.int (Iv.one ((n : Int) - i - 1)))
          { cur := next, res := acc.res.and (({ errs := e, mids := next.toList } : Res).and (accessesOf g s true j)) }

/-- The numbers that a count register may hold at a prefix, between 0 and n. -/
def countRange (v : AV) (n : Nat) : Nat × Nat :=
  match v with
  | .int i =>
    ((match i.lo with
      | some a => (max a 0).toNat
      | none => 0), match i.hi with
      | some b => min b.toNat n
      | none => n)
  | _ => (0, n)

/-- A repeated word, repeat by repeat (R90, R428). -/
def repeated (x : Gx) (kind : Nat) (g : Grp) (s : AState) (ins : Instr) (w n : Nat) (c : RCode) (m : BitVec 3) : Res :=
  if legalFor (ghost x.o kind false) (.rep (BitVec.ofNat 6 (n - 1)) c m) = false then refusedAt 2 g.start
  else if c = 121 ∨ c = 122 then { errs := illegalError x kind g ins }
  else
    let r := countRange (if c = 120 then .zero else s.get c.toNat) n
    let entry (k : Nat) : Option AState := if r.1 ≤ k ∧ k ≤ r.2 then some (s.write c.toNat (.int (Iv.one k))) else none
    let a := (List.range n).foldl (repeatAt x kind g ins w n c m entry) { cur := none, res := {} }
    a.res.and (goSome x kind g.ipc (g.ipc + 1) (joinOpt a.cur (entry 0)))

/-- A word under a hint that may not govern it: the hint's fault ends the path, but a register that the strand may not name is refused, and a
linkage call under a repeat (R34, R89, R90, R446). -/
def stoppedAt (x : Gx) (kind : Nat) (g : Grp) (s : AState) (i : Instr) : Res :=
  let e : Res := { errs := illegalError x kind g i }
  match i with
  | .jalr d a =>
    if g.rep.isNone then e else match (s.counts (g.hints + 1)).get a.toNat with
    | .ret _ _ => e
    | .lost => e.and (refusedAt 3 g.ipc)
    | _ => e.and (refusedAt (if x.o.link.isNone || kind == 1 || d != 123 then 3 else 5) g.ipc)
  | _ => e

/-- A word of a path: an inserted check first, which no lookahead window counts, since Glousk raises the lookahead by it; then its hints,
then the word. A linkage call under a repeat is refused (R428, R430, R431, R446). -/
def evalAt (x : Gx) (p kind : Nat) (s : AState) : Res :=
  match groupAt x.o.code p with
  | .illegal q => refusedAt 2 q
  | .off => refusedAt 3 p
  | .stop g i => stoppedAt x kind g s i
  | .ok g i w =>
    let s1 := match x.ins.find? fun c => c.1 == p with
      | some c => { s with chks := addChk s.chks c.2 }
      | none => s
    let s2 := s1.counts g.hints
    match g.rep with
    | none => plainAt x kind g s2.count i
    | some (n, c, m) => repeated x kind g s2 i w n c m

/-! ### All paths (R428) -/

/-- The states that go on from each word, by word and kind; the narrowed states of loop heads; whether the passes ended. -/
structure Eng where
  outs : KMap (List (Nat × AState))
  heads : KMap AState
  ok : Bool

/-- The join of all states that reach a word. -/
def Eng.inState (e : Eng) (o : PraowObject) (key : Nat) : Option AState :=
  let pick (l : List (Nat × AState)) (a : Option AState) : Option AState :=
    l.foldl (fun a q => if q.1 = key then joinOpt a (some q.2) else a) a
  e.outs.foldl (fun a p => pick p.2 a) (pick (roots o) none)

/-- A path added to those that reach a word: joined to one of the same kinds of values; beyond 64, all are joined. -/
def addPath (l : List AState) (s : AState) : List AState :=
  let r := if l.any (·.alike s) then l.map fun t => if t.alike s then t.join s else t else l ++ [s]
  if r.length ≤ 64 then r else match r with
    | [] => []
    | a :: t => [t.foldl AState.join a]

/-- Whether the word before an index is a call, so that its paths join there. -/
def returnSite (o : PraowObject) (p : Nat) : Bool :=
  decide (0 < p) && match (codeAt o.code (p - 1)).map decodeWord with
    | some (.ok (.call _)) => true
    | some (.ok (.jalr _ _)) => true
    | _ => false

/-- The paths that reach a word, kept apart where a join would lose a kind of value, so that conditions on a path still tell
them apart (R428). -/
def Eng.paths (e : Eng) (o : PraowObject) (key : Nat) : List AState :=
  if returnSite o (key / 32) then (e.inState o key).toList
  else
    let pick (l : List (Nat × AState)) (a : List AState) : List AState := l.foldl (fun a q => if q.1 = key then addPath a q.2 else a) a
    e.outs.foldl (fun a p => pick p.2 a) (pick (roots o) [])

/-- The states that reach an index, by kind. -/
def Eng.inStates (e : Eng) (o : PraowObject) (p : Nat) : KMap AState :=
  strandKinds.filterMap fun k => (e.inState o (p * 32 + k)).map fun s => (k, s)

/-- A word analysed anew from the given states. -/
def evalFrom (x : Gx) (e : Eng) (p : Nat) (l : KMap (List AState)) : Eng :=
  strandKinds.foldl (fun e k => match kget l k [] with
    | [] => { e with outs := kdel e.outs (p * 32 + k) }
    | ss => { e with outs := kset e.outs (p * 32 + k) (ss.flatMap fun s => (evalAt x p k s).outs) }) e

/-- A word analysed anew from the paths that reach it. -/
def evalPaths (x : Gx) (e : Eng) (p : Nat) : Eng := evalFrom x e p (strandKinds.map fun k => (k, e.paths x.o (p * 32 + k)))

/-- A loop head analysed anew from one state of each kind. -/
def evalHead (x : Gx) (e : Eng) (p : Nat) (l : KMap AState) : Eng := evalFrom x e p (l.map fun q => (q.1, [q.2]))

/-- Whether the states at a loop head have not changed. -/
def stableAt (cur new : KMap AState) : Bool :=
  new.all fun p => match kget? cur p.1 with
    | none => false
    | some c => c.join p.2 == c

/-- The states at a loop head widened (R428). -/
def widenAt (cur new : KMap AState) : KMap AState :=
  new.map fun p => (p.1, match kget? cur p.1 with
    | none => p.2
    | some c => c.widen (c.join p.2))

/-- What is to be done next: a run of words in order, or a loop from its head to its last word. -/
inductive Mode where
  | sweep (p hi : Nat)
  | loop (h e : Nat) (cur : KMap AState)

/-- The passes: words in order, each loop stabilised from the values that enter it, widened at every pass and narrowed once
(R428). -/
def passes (x : Gx) (heads : KMap Nat) : Nat → Mode → Eng → Eng
  | 0, _, e => { e with ok := false }
  | f + 1, .sweep p hi, e =>
    if hi < p then e
    else match kget? heads p with
    | none => passes x heads f (.sweep (p + 1) hi) (evalPaths x e p)
    | some last =>
      let e0 := { e with outs := e.outs.filter fun q => decide (q.1 / 32 < p) || decide (last < q.1 / 32) }
      passes x heads f (.sweep (last + 1) hi) (passes x heads f (.loop p last (e0.inStates x.o p)) e0)
  | f + 1, .loop h last cur, e =>
    let e1 := passes x heads f (.sweep (h + 1) last) (evalHead x e h cur)
    let new := e1.inStates x.o h
    if stableAt cur new then
      let e2 := evalHead x { e1 with heads := new.foldl (fun m p => kset m (h * 32 + p.1) p.2) e1.heads } h new
      passes x heads f (.sweep (h + 1) last) e2
    else passes x heads f (.loop h last (widenAt cur new)) e1

/-- The loop heads that the found paths show, each with the last word from which a path goes back to it. -/
def headsOf (e : Eng) : KMap Nat :=
  e.outs.foldl (fun m p => p.2.foldl (fun m q =>
    if q.1 / 32 ≤ p.1 / 32 then kset m (q.1 / 32) (max (kget m (q.1 / 32) 0) (p.1 / 32)) else m) m) []

/-- Loops that begin inside a loop end inside it. -/
def nestEnds (m : KMap Nat) : KMap Nat :=
  (List.range (m.length + 1)).foldl (fun m _ =>
    m.map fun p => (p.1, m.foldl (fun e q => if p.1 ≤ q.1 ∧ q.1 ≤ e then max e q.2 else e) p.2)) m

/-- Two sets of loop heads together. -/
def mergeHeads (a b : KMap Nat) : KMap Nat := nestEnds (b.foldl (fun m p => kset m p.1 (max (kget m p.1 0) p.2)) a)

/-- The analysis, begun anew until it knows every loop. -/
def analyse (x : Gx) : Nat → KMap Nat → Eng
  | 0, _ => { outs := [], heads := [], ok := false }
  | f + 1, heads =>
    let e := passes x heads (2 ^ 40) (.sweep 0 (x.o.code.length - 1)) { outs := [], heads := [], ok := true }
    let h := mergeHeads heads (headsOf e)
    if h = heads then e else analyse x f h

/-- The state at a word and kind: the join of all paths (R428). -/
def Eng.at (e : Eng) (o : PraowObject) (key : Nat) : Option AState :=
  match kget? e.heads key with
  | some s => some s
  | none => e.inState o key

/-- The words reached, with kind and state. -/
def reached (x : Gx) (e : Eng) : List (Nat × Nat × AState) :=
  (List.range x.o.code.length).flatMap fun p => strandKinds.filterMap fun k => (e.at x.o (p * 32 + k)).map fun s => (p, k, s)

/-- The states of the paths that reach a word. -/
def pathsAt (x : Gx) (e : Eng) (key : Nat) : List AState :=
  match kget? e.heads key with
  | some s => [s]
  | none => e.paths x.o key

/-- All results of the words reached: accesses and refusals of their bases by the values at the word, the other refusals on each
path. -/
def collect (x : Gx) (e : Eng) : Res :=
  ((reached x e).map fun r =>
    let a := evalAt x r.1 r.2.1 r.2.2
    { a with
        outs := []
        errs := a.errs.filter (fun c => c.1 == 4) ++ ((pathsAt x e (r.1 * 32 + r.2.1)).flatMap fun s => (evalAt x r.1 r.2.1 s).errs).filter fun c => c.1 != 4 }).foldl
    Res.and {}

/-- The indices that a word goes on to. -/
def succs (e : Eng) (p : Nat) : List Nat :=
  sortNat (strandKinds.flatMap fun k => ((kget? e.outs (p * 32 + k)).getD []).map fun q => q.1 / 32)

/-- The indices of the words that go on to a word; a root counts as coming from nowhere. -/
def predsOf (x : Gx) (e : Eng) (p : Nat) : List Nat :=
  sortNat ((e.outs.filter fun q => q.2.any fun t => t.1 / 32 == p).map fun q => q.1 / 32) ++
  if (roots x.o).any fun r => r.1 / 32 == p then [x.o.code.length] else []

/-- Whether a word lies on a cycle of paths. -/
def onCycle (x : Gx) (e : Eng) (p : Nat) : Bool :=
  let grow (l : List Nat) : List Nat := l.foldl (fun a q => unionN a (succs e q)) l
  ((List.range x.o.code.length).foldl (fun l _ => grow l) (succs e p)).contains p

/-! ### Declarations and proof (R426, R430) -/

/-- A declaration of a window as it stands: access and min. -/
abbrev Wd := Nat × Nat

/-- The declaration of a window, completed from the accesses if the object leaves it 0 (R426). -/
def completed (o : PraowObject) (accs : List Acc) (n : Nat) : Wd :=
  let d := o.decl.getD n 0
  if d ≠ 0 then (bits d 30 2, bits d 0 30)
  else accs.foldl (fun w a => match a.v with
    | .addr m i _ =>
      match i.lo, i.hi with
      | some _, some h =>
        if m = n ∧ 0 ≤ h + a.ref.fin ∧ h + a.ref.fin ≤ 2 ^ 30 - 1 then (w.1 ||| a.ref.dir, max w.2 (h + a.ref.fin).toNat) else w
      | _, _ => w
    | _ => w) (0, 0)

/-- How an access is proven: by its interval (with the compares that narrowed it), or by a check; or not (R430). -/
inductive Proof where
  | interval (gs : List Nat)
  | covered
  | open
  deriving DecidableEq, Repr

/-- The proof of an access (R430). -/
def proofOf (decl : Nat → Wd) (a : Acc) : Proof :=
  match a.v with
  | .addr n i _ =>
    let byInterval := match i.lo, i.hi with
      | some l, some h => decide (0 ≤ l + a.ref.off) && decide (h + a.ref.fin ≤ (decl n).2) && (decl n).1 &&& a.ref.dir == a.ref.dir
      | _, _ => false
    if byInterval then .interval i.gs
    else if !a.ref.isX && a.chks.any (fun c => c.win == n && c.reg == a.ref.reg && c.dir &&& a.ref.dir == a.ref.dir &&
        decide (0 ≤ a.ref.off) && decide (a.ref.fin ≤ c.len)) then .covered
    else .open
  | _ => .open

/-- The accesses of a word's operand on all paths. -/
def instances (accs : List Acc) (a : Acc) : List Acc := accs.filter fun b => b.ipc == a.ipc && b.idx == a.idx

/-- The index before which the check of an access stands: its word's, or that of a hint that governs the word on some path (R430). -/
def checkPlace (accs : List Acc) (a : Acc) : Nat := (instances accs a).foldl (fun p b => min p b.start) a.start

/-- The window of an access. -/
def Acc.win (a : Acc) : Nat := match a.v with
  | .addr n _ _ => n
  | _ => 16

/-- Whether an unproven access can be checked: offset 0, a general register, one window, no repeat (R430, R432). -/
def checkable (accs : List Acc) (a : Acc) : Bool :=
  (instances accs a).all fun b => b.ref.off == 0 && !b.ref.isX && !b.rep && b.win == a.win && (decide (b.ref.reg < 120) || b.ref.reg == 123)

/-- Whether the word of a group writes a register at once, or counts it down; a long-latency word writes it when its window closes. -/
def writesAt (g : Grp) (i : Instr) (w reg : Nat) : Bool :=
  match g.rep with
  | none => (laOf i).isNone && (dstCodes i).contains reg
  | some (n, c, m) => c.toNat == reg || (List.range n).any fun k => ((stepWord i w m k).map fun j => (dstCodes j).contains reg).getD false

/-- Whether a lookahead window that names a register closes before or in the word at an index. -/
def closesAt (x : Gx) (e : Eng) (reg q : Nat) : Bool :=
  match groupAt x.o.code q with
  | .ok g _ _ =>
    let n := g.hints + (g.rep.map fun r => r.1).getD 1
    strandKinds.any fun k => ((e.at x.o (q * 32 + k)).map fun s => s.pend.any fun d => d.dst.contains reg && decide (d.rem ≤ n)).getD false
  | _ => false

/-- Whether a word restores a register from the window stack (R113). -/
def restores (i : Instr) (reg : Nat) : Bool :=
  match i with
  | .leave k => reg == 123 || (decide (8 ≤ reg) && decide (reg < 8 + frameK k))
  | _ => false

/-- Where a word's child begins, if it is a fork (R117). -/
def childAt (ipc : Nat) (i : Instr) : Option Int :=
  match i with
  | .fork _ _ o => some (ipc + o.toInt)
  | .forkRCarry8 _ _ o => some (ipc + o.toInt)
  | .forkRCarry16 _ _ o => some (ipc + o.toInt)
  | .forkRCarry24 _ _ o => some (ipc + o.toInt)
  | _ => none

/-- Whether a path goes on from a group to the word behind it and nowhere else, the child of a fork aside, which is another strand. -/
def goesOn (e : Eng) (g : Grp) (i : Instr) : Bool :=
  let q := g.ipc + 1
  childAt g.ipc i != some (q : Int) && (succs e g.start).contains q && (succs e g.start).all fun t => t == q || childAt g.ipc i == some (t : Int)

/-- The words of a straight-line run that follows a word and leaves a register unchanged (R430). -/
def runFrom (x : Gx) (e : Eng) (reg : Nat) : Nat → Nat → List Nat
  | 0, _ => []
  | f + 1, p =>
    match groupAt x.o.code p with
    | .ok g i w =>
      let q := g.ipc + 1
      if writesAt g i w reg || restores i reg || closesAt x e reg q || !goesOn e g i || predsOf x e q != [p] then [] else q :: runFrom x e reg f q
    | _ => []

/-- Whether accesses cover every byte below n. -/
def coversAll (l : List ARef) (n : Nat) : Bool :=
  (List.range n).all fun b => l.any fun r => decide (r.off ≤ b) && decide ((b : Int) < r.fin)

/-- The check for an unproven access: the longest whose farthest covered span ends at its length and whose every byte a covered
access touches; its direction is that of all of them (R430). -/
def chooseCheck (x : Gx) (e : Eng) (accs : List Acc) (a : Acc) : Option Chk :=
  let later := runFrom x e a.ref.reg x.o.code.length (checkPlace accs a)
  let here (b : Acc) : Bool := !b.ref.isX && b.ref.reg == a.ref.reg && b.win == a.win && decide (0 ≤ b.ref.off)
  let l := a.ref :: (accs.filter fun b => later.contains b.start && (instances accs b).all here).map fun b => b.ref
  ((List.range 10).reverse.find? fun c =>
    let n : Nat := 2 ^ c
    let cov := l.filter fun r => decide (r.fin ≤ (n : Int))
    decide (a.ref.fin ≤ (n : Int)) && cov.any (fun r => r.fin == (n : Int)) && coversAll cov n).map fun c =>
    { win := a.win, reg := a.ref.reg, dir := (l.filter fun r => decide (r.fin ≤ 2 ^ c)).foldl (fun d r => d ||| r.dir) 0, len := 2 ^ c }

/-- What the analysis ends in: the checks it inserted, the states, the accesses and the faults found. -/
structure Facts where
  x : Gx
  e : Eng
  r : Res

/-- The first word at fault, with the first row of R432 that applies to it. -/
def firstError (l : List (Nat × Nat)) : Option (Nat × Nat) :=
  match l with
  | [] => none
  | a :: r => some (r.foldl (fun b c => if c.2 < b.2 ∨ (c.2 = b.2 ∧ c.1 < b.1) then c else b) a)

/-- The accesses in the order of their words. -/
def inOrder (l : List Acc) (n : Nat) : List Acc := (List.range n).flatMap fun p => l.filter fun a => a.ipc == p

/-- Checks inserted one by one until every access is proven; accesses that cannot be checked are at fault (R430, R432). -/
def settle (o : PraowObject) : Nat → List (Nat × Chk) → List Acc → Facts
  | 0, ins, _ => { x := { o := o, ins := ins }, e := { outs := [], heads := [], ok := false }, r := refusedAt 5 0 }
  | f + 1, ins, bad =>
    let x : Gx := { o := o, ins := ins }
    let e := analyse x (o.code.length * o.code.length + 2) []
    let r := collect x e
    let accs := inOrder r.accs o.code.length
    let failed (a : Acc) : Bool := bad.any fun b => b.ipc == a.ipc && b.idx == a.idx
    match accs.find? fun a => proofOf (completed o accs) a == .open && !failed a &&
        !(ins.any fun c => c.1 == checkPlace accs a && checkable accs a && a.chks.any fun d => d.covers c.2) with
    | none => { x := x, e := e, r := { r with errs := r.errs ++ bad.map fun a => (5, a.ipc) } }
    | some a =>
      let place := checkPlace accs a
      if !checkable accs a || ins.any (fun c => c.1 == place) then settle o f ins (a :: bad)
      else match chooseCheck x e accs a with
      | none => settle o f ins (a :: bad)
      | some c => settle o f (ins ++ [(place, c)]) bad

/-! ### Inserted words (R431, R445) -/

/-- The index of the word that a group governs. -/
def governedAt (x : Gx) (p : Nat) : Nat :=
  match groupAt x.o.code p with
  | .ok g _ _ => g.ipc
  | _ => p

/-- The indices directly before which a linkage call's guard stands, behind a hint that governs the call (R445, R446). -/
def guardsOf (x : Gx) (e : Eng) : List Nat := sortNat (((reached x e).filter fun r => (evalAt x r.1 r.2.1 r.2.2).guard).map fun r => governedAt x r.1)

/-- The words inserted before each index. -/
structure Lay where
  chks : List (Nat × Chk)
  guards : List Nat

/-- The number of words inserted directly before an index. -/
def Lay.at (l : Lay) (p : Nat) : Nat := (if l.chks.any fun c => c.1 == p then 1 else 0) + if l.guards.contains p then 5 else 0

/-- The sealed index at which the words inserted before a Praow word begin. -/
def Lay.to (l : Lay) (q : Nat) : Nat := q + ((List.range q).map l.at).sum

/-- The sealed index of a Praow word (R433, R446). -/
def Lay.of (l : Lay) (q : Nat) : Nat := l.to q + l.at q

/-- A word of a check. -/
def chkBits (c : Chk) : Option Nat :=
  let n := BitVec.ofNat 4 c.win
  let a := BitVec.ofNat 7 c.reg
  let k := BitVec.ofNat 4 c.len.log2
  encode (if c.dir = 1 then .chkR n a k else if c.dir = 2 then .chkW n a k else .chkRw n a k)

/-- The guard of a linkage call through ga in a domain of 2^m landings (R445). -/
def guardWords (dom m : Nat) (a : RCode) : List (Option Nat) :=
  let c := 0x1FA00000 + dom
  [encode (.andi 123 a (BitVec.ofNat 12 (4 * (2 ^ m - 1)))), encode (.rori 123 123 11), encode (.immHi (BitVec.ofNat 22 (c / 4096))),
   encode (.ori 123 123 (BitVec.ofNat 12 c)), encode (.rori 123 123 53)]

/-- How often the word of a group may be issued: once, or as often as its count register may say (R90, R431). -/
def repCounts (x : Gx) (e : Eng) (g : Grp) : List Nat :=
  match g.rep with
  | none => [1]
  | some (n, c, _) =>
    let counts (s : AState) : List Nat :=
      let r := countRange (if c = 120 then .zero else (s.counts g.hints).get c.toNat) n
      (List.range (n + 1)).filter fun k => decide (r.1 ≤ k) && decide (k ≤ r.2)
    sortNat (strandKinds.flatMap fun k => (pathsAt x e (g.start * 32 + k)).flatMap counts)

/-- The numbers of inserted words that paths of k more words from an index pass, or pass before they end. `an`: words that an
annulment consumes (R431). -/
def inserted (x : Gx) (e : Eng) (l : Lay) : Nat → Nat → Nat → Nat → List Nat
  | 0, _, _, _ => [0]
  | f + 1, q, an, k =>
    if k = 0 then [0]
    else if 0 < an then (inserted x e l f (q + 1) (an - 1) (k - 1)).map (· + l.at q)
    else match groupAt x.o.code q with
    | .ok g i _ =>
      let sk := match i with
        | .cmp _ _ _ _ s _ => s.toNat
        | .cmpi _ _ _ _ s _ => s.toNat
        | _ => 0
      let used := (repCounts x e g).map fun r => g.hints + r
      let here := l.at q + if g.ipc ≠ q ∧ g.hints < k then l.at g.ipc else 0
      sortNat (used.flatMap fun u =>
        if k ≤ u ∨ succs e q = [] then [here]
        else (succs e q).flatMap fun t =>
          (if 0 < sk ∧ t = g.ipc + 1 + sk then inserted x e l f (g.ipc + 1) sk (k - u) else inserted x e l f t 0 (k - u)).map (· + here))
    | _ => [l.at q]

/-- The numbers of words inserted inside the window of the long-latency word of a group. -/
def windowInserts (x : Gx) (e : Eng) (l : Lay) (g : Grp) (k : Nat) : List Nat :=
  let reps := List.range ((repCounts x e g).foldl max 0)
  sortNat (reps.flatMap fun r => if k ≤ r ∨ succs e g.start = [] then [0] else (succs e g.start).flatMap fun t => inserted x e l 32 t 0 (k - r))

/-- A signed offset that fits a field. -/
def fitsField (v : Int) (len : Nat) : Bool := decide (-(2 : Int) ^ (len - 1) ≤ v) && decide (v < (2 : Int) ^ (len - 1))

/-- A rewritten word, or a refusal with 0x06. -/
abbrev Rew := Option Instr

/-- An offset rewritten to keep its target. -/
def reOffset (x : Gx) (l : Lay) (q : Nat) (o : Int) (len : Nat) (mk : BitVec len → Instr) (i : Instr) : Rew :=
  let t : Int := q + o
  if t < 0 ∨ (x.o.code.length : Int) ≤ t then some i
  else
    let v : Int := (l.to t.toNat : Int) - l.of q
    if fitsField v len then some (mk (BitVec.ofInt len v)) else none

/-- A skip raised by the words inserted inside its span (R431). -/
def reSkip (l : Lay) (q sk : Nat) : Option (BitVec 2) :=
  let n := sk + ((List.range sk).map fun j => l.at (q + 1 + j)).sum
  if sk = 0 then some 0 else if n ≤ 3 then some (BitVec.ofNat 2 n) else none

/-- The word at an index rewritten: branches, lookaheads, skips, linkage calls (R431, R445). -/
def rewrite (x : Gx) (e : Eng) (l : Lay) (q : Nat) (i : Instr) : Rew :=
  let gs := (List.range x.o.code.length).filterMap fun p =>
    if (strandKinds.any fun k => (e.at x.o (p * 32 + k)).isSome) then match groupAt x.o.code p with
      | .ok g _ _ => if g.ipc = q then some g else none
      | _ => none
    else none
  match i with
  | .br o => reOffset x l q o.toInt 26 .br i
  | .call o => reOffset x l q o.toInt 26 .call i
  | .bp p o => reOffset x l q o.toInt 20 (.bp p) i
  | .bpn p o => reOffset x l q o.toInt 20 (.bpn p) i
  | .fork p a o => reOffset x l q o.toInt 7 (.fork p a) i
  | .forkRCarry8 p a o => reOffset x l q o.toInt 7 (.forkRCarry8 p a) i
  | .forkRCarry16 p a o => reOffset x l q o.toInt 7 (.forkRCarry16 p a) i
  | .forkRCarry24 p a o => reOffset x l q o.toInt 7 (.forkRCarry24 p a) i
  | .cmp a b c p s n => (reSkip l q s.toNat).map fun k => .cmp a b c p k n
  | .cmpi a v c p s n => (reSkip l q s.toNat).map fun k => .cmpi a v c p k n
  | .jalr d a => some (if l.guards.contains q then .jalr d 123 else .jalr d a)
  | i => match laOf i with
    | none => some i
    | some k => match sortNat (gs.flatMap fun g => windowInserts x e l g k) with
      | [] => some i
      | [n] => if k + n ≤ 15 then some (withLa (k + n) i) else none
      | _ => none

/-- The sealed words of one Praow word, the inserted ones first. -/
def sealWord (x : Gx) (e : Eng) (l : Lay) (q : Nat) : Option (List Nat) :=
  let w := (codeAt x.o.code q).getD 0
  let main : Option Nat := match decodeWord w with
    | .error _ => some w
    | .ok i => (rewrite x e l q i).bind encode
  let pre : List (Option Nat) := (l.chks.filter fun c => c.1 == q).map (fun c => chkBits c.2) ++
    (if l.guards.contains q then match decodeWord w, x.o.link with
      | .ok (.jalr _ a), some (dom, m) => guardWords dom m a
      | _, _ => []
    else [])
  (pre ++ [main]).foldr (fun o r => match o, r with
    | some v, some t => some (v :: t)
    | _, _ => none) (some [])

/-! ### The image (R425, R433, R434, R442, R458) -/

/-- A manifest entry with its sealed index, for their order (R433, R446). -/
def manifestEntry (poff soff kind cls win dir span : Nat) : Nat :=
  poff * 2 ^ 96 + soff * 2 ^ 64 + kind * 2 ^ 28 + cls * 2 ^ 24 + win * 2 ^ 20 + dir * 2 ^ 16 + span

/-- The class of an access: 3 covered, 2 loop-guarded, 1 by its interval (R430). -/
def classOf (x : Gx) (e : Eng) (decl : Nat → Wd) (l : List Acc) : Nat :=
  l.foldl (fun c a => max c (match proofOf decl a with
    | .interval gs => if gs.any (onCycle x e) then 2 else 1
    | _ => 3)) 1

/-- The manifest entries of the word at an index. The entry of an inserted check names the first word that the check stands before, the hint
where one governs the access, so that the check stands at soff - 4 (R430, R433, R446, log entry 80). -/
def entriesAt (x : Gx) (e : Eng) (l : Lay) (accs : List Acc) (q : Nat) : List Nat :=
  let decl := completed x.o accs
  let here := accs.filter fun a => a.ipc == q
  let acc (k : Nat) : Option Nat := (here.find? fun a => a.idx == k).map fun a =>
    let place := checkPlace accs a
    let own := l.chks.find? fun c => c.1 == place && c.2.reg == a.ref.reg &&
      (instances accs a).any fun b => proofOf decl { b with chks := b.chks.filter fun d => d != c.2 } == .open
    match own with
    | some c => manifestEntry (4 * place) (4 * l.of place) 2 0 a.win c.2.dir c.2.len
    | none => manifestEntry (4 * q) (4 * l.of q) 1 (classOf x e decl (instances accs a)) a.win a.ref.dir (a.ref.fin - a.ref.off).toNat
  (List.range 4).filterMap acc ++
  (if l.guards.contains q then [manifestEntry (4 * q) (4 * l.of q) 3 0 0 0 0] else [])

/-- The addresses that a state holds, as the address map names them: frames from the top, and below frames of unknown number from the bottom of
the strand's stack (R458, log entry 58). -/
def mapOf (s : AState) : List (Nat × Nat × Nat) :=
  let pick (file : Nat) (l : List (AV × Nat)) : List (Nat × Nat × Nat) := l.filterMap fun p => match p.1 with
    | .addr n _ _ => some (file, p.2, n)
    | _ => none
  let slots (f : AFrame × Nat) : List (AV × Nat) := ((f.1.lr :: f.1.regs).zipIdx).map fun p => (p.1, 64 * f.2 + p.2)
  let top := s.stack.takeWhile fun f => !f.many
  let low := s.stack.drop (top.length + 1)
  pick 0 (s.regs.zipIdx ++ [(s.lr, 123)]) ++ pick 1 s.xs.zipIdx ++ pick 2 (top.zipIdx.flatMap slots) ++
  if s.root then pick 3 (low.reverse.zipIdx.flatMap slots) else []

/-- The state that the map shows at a word: all paths, and what a repeat may leave there between its repeats, joined (R90, R458). -/
def mapState (x : Gx) (r : Nat × Nat × AState) : AState := (evalAt x r.1 r.2.1 r.2.2).mids.foldl AState.join r.2.2

/-- The map's entries at a word reached: for it and the words inserted before it. The words of a guard hold no address in `lr` (R445,
R458). -/
def mapEntries (x : Gx) (l : Lay) (r : Nat × Nat × AState) : List AMapEntry :=
  let m := mapOf (mapState x r)
  let entry (j : Nat) (q : Nat × Nat × Nat) : AMapEntry := { off := 4 * j, kind := r.2.1, file := q.1, idx := q.2.1, win := q.2.2 }
  let noLr := m.filter fun p => p.1 != 0 || p.2.1 != 123
  let q := governedAt x r.1
  (List.range (l.at r.1 + 1)).flatMap (fun j => (if 0 < j ∧ l.guards.contains r.1 = true then noLr else m).map (entry (l.to r.1 + j))) ++
  if l.guards.contains q ∧ q ≠ r.1 then (List.range (l.at q)).flatMap fun j => noLr.map (entry (l.to q + j + 1)) else []

/-- The address map: the entries of every word reached, and g0 at the start stub (R353, R458). -/
def addressMap (x : Gx) (e : Eng) (l : Lay) (stubAt : Nat) : List AMapEntry :=
  let stub : AMapEntry := { off := 4 * stubAt, kind := 0, file := 0, idx := 0, win := x.o.argw }
  ((reached x e).flatMap (mapEntries x l) ++ [stub]).eraseDups

/-- An entry of the map as 8 bytes. -/
def mapBytes (m : AMapEntry) : List Byte := leBytes 4 m.off ++ leBytes 1 (m.file * 16 + m.win) ++ leBytes 1 m.kind ++ leBytes 2 m.idx

/-- The entries read back from bytes. -/
def readMap : Nat → List Byte → List AMapEntry
  | 0, _ => []
  | n + 1, l =>
    if l.length < 8 then [] else
    let k := leNat ((l.drop 4).take 1)
    { off := leNat (l.take 4), kind := leNat ((l.drop 5).take 1), file := k / 16, idx := leNat ((l.drop 6).take 2), win := k % 16 } :: readMap n (l.drop 8)

/-- Bytes up to the next multiple of n. -/
def padTo (n : Nat) (l : List Byte) : List Byte := l ++ List.replicate ((n - l.length % n) % n) 0

/-- The header of an image as one number (R425). -/
def headerOf (img : List Byte) : BitVec 2048 := BitVec.ofNat 2048 (leNat (img.take 256))

/-- The n 32-bit words that begin at an offset of a list of bytes. -/
def wordsAt (l : List Byte) (off n : Nat) : List (BitVec 32) :=
  (List.range n).map fun i => BitVec.ofNat 32 (leNat ((l.drop (off + 4 * i)).take 4))

/-- The places of the header's fields that hold zero in a Praow object: reserved ones, and those that Glousk fills (R424, R425, R442). -/
def zeroFields : List (Nat × Nat) :=
  [(0, 96), (105, 3), (112, 16), (177, 47), (352, 64), (448, 64), (1024, 256), (1294, 18), (1320, 88), (1408, 640)]

/-- A Praow object read: none where a field that must be zero is not, the format is another, or an offset or length does not lie within the
body. The Praow offsets of its exports, for which the spec gives no place, follow the code and the stream table (R424, R425, R442, log
entry 79). -/
def readPraow (p : PraowFile) : Option PraowObject :=
  let h := headerOf p.bytes
  let body := p.bytes.drop 256
  let n := body.length
  let clen := bits h 416 32
  let soff := bits h 288 32
  let scount := bits h 320 32
  let ecount := bits h 1312 8
  let eoff := if scount = 0 then clen else soff + 32 * scount
  if decide (p.bytes.length < 256) || zeroFields.any (fun f => bits h f.1 f.2 != 0) || bits h 96 8 != 1 || clen % 4 != 0 || decide (n < clen) ||
     decide (n < soff) || (scount != 0 && (soff % 32 != 0 || decide (soff < clen))) || decide (n < eoff + 4 * ecount) then none
  else some {
    tenant := p.tenant, code := wordsAt body 0 (clen / 4), entry := bits h 224 32, mentry := if bit1 h 104 then some (bits h 256 32) else none,
    shapeW := bits h 160 7, shapeV := bits h 167 6, shapeD := bits h 173 4, decl := (List.range 16).map fun i => BitVec.ofNat 32 (bits h (512 + 32 * i) 32),
    streams := (List.range scount).map fun i => BitVec.ofNat 256 (leNat ((body.drop (soff + 32 * i)).take 32)), argw := bits h 108 4,
    argoff := bits h 128 32, link := if bits h 1280 128 = 0 then none else some (bits h 1280 10, bits h 1290 4),
    ports := (wordsAt body eoff ecount).map fun w => w.toNat }

/-- What Glousk refuses before it reads a word (R29, R424, R442, R443); an object of a domain that is not installed is checked
against none. -/
def malformed (s : State) (o : PraowObject) : Bool :=
  let n := 4 * o.code.length
  let inCode (p : Nat) : Bool := p % 4 == 0 && decide (p < n)
  !inCode o.entry || (o.mentry.map fun m => !inCode m).getD false || !o.ports.all inCode || decide (63 < o.tenant) ||
  o.shapeW % 8 != 0 || decide (o.shapeW < 8) || decide (120 < o.shapeW) || decide (32 < o.shapeV) || decide (8 < o.shapeD) ||
  o.decl.length != 16 || decide (64 < o.streams.length) || decide (15 < o.argw) || decide (2 ^ 32 ≤ o.argoff) || decide (255 < o.ports.length) ||
  (match o.link with
    | none => !o.ports.isEmpty
    | some (dom, m) => decide (1023 < dom) || decide (9 < m) || ((kget? s.domains dom).map fun d => bits d.record 54 4 != m).getD false)

/-- The image of an admitted object, or a refusal of R431 (R425, R433, R434, R442, R458). -/
def sealImage (s : State) (x : Gx) (e : Eng) (r : Res) : Sealed :=
  let o := x.o
  let l : Lay := { chks := x.ins, guards := guardsOf x e }
  let words := (List.range o.code.length).map fun q => (q, sealWord x e l q)
  match firstError (r.errs ++ (words.filter fun p => p.2.isNone).map fun p => (6, p.1)) with
  | some c => .refused c.1 (4 * c.2)
  | none =>
    if streamTableBad o.streams then .refused 9 0 else
    let code := words.flatMap fun p => p.2.getD []
    let stubAt := code.length
    match encode (.br (BitVec.ofInt 26 ((l.to (o.entry / 4) : Int) - stubAt))) with
    | none => .refused 6 0
    | some stub =>
      let accs := inOrder r.accs o.code.length
      let decl := completed o accs
      let b0 := (code ++ [stub]).flatMap fun w => leBytes 4 w
      let b1 := if o.streams = [] then b0 else padTo 32 b0
      let soff := if o.streams = [] then 0 else b1.length
      let b2 := b1 ++ o.streams.flatMap fun t => leBytes 32 t.toNat
      let eoff := if o.ports = [] then 0 else b2.length
      let b3 := padTo 64 (b2 ++ o.ports.flatMap fun p => leBytes 4 (4 * l.to (p / 4)))
      let ents := (List.range o.code.length).flatMap (entriesAt x e l accs)
      let man := leBytes 4 ents.length ++ leBytes 4 l.chks.length ++ leBytes 4 (4 * o.code.length) ++ leBytes 4 0 ++ ents.flatMap fun m => leBytes 16 m
      let body := b3 ++ man ++ (addressMap x e l stubAt).flatMap mapBytes
      let link := match o.link with
        | none => 0
        | some (dom, m) => eoff * 2 ^ 40 + o.ports.length * 2 ^ 32 + (if l.guards = [] then 0 else 2 ^ 14) + m * 2 ^ 10 + dom
      let argused := accs.any (fun a => match a.v with
        | .addr _ i _ => i.arg
        | _ => false) || (reached x e).any fun p => match groupAt o.code p.1 with
        | .ok _ (.vmovx _ a) _ => (match p.2.2.get a.toNat with
          | .addr _ i _ => i.arg
          | _ => false)
        | _ => false
      let id := o.tenant * 2 ^ 58 + s.transCount + 1
      let wd := ((List.range 16).map fun n => ((decl n).1 * 2 ^ 30 + (decl n).2) * 2 ^ (32 * n)).sum
      let head := id + Config.translatorVer.toNat * 2 ^ 64 + 2 ^ 96 + (if o.mentry.isSome then 2 ^ 104 else 0) + (if argused then 2 ^ 107 else 0) +
        o.argw * 2 ^ 108 + o.argoff * 2 ^ 128 + o.shapeW * 2 ^ 160 + o.shapeV * 2 ^ 167 + o.shapeD * 2 ^ 173 + body.length * 2 ^ 192 +
        4 * stubAt * 2 ^ 224 + (o.mentry.map fun m => 4 * l.to (m / 4)).getD 0 * 2 ^ 256 + soff * 2 ^ 288 + o.streams.length * 2 ^ 320 +
        b3.length * 2 ^ 352 + man.length * 2 ^ 384 + 4 * (stubAt + 1) * 2 ^ 416 + wd * 2 ^ 512 + (Config.sha256 man).toNat * 2 ^ 1024 + link * 2 ^ 1280
      let h := leBytes 224 head
      .image (h ++ leBytes 32 (Config.imageHmac (h ++ body)).toNat ++ body)

/-- What Glousk answers to an object that it has read (R424 to R434, R446). -/
def translateObject (s : State) (o : PraowObject) : Sealed :=
  if malformed s o then .refused 1 0
  else
    let f := settle o (6 * o.code.length + 2) [] []
    sealImage s f.x f.e f.r

/-- What Glousk answers to a Praow object (R424, R432). -/
def translate (s : State) (p : PraowFile) : Sealed :=
  match readPraow p with
  | none => .refused 1 0
  | some o => translateObject s o

/-- TRANSLATION: once every die's firmware is verified, an object is sealed, and the package's count of translations advances, or it is refused (R432, R434, R502). -/
def stepTranslate (s : State) (o : PraowFile) : Option State :=
  if s.service == .halted || s.dieOk.length != 4 then none
  else
    let a := translate s o
    some { s with
      sealed := s.sealed ++ [a],
      transCount := match a with
        | .image _ => s.transCount + 1
        | .refused _ _ => s.transCount }

/-- TRANSLATION (R424). -/
def execTranslation (o : PraowFile) (s : State) : Host.Outcome State Fault Refusal := device "TRANSLATION" (stepTranslate s o)

end Sys2Proof.Machine
end

