-- ==== Sys2Proof/Machine/Images.lean ====
section
/-! DEFINITION. The sealed image store (R435), revocation lists (R436, R461), link domains and their landings (R439 to R441). -/

namespace Sys2Proof.Machine

/-! ### The image store (R16, R425, R435, R440) -/

/-- The first byte of the landing tables (R440). -/
def landingBase : Nat := 0xFD00000000

/-- The first byte of the sealed image store (R440). -/
def storeBase : Nat := 0xFD00200000

/-- The first byte after it (R440). -/
def storeEnd : Nat := 0xFD08000000

/-- Whether the bytes have the length that the header gives and the tag verifies (R425, R434). -/
def tagVerifies (img : List Byte) : Bool :=
  decide (256 ≤ img.length) && img.length == 256 + bits (headerOf img) 192 32 &&
  (Config.imageHmac (img.take 224 ++ img.drop 256)).toNat == bits (headerOf img) 1792 256

/-- Whether an image with this base and body length lies in the store and beside every other (R440). -/
def storeFits (s : State) (base blen : Nat) : Bool :=
  base % 64 == 0 && decide (storeBase + 256 ≤ base) && decide (base + blen ≤ storeEnd) &&
  !s.images.any fun p => overlap (base - 256) (blen + 256) (p.2.base - 256) (bits p.2.header 192 32 + 256)

/-- The address map that ends a body (R425, R458). -/
def bodyMap (img : List Byte) : List AMapEntry :=
  let h := headerOf img
  let at0 := bits h 352 32 + bits h 384 32
  readMap img.length ((img.drop 256).drop at0)

/-- IMAGE_INSTALL: refused if the tag does not verify, the version is revoked or the id is in the store; else header and body
stand in the store (R435). System software chooses a base that is free. -/
def stepImageInstall (s : State) (h : ReqHdr) (base : Nat) (img : List Byte) : Option State :=
  manageOn s h 7 true none (some base) fun s =>
    let hd := headerOf img
    let id := bits hd 0 64
    if !tagVerifies img || s.revVers.contains (BitVec.ofNat 32 (bits hd 64 32)) || (kget? s.images id).isSome then some (refuse s)
    else if !storeFits s base (bits hd 192 32) then none
    else some (done (pokeRaw { s with images := kset s.images id { header := hd, base := base, amap := bodyMap img } } (base - 256) img))

/-- IMAGE_INSTALL (R435). -/
def execImageInstall (h : ReqHdr) (base : Nat) (img : List (BitVec 8)) (s : State) : Host.Outcome State Fault Refusal :=
  device "IMAGE_INSTALL" (stepImageInstall s h base img)

/-! ### Link domains (R439 to R441) -/

/-- The address of landing i of a domain (R440). -/
def landingAt (dom i : Nat) : Nat := landingBase + dom * 0x800 + 4 * i

/-- The word of an unbound landing, `trap zr, 127` (R440). -/
def unboundWord : Nat := 0x80078FE1

/-- A landing word written (R440, R441). -/
def setLanding (s : State) (dom i w : Nat) : State := pokeRaw s (landingAt dom i) (leBytes 4 w)

/-- The number of landings of a domain (R439). -/
def landings (d : BitVec 1024) : Nat := 2 ^ bits d 54 4

/-- Every landing of a domain unbound (R440). -/
def unbindAll (s : State) (dom : Nat) (d : BitVec 1024) : State := (List.range (landings d)).foldl (fun s i => setLanding s dom i unboundWord) s

/-- LINK_DOMAIN_CREATE: a domain with every landing unbound (R439, R440). -/
def stepLinkDomainCreate (s : State) (h : ReqHdr) (d : BitVec 1024) : Option State :=
  manage s h 9 true fun s => some (
    let dom := bits d 0 10
    if (kget? s.domains dom).isSome ∨ 9 < bits d 54 4 ∨ bits d 47 7 % 8 ≠ 0 ∨ bits d 47 7 < 8 ∨ 120 < bits d 47 7 ∨ 32 < bits d 41 6 ∨
        8 < bits d 37 4 then refuse s
    else done (unbindAll { s with domains := kset s.domains dom { record := d, bound := [] } } dom d))

/-- LINK_DOMAIN_CREATE (R439). -/
def execLinkDomainCreate (h : ReqHdr) (d : BitVec 1024) (s : State) : Host.Outcome State Fault Refusal :=
  device "LINK_DOMAIN_CREATE" (stepLinkDomainCreate s h d)

/-- The link field of an image (R442). -/
def linkOf (hd : BitVec 2048) : Nat := bits hd 1280 128

/-- Whether an image belongs to a domain (R442). -/
def inDomain (hd : BitVec 2048) (dom : Nat) : Bool := linkOf hd != 0 && linkOf hd % 2 ^ 10 == dom

/-- Whether the method image of a task lies in a domain (R440). -/
def taskInDomain (s : State) (t : Task) (dom : Nat) : Bool :=
  match kget? s.images t.image.toNat with
  | none => false
  | some im => inDomain im.header dom

/-- LINK_DOMAIN_DELETE: refused while a task in states 0 to 3 has its method image in the domain; else every landing is unbound
(R440). -/
def stepLinkDomainDelete (s : State) (h : ReqHdr) (dom : Nat) : Option State :=
  manageOn s h 9 true none (some dom) fun s => some (match kget? s.domains dom with
    | none => refuse s
    | some d =>
      if s.tasks.any fun p => decide (p.2.state ≤ 3) && taskInDomain s p.2 dom then refuse s
      else done (unbindAll { s with domains := kdel s.domains dom } dom d.record))

/-- LINK_DOMAIN_DELETE (R440). -/
def execLinkDomainDelete (h : ReqHdr) (dom : Nat) (s : State) : Host.Outcome State Fault Refusal :=
  device "LINK_DOMAIN_DELETE" (stepLinkDomainDelete s h dom)

/-- Whether the image's declarations ask for no more than the domain's (R441). -/
def declWithin (hd : BitVec 2048) (d : BitVec 1024) : Bool :=
  (List.range 16).all fun n =>
    let a := bits hd (512 + 32 * n) 32
    let b := bits d (512 + 32 * n) 32
    a / 2 ^ 30 &&& b / 2 ^ 30 == a / 2 ^ 30 && decide (a % 2 ^ 30 ≤ b % 2 ^ 30)

/-- Whether a binding is refused (R441). -/
def bindRefused (d : Domain) (im : Image) (image : Word) (dom i k : Nat) : Bool :=
  bits image 58 6 != bits d.record 58 6 || !inDomain im.header dom || decide (landings d.record ≤ i) ||
  decide (linkOf im.header / 2 ^ 32 % 256 ≤ k) || (kget? d.bound i).isSome || decide (bits d.record 47 7 < bits im.header 160 7) ||
  decide (bits d.record 41 6 < bits im.header 167 6) || decide (bits d.record 37 4 < bits im.header 173 4) || !declWithin im.header d.record

/-- The address of export k of an image (R442). -/
def exportAt (s : State) (im : Image) (k : Nat) : Nat := im.base + peekRaw s (im.base + linkOf im.header / 2 ^ 40 % 2 ^ 32 + 4 * k) 4

/-- The `br` at an address to another (R441). -/
def brWord (src dst : Nat) : Nat := (encode (.br (BitVec.ofInt 26 (((dst : Int) - src) / 4)))).getD unboundWord

/-- LANDING_BIND: a `br` to the export stands in the landing (R441). -/
def stepLandingBind (s : State) (h : ReqHdr) (dom i : Nat) (image : Word) (k : Nat) : Option State :=
  manageOn s h 9 true none (some dom) fun s => some (match kget? s.domains dom, kget? s.images image.toNat with
    | some d, some im =>
      if bindRefused d im image dom i k then refuse s
      else done (setLanding { s with domains := kset s.domains dom { d with bound := kset d.bound i image } } dom i
        (brWord (landingAt dom i) (exportAt s im k)))
    | _, _ => refuse s)

/-- LANDING_BIND (R441). -/
def execLandingBind (h : ReqHdr) (dom i : Nat) (image : BitVec 64) (k : Nat) (s : State) : Host.Outcome State Fault Refusal :=
  device "LANDING_BIND" (stepLandingBind s h dom i image k)

/-! ### Revocation lists (R436, R461) -/

/-- The bytes of a list that its signature covers. -/
def listBytes (l : RevocationList) : List Byte := leBytes 8 l.seq ++ l.vers.flatMap fun v => leBytes 4 v.toNat

/-- The version of an installed image; none for one that is not installed (R425). -/
def verOf (s : State) (image : Nat) : Option (BitVec 32) := (kget? s.images image).map fun im => BitVec.ofNat 32 (bits im.header 64 32)

/-- Whether an installed image is of a named version. -/
def revokedBy (s : State) (vers : List (BitVec 32)) (image : Nat) : Bool := ((verOf s image).map fun v => vers.contains v).getD false

/-- The images that a task runs: its method image, and every image that a linkage call has reached on one of its cores since placement, held,
left or saved (R436, R438). -/
def imagesRun (s : State) (k : Nat) (t : Task) : List Nat :=
  t.image.toNat :: (t.members.flatMap (fun g => if (coreAt s g).task = some k then (coreAt s g).reached else []) ++
    s.saves.flatMap fun v => if v.slot = k then v.core.reached else []) ++ t.reached

/-- A task of a revoked version stopped (R436, R461). -/
def revokeTask (s : State) (vers : List (BitVec 32)) (p : Nat × Task) : Nat × Task :=
  if p.2.state = 2 ∨ p.2.state = 3 then
    match (imagesRun s p.1 p.2).find? (revokedBy s vers) with
    | none => p
    | some i =>
      let v := ((verOf s i).map fun v => w64 v.toNat).getD 0
      (p.1, { p.2 with faults := p.2.faults ++ [{ revokeFault s p.2 2 v 63 with image := w64 i }] })
  else p

/-- The landings of a domain that are bound to images of revoked versions, unbound (R441). -/
def unbindRevoked (vers : List (BitVec 32)) (s : State) (dom : Nat) : State :=
  match kget? s.domains dom with
  | none => s
  | some d =>
    let hit := d.bound.filter fun p => revokedBy s vers p.2.toNat
    hit.foldl (fun s p => setLanding s dom p.1 unboundWord)
      { s with domains := kset s.domains dom { d with bound := d.bound.filter fun p => !revokedBy s vers p.2.toNat } }

/-- A list's effect, at one point in time: methods naming an image of a named version become empty, tasks that run one stop,
landings bound to one return to the unbound word (R436, R441). -/
def revoke (s : State) (l : RevocationList) : State :=
  let s1 := { s with
    revSeq := l.seq, revVers := l.vers,
    methods := s.methods.map fun p => (p.1, if revokedBy s l.vers (bits p.2 192 64) then 0 else p.2),
    tasks := s.tasks.map (revokeTask s l.vers) }
  (s.domains.map fun p => p.1).foldl (unbindRevoked l.vers) s1

/-- REVOCATION_LIST_INSTALL: refused unless signed by Thrumman and newer than the installed list (R436). -/
def stepRevocationList (s : State) (h : ReqHdr) (l : RevocationList) : Option State :=
  manage s h 8 true fun s => some (
    if Config.lmsVerifies Config.thrummanKey (listBytes l) l.signature = false ∨ l.seq ≤ s.revSeq then refuse s else done (revoke s l))

/-- REVOCATION_LIST_INSTALL (R436). -/
def execRevocationListInstall (h : ReqHdr) (l : RevocationList) (s : State) : Host.Outcome State Fault Refusal :=
  device "REVOCATION_LIST_INSTALL" (stepRevocationList s h l)

end Sys2Proof.Machine
end

