-- ==== Sys2Proof/Machine/ScalarFloat.lean ====
section
/-! DEFINITION. Major 14: scalar f32 (R107 to R109), in the mode of `rnd` (R42). -/

namespace Sys2Proof.Machine

/-- Bits 31:0 of a register (R108). -/
def low32 (w : Word) : Nat := w.toNat % 2 ^ 32

/-- The f32 value of a register (R108). -/
def f32In (w : Word) : FVal := f32.decode (low32 w)

/-- An f32 result in bits 31:0, bits 63:32 cleared (R108). -/
def f32Word (r : Nat × Flags) : Word × Flags := (w64 r.1, r.2)

/-- A truth result. -/
def cmpWord (r : Bool × Flags) : Word × Flags := (ofBool r.1, r.2)

/-- An integer result. -/
def intWord (r : Int × Flags) : Word × Flags := (BitVec.ofInt 64 r.1, r.2)

/-- RoundF32(a + b) (R108). -/
def execFadd (d : BitVec 7) (a : BitVec 7) (b : BitVec 7) (s : State) : Host.Outcome State Fault Refusal :=
  scalar (.fadd d a b) d s fun x vs => f32Word (f32.add x.t.rnd (f32In (arg vs 0)) (f32In (arg vs 1)))

/-- RoundF32(a - b) (R108). -/
def execFsub (d : BitVec 7) (a : BitVec 7) (b : BitVec 7) (s : State) : Host.Outcome State Fault Refusal :=
  scalar (.fsub d a b) d s fun x vs => f32Word (f32.add x.t.rnd (f32In (arg vs 0)) (f32In (arg vs 1)).neg)

/-- RoundF32(a × b) (R108). -/
def execFmul (d : BitVec 7) (a : BitVec 7) (b : BitVec 7) (s : State) : Host.Outcome State Fault Refusal :=
  scalar (.fmul d a b) d s fun x vs => f32Word (f32.mul x.t.rnd (f32In (arg vs 0)) (f32In (arg vs 1)))

/-- RoundF32(a / b); `dz` for a finite non-zero value over zero (R108). -/
def execFdiv (d : BitVec 7) (a : BitVec 7) (b : BitVec 7) (s : State) : Host.Outcome State Fault Refusal :=
  scalar (.fdiv d a b) d s fun x vs => f32Word (f32.div x.t.rnd (f32In (arg vs 0)) (f32In (arg vs 1)))

/-- RoundF32(old gd + a × b), rounded once; `zr` adds to +0 (R108). -/
def execFmac (d : BitVec 7) (a : BitVec 7) (b : BitVec 7) (s : State) : Host.Outcome State Fault Refusal :=
  scalar (.fmac d a b) d s fun x vs => f32Word (f32.mac x.t.rnd (f32In (x.t.gen d)) (f32In (arg vs 0)) (f32In (arg vs 1)))

/-- RoundF32 of the square root (R108). -/
def execFsqrt (d : BitVec 7) (a : BitVec 7) (s : State) : Host.Outcome State Fault Refusal :=
  scalar (.fsqrt d a) d s fun x vs => f32Word (f32.sqrt x.t.rnd (f32In (arg vs 0)))

/-- The lesser operand, bit for bit (R109). -/
def execFmin (d : BitVec 7) (a : BitVec 7) (b : BitVec 7) (s : State) : Host.Outcome State Fault Refusal :=
  scalar (.fmin d a b) d s fun _ vs => f32Word (f32.minmax false (low32 (arg vs 0)) (low32 (arg vs 1)))

/-- The greater operand, bit for bit (R109). -/
def execFmax (d : BitVec 7) (a : BitVec 7) (b : BitVec 7) (s : State) : Host.Outcome State Fault Refusal :=
  scalar (.fmax d a b) d s fun _ vs => f32Word (f32.minmax true (low32 (arg vs 0)) (low32 (arg vs 1)))

/-- ga[31:0] with bit 31 cleared (R108). -/
def execFabs (d : BitVec 7) (a : BitVec 7) (s : State) : Host.Outcome State Fault Refusal :=
  scalar (.fabs d a) d s fun _ vs => (w64 (low32 (arg vs 0) % 2 ^ 31), 0)

/-- ga[31:0] with bit 31 inverted (R108). -/
def execFneg (d : BitVec 7) (a : BitVec 7) (s : State) : Host.Outcome State Fault Refusal :=
  scalar (.fneg d a) d s fun _ vs => (w64 ((low32 (arg vs 0) + 2 ^ 31) % 2 ^ 32), 0)

/-- 1 if a = b as f32 (R108). -/
def execFeq (d : BitVec 7) (a : BitVec 7) (b : BitVec 7) (s : State) : Host.Outcome State Fault Refusal :=
  scalar (.feq d a b) d s fun _ vs => cmpWord (f32.cmpEq (low32 (arg vs 0)) (low32 (arg vs 1)))

/-- 1 if a < b as f32 (R108). -/
def execFlt (d : BitVec 7) (a : BitVec 7) (b : BitVec 7) (s : State) : Host.Outcome State Fault Refusal :=
  scalar (.flt d a b) d s fun _ vs => cmpWord (f32.cmpLt false (low32 (arg vs 0)) (low32 (arg vs 1)))

/-- 1 if a ≤ b as f32 (R108). -/
def execFle (d : BitVec 7) (a : BitVec 7) (b : BitVec 7) (s : State) : Host.Outcome State Fault Refusal :=
  scalar (.fle d a b) d s fun _ vs => cmpWord (f32.cmpLt true (low32 (arg vs 0)) (low32 (arg vs 1)))

/-- f32 to i64 under R68 (R108). -/
def execFcvtI (d : BitVec 7) (a : BitVec 7) (s : State) : Host.Outcome State Fault Refusal :=
  scalar (.fcvtI d a) d s fun x vs => intWord (floatToInt x.t.rnd (iLo 64) (iHi 64) (f32In (arg vs 0)))

/-- f32 to n64 under R68 (R108). -/
def execFcvtN (d : BitVec 7) (a : BitVec 7) (s : State) : Host.Outcome State Fault Refusal :=
  scalar (.fcvtN d a) d s fun x vs => intWord (floatToInt x.t.rnd 0 (nHi 64) (f32In (arg vs 0)))

/-- i64 to f32 under R69 (R108). -/
def execIcvtF (d : BitVec 7) (a : BitVec 7) (s : State) : Host.Outcome State Fault Refusal :=
  scalar (.icvtF d a) d s fun x vs => f32Word (f32.ofInt x.t.rnd (arg vs 0).toInt)

/-- n64 to f32 under R69 (R108). -/
def execNcvtF (d : BitVec 7) (a : BitVec 7) (s : State) : Host.Outcome State Fault Refusal :=
  scalar (.ncvtF d a) d s fun x vs => f32Word (f32.ofInt x.t.rnd (arg vs 0).toNat)

end Sys2Proof.Machine
end

