-- ==== Sys2Proof/Machine/Dispatch.lean ====
section
/-! DEFINITION. One arm per instruction: each is one call of its meaning. -/

namespace Sys2Proof.Machine

open Host

/-- The effect of one instruction or one device step on a state. -/
def exec (i : Instr) (s : State) : Host.Outcome State Fault Refusal :=
  match i with
  | .add d a b => Sys2Proof.Machine.execAdd d a b s
  | .sub d a b => Sys2Proof.Machine.execSub d a b s
  | .and d a b => Sys2Proof.Machine.execAnd d a b s
  | .or d a b => Sys2Proof.Machine.execOr d a b s
  | .xor d a b => Sys2Proof.Machine.execXor d a b s
  | .andn d a b => Sys2Proof.Machine.execAndn d a b s
  | .orn d a b => Sys2Proof.Machine.execOrn d a b s
  | .sll d a b => Sys2Proof.Machine.execSll d a b s
  | .srl d a b => Sys2Proof.Machine.execSrl d a b s
  | .sra d a b => Sys2Proof.Machine.execSra d a b s
  | .slt d a b => Sys2Proof.Machine.execSlt d a b s
  | .sltn d a b => Sys2Proof.Machine.execSltn d a b s
  | .min d a b => Sys2Proof.Machine.execMin d a b s
  | .max d a b => Sys2Proof.Machine.execMax d a b s
  | .minn d a b => Sys2Proof.Machine.execMinn d a b s
  | .maxn d a b => Sys2Proof.Machine.execMaxn d a b s
  | .adds d a b => Sys2Proof.Machine.execAdds d a b s
  | .subs d a b => Sys2Proof.Machine.execSubs d a b s
  | .addsn d a b => Sys2Proof.Machine.execAddsn d a b s
  | .subsn d a b => Sys2Proof.Machine.execSubsn d a b s
  | .clz d a => Sys2Proof.Machine.execClz d a s
  | .ctz d a => Sys2Proof.Machine.execCtz d a s
  | .popc d a => Sys2Proof.Machine.execPopc d a s
  | .brev d a => Sys2Proof.Machine.execBrev d a s
  | .bswap d a => Sys2Proof.Machine.execBswap d a s
  | .rol d a b => Sys2Proof.Machine.execRol d a b s
  | .ror d a b => Sys2Proof.Machine.execRor d a b s
  | .sext d a w => Sys2Proof.Machine.execSext d a w s
  | .zext d a w => Sys2Proof.Machine.execZext d a w s
  | .mul d a b k => Sys2Proof.Machine.execMul d a b k s
  | .div d a b k => Sys2Proof.Machine.execDiv d a b k s
  | .addi d a im => Sys2Proof.Machine.execAddi d a im s
  | .andi d a im => Sys2Proof.Machine.execAndi d a im s
  | .ori d a im => Sys2Proof.Machine.execOri d a im s
  | .xori d a im => Sys2Proof.Machine.execXori d a im s
  | .slli d a n => Sys2Proof.Machine.execSlli d a n s
  | .srli d a n => Sys2Proof.Machine.execSrli d a n s
  | .srai d a n => Sys2Proof.Machine.execSrai d a n s
  | .rori d a n => Sys2Proof.Machine.execRori d a n s
  | .slti d a im => Sys2Proof.Machine.execSlti d a im s
  | .sltni d a im => Sys2Proof.Machine.execSltni d a im s
  | .cmp a b c p sh e => Sys2Proof.Machine.execCmp a b c p sh e s
  | .cmpi a im c p sh e => Sys2Proof.Machine.execCmpi a im c p sh e s
  | .pand d a b => Sys2Proof.Machine.execPand d a b s
  | .por d a b => Sys2Proof.Machine.execPor d a b s
  | .pxor d a b => Sys2Proof.Machine.execPxor d a b s
  | .pandn d a b => Sys2Proof.Machine.execPandn d a b s
  | .porn d a b => Sys2Proof.Machine.execPorn d a b s
  | .pnot d a => Sys2Proof.Machine.execPnot d a s
  | .mfp d => Sys2Proof.Machine.execMfp d s
  | .mtp a b => Sys2Proof.Machine.execMtp a b s
  | .sel d a b n => Sys2Proof.Machine.execSel d a b n s
  | .fadd d a b => Sys2Proof.Machine.execFadd d a b s
  | .fsub d a b => Sys2Proof.Machine.execFsub d a b s
  | .fmul d a b => Sys2Proof.Machine.execFmul d a b s
  | .fdiv d a b => Sys2Proof.Machine.execFdiv d a b s
  | .fmac d a b => Sys2Proof.Machine.execFmac d a b s
  | .fsqrt d a => Sys2Proof.Machine.execFsqrt d a s
  | .fmin d a b => Sys2Proof.Machine.execFmin d a b s
  | .fmax d a b => Sys2Proof.Machine.execFmax d a b s
  | .fabs d a => Sys2Proof.Machine.execFabs d a s
  | .fneg d a => Sys2Proof.Machine.execFneg d a s
  | .feq d a b => Sys2Proof.Machine.execFeq d a b s
  | .flt d a b => Sys2Proof.Machine.execFlt d a b s
  | .fle d a b => Sys2Proof.Machine.execFle d a b s
  | .fcvtI d a => Sys2Proof.Machine.execFcvtI d a s
  | .fcvtN d a => Sys2Proof.Machine.execFcvtN d a s
  | .icvtF d a => Sys2Proof.Machine.execIcvtF d a s
  | .ncvtF d a => Sys2Proof.Machine.execNcvtF d a s
  | .br o => Sys2Proof.Machine.execBr o s
  | .call o => Sys2Proof.Machine.execCall o s
  | .bp p o => Sys2Proof.Machine.execBp p o s
  | .bpn p o => Sys2Proof.Machine.execBpn p o s
  | .jr a => Sys2Proof.Machine.execJr a s
  | .jalr d a => Sys2Proof.Machine.execJalr d a s
  | .ret => Sys2Proof.Machine.execRet s
  | .enter k => Sys2Proof.Machine.execEnter k s
  | .leave k => Sys2Proof.Machine.execLeave k s
  | .fork p a o => Sys2Proof.Machine.execFork p a o s
  | .forkRCarry8 p a o => Sys2Proof.Machine.execForkRCarry8 p a o s
  | .forkRCarry16 p a o => Sys2Proof.Machine.execForkRCarry16 p a o s
  | .forkRCarry24 p a o => Sys2Proof.Machine.execForkRCarry24 p a o s
  | .join a => Sys2Proof.Machine.execJoin a s
  | .exit a => Sys2Proof.Machine.execExit a s
  | .yield => Sys2Proof.Machine.execYield s
  | .ld d b k z o => Sys2Proof.Machine.execLd d b k z o s
  | .lds d b k z o => Sys2Proof.Machine.execLds d b k z o s
  | .st sh b z o => Sys2Proof.Machine.execSt sh b z o s
  | .ldf d b k o => Sys2Proof.Machine.execLdf d b k o s
  | .ldt d b k o => Sys2Proof.Machine.execLdt d b k o s
  | .stf sh b o => Sys2Proof.Machine.execStf sh b o s
  | .stp sh b o => Sys2Proof.Machine.execStp sh b o s
  | .stempty b o => Sys2Proof.Machine.execStempty b o s
  | .cas d a b k => Sys2Proof.Machine.execCas d a b k s
  | .xadd d a b k => Sys2Proof.Machine.execXadd d a b k s
  | .tlk d a => Sys2Proof.Machine.execTlk d a s
  | .tfill n a b => Sys2Proof.Machine.execTfill n a b s
  | .tevict a => Sys2Proof.Machine.execTevict a s
  | .tinval a => Sys2Proof.Machine.execTinval a s
  | .wba d n b => Sys2Proof.Machine.execWba d n b s
  | .wrd d n sh => Sys2Proof.Machine.execWrd d n sh s
  | .chkR n a c => Sys2Proof.Machine.execChkR n a c s
  | .chkW n a c => Sys2Proof.Machine.execChkW n a c s
  | .chkRw n a c => Sys2Proof.Machine.execChkRw n a c s
  | .fenceCore => Sys2Proof.Machine.execFenceCore s
  | .fenceCluster => Sys2Proof.Machine.execFenceCluster s
  | .fenceDie => Sys2Proof.Machine.execFenceDie s
  | .fencePackage => Sys2Proof.Machine.execFencePackage s
  | .fenceGroup => Sys2Proof.Machine.execFenceGroup s
  | .barArrive d a => Sys2Proof.Machine.execBarArrive d a s
  | .barWait a b => Sys2Proof.Machine.execBarWait a b s
  | .rcnt d => Sys2Proof.Machine.execRcnt d s
  | .rfree d => Sys2Proof.Machine.execRfree d s
  | .reosDn => Sys2Proof.Machine.execReosDn s
  | .reosUp => Sys2Proof.Machine.execReosUp s
  | .mxIssue a => Sys2Proof.Machine.execMxIssue a s
  | .mxIssueMeta a v => Sys2Proof.Machine.execMxIssueMeta a v s
  | .mxWait => Sys2Proof.Machine.execMxWait s
  | .vxSync => Sys2Proof.Machine.execVxSync s
  | .cpReq a b => Sys2Proof.Machine.execCpReq a b s
  | .tspawn d a n => Sys2Proof.Machine.execTspawn d a n s
  | .tstat d a => Sys2Proof.Machine.execTstat d a s
  | .nop => Sys2Proof.Machine.execNop s
  | .trap a c => Sys2Proof.Machine.execTrap a c s
  | .brk => Sys2Proof.Machine.execBrk s
  | .mfs d n => Sys2Proof.Machine.execMfs d n s
  | .mts a n => Sys2Proof.Machine.execMts a n s
  | .vadd d a b t => Sys2Proof.Machine.execVadd d a b t s
  | .vsub d a b t => Sys2Proof.Machine.execVsub d a b t s
  | .vmul d a b t => Sys2Proof.Machine.execVmul d a b t s
  | .vmulh d a b t => Sys2Proof.Machine.execVmulh d a b t s
  | .vmin d a b t => Sys2Proof.Machine.execVmin d a b t s
  | .vmax d a b t => Sys2Proof.Machine.execVmax d a b t s
  | .vminn d a b t => Sys2Proof.Machine.execVminn d a b t s
  | .vmaxn d a b t => Sys2Proof.Machine.execVmaxn d a b t s
  | .vadds d a b t => Sys2Proof.Machine.execVadds d a b t s
  | .vsubs d a b t => Sys2Proof.Machine.execVsubs d a b t s
  | .vaddsn d a b t => Sys2Proof.Machine.execVaddsn d a b t s
  | .vsubsn d a b t => Sys2Proof.Machine.execVsubsn d a b t s
  | .vabs d a t => Sys2Proof.Machine.execVabs d a t s
  | .vneg d a t => Sys2Proof.Machine.execVneg d a t s
  | .vshl d a b t => Sys2Proof.Machine.execVshl d a b t s
  | .vshr d a b t => Sys2Proof.Machine.execVshr d a b t s
  | .vsra d a b t => Sys2Proof.Machine.execVsra d a b t s
  | .vdot d a b t => Sys2Proof.Machine.execVdot d a b t s
  | .vwadd d a b t => Sys2Proof.Machine.execVwadd d a b t s
  | .vwmul d a b t => Sys2Proof.Machine.execVwmul d a b t s
  | .vfadd d a b t => Sys2Proof.Machine.execVfadd d a b t s
  | .vfsub d a b t => Sys2Proof.Machine.execVfsub d a b t s
  | .vfmul d a b t => Sys2Proof.Machine.execVfmul d a b t s
  | .vfdiv d a b t => Sys2Proof.Machine.execVfdiv d a b t s
  | .vfmac d a b t => Sys2Proof.Machine.execVfmac d a b t s
  | .vfmin d a b t => Sys2Proof.Machine.execVfmin d a b t s
  | .vfmax d a b t => Sys2Proof.Machine.execVfmax d a b t s
  | .vfabs d a t => Sys2Proof.Machine.execVfabs d a t s
  | .vfneg d a t => Sys2Proof.Machine.execVfneg d a t s
  | .vfsqrt d a t => Sys2Proof.Machine.execVfsqrt d a t s
  | .vfscl d a b t => Sys2Proof.Machine.execVfscl d a b t s
  | .vceq d a b t => Sys2Proof.Machine.execVceq d a b t s
  | .vclt d a b t => Sys2Proof.Machine.execVclt d a b t s
  | .vcle d a b t => Sys2Proof.Machine.execVcle d a b t s
  | .vcltn d a b t => Sys2Proof.Machine.execVcltn d a b t s
  | .vand d a b => Sys2Proof.Machine.execVand d a b s
  | .vor d a b => Sys2Proof.Machine.execVor d a b s
  | .vxor d a b => Sys2Proof.Machine.execVxor d a b s
  | .vandn d a b => Sys2Proof.Machine.execVandn d a b s
  | .vsel d a b => Sys2Proof.Machine.execVsel d a b s
  | .vcvt d a n p sh t => Sys2Proof.Machine.execVcvt d a n p sh t s
  | .vcvtn d a n p sh t => Sys2Proof.Machine.execVcvtn d a n p sh t s
  | .vcvt4 d a r p t => Sys2Proof.Machine.execVcvt4 d a r p t s
  | .vpack4 d a b => Sys2Proof.Machine.execVpack4 d a b s
  | .vunpk4 d a p t => Sys2Proof.Machine.execVunpk4 d a p t s
  | .vquant g d a gx b t => Sys2Proof.Machine.execVquant g d a gx b t s
  | .vprune24 d a b t => Sys2Proof.Machine.execVprune24 d a b t s
  | .vprune48 d a b t => Sys2Proof.Machine.execVprune48 d a b t s
  | .vradd d a t => Sys2Proof.Machine.execVradd d a t s
  | .vrmax d a t => Sys2Proof.Machine.execVrmax d a t s
  | .vrmin d a t => Sys2Proof.Machine.execVrmin d a t s
  | .vperm d a b t => Sys2Proof.Machine.execVperm d a b t s
  | .vrot d a b t => Sys2Proof.Machine.execVrot d a b t s
  | .vtld d a b t => Sys2Proof.Machine.execVtld d a b t s
  | .vswap d a => Sys2Proof.Machine.execVswap d a s
  | .vld d g => Sys2Proof.Machine.execVld d g s
  | .vst d g => Sys2Proof.Machine.execVst d g s
  | .vmovg d a im t => Sys2Proof.Machine.execVmovg d a im t s
  | .vmovv d g im t => Sys2Proof.Machine.execVmovv d g im t s
  | .vmovx x g => Sys2Proof.Machine.execVmovx x g s
  | .vmovfx d x => Sys2Proof.Machine.execVmovfx d x s
  | .dadd d a b k => Sys2Proof.Machine.execDadd d a b k s
  | .dsub d a b k => Sys2Proof.Machine.execDsub d a b k s
  | .dmul d a b k => Sys2Proof.Machine.execDmul d a b k s
  | .dmax d a b k => Sys2Proof.Machine.execDmax d a b k s
  | .dmin d a b k => Sys2Proof.Machine.execDmin d a b k s
  | .dneg d a k => Sys2Proof.Machine.execDneg d a k s
  | .dld d g k => Sys2Proof.Machine.execDld d g k s
  | .dst a g => Sys2Proof.Machine.execDst a g s
  | .dmk d g k => Sys2Proof.Machine.execDmk d g k s
  | .dtag d a g k => Sys2Proof.Machine.execDtag d a g k s
  | .dsplat d g k => Sys2Proof.Machine.execDsplat d g k s
  | .dmomV v a k n => Sys2Proof.Machine.execDmomV v a k n s
  | .dmomG a g k n => Sys2Proof.Machine.execDmomG a g k n s
  | .dqntV v a g k => Sys2Proof.Machine.execDqntV v a g k s
  | .dqntG a g k => Sys2Proof.Machine.execDqntG a g k s
  | .cpStart a b => Sys2Proof.Machine.execCpStart a b s
  | .cpAbort b => Sys2Proof.Machine.execCpAbort b s
  | .cpWait b => Sys2Proof.Machine.execCpWait b s
  | .cpStatSt d b => Sys2Proof.Machine.execCpStatSt d b s
  | .cpStatWm d b => Sys2Proof.Machine.execCpStatWm d b s
  | .cpStatBc d b => Sys2Proof.Machine.execCpStatBc d b s
  | .cpStatNb d b => Sys2Proof.Machine.execCpStatNb d b s
  | .cpMbox d p => Sys2Proof.Machine.execCpMbox d p s
  | .cpEv d p => Sys2Proof.Machine.execCpEv d p s
  | .cpHalt => Sys2Proof.Machine.execCpHalt s
  | .immHi p => Sys2Proof.Machine.execImmHi p s
  | .rlx => Sys2Proof.Machine.execRlx s
  | .rep n c m => Sys2Proof.Machine.execRep n c m s
  | .ckpt => Sys2Proof.Machine.execCkpt s
  | .valueArrival n => Sys2Proof.Machine.execValueArrival n s
  | .storeAcknowledge n => Sys2Proof.Machine.execStoreAcknowledge n s
  | .remoteRequest n => Sys2Proof.Machine.execRemoteRequest n s
  | .hbmAccess n => Sys2Proof.Machine.execHbmAccess n s
  | .atomicPerform n => Sys2Proof.Machine.execAtomicPerform n s
  | .feWaiterRetry addr => Sys2Proof.Machine.execFeWaiterRetry addr s
  | .waitTableRetry n => Sys2Proof.Machine.execWaitTableRetry n s
  | .strandAdmission g => Sys2Proof.Machine.execStrandAdmission g s
  | .frameSpill g => Sys2Proof.Machine.execFrameSpill g s
  | .frameRefill g sid => Sys2Proof.Machine.execFrameRefill g sid s
  | .distributionEngineRelease g => Sys2Proof.Machine.execDistributionEngineRelease g s
  | .vectorStart g => Sys2Proof.Machine.execVectorStart g s
  | .vectorComplete g => Sys2Proof.Machine.execVectorComplete g s
  | .channelVectorArrival g ch => Sys2Proof.Machine.execChannelVectorArrival g ch s
  | .vswapVectorArrival g => Sys2Proof.Machine.execVswapVectorArrival g s
  | .matrixHeadCheck g => Sys2Proof.Machine.execMatrixHeadCheck g s
  | .matrixGateTest g => Sys2Proof.Machine.execMatrixGateTest g s
  | .mma g => Sys2Proof.Machine.execMma g s
  | .mmas g => Sys2Proof.Machine.execMmas g s
  | .tzero g => Sys2Proof.Machine.execTzero g s
  | .tload g => Sys2Proof.Machine.execTload g s
  | .tstore g => Sys2Proof.Machine.execTstore g s
  | .tscale g => Sys2Proof.Machine.execTscale g s
  | .smma24 g => Sys2Proof.Machine.execSmma24 g s
  | .smma48 g => Sys2Proof.Machine.execSmma48 g s
  | .gather g => Sys2Proof.Machine.execGather g s
  | .gmma g => Sys2Proof.Machine.execGmma g s
  | .remoteOperandChunkArrival g => Sys2Proof.Machine.execRemoteOperandChunkArrival g s
  | .gatherChunkLanding g im => Sys2Proof.Machine.execGatherChunkLanding g im s
  | .matrixCommandComplete g => Sys2Proof.Machine.execMatrixCommandComplete g s
  | .copyChunkIssue g => Sys2Proof.Machine.execCopyChunkIssue g s
  | .copyChunkLanding g ch im => Sys2Proof.Machine.execCopyChunkLanding g ch im s
  | .copyStageReleased g ch => Sys2Proof.Machine.execCopyStageReleased g ch s
  | .copyIterationLanded g ch => Sys2Proof.Machine.execCopyIterationLanded g ch s
  | .copyCommandComplete g ch => Sys2Proof.Machine.execCopyCommandComplete g ch s
  | .copyAbortComplete g ch => Sys2Proof.Machine.execCopyAbortComplete g ch s
  | .streamBlockRead cl st => Sys2Proof.Machine.execStreamBlockRead cl st s
  | .streamBlockDeliver cl st k => Sys2Proof.Machine.execStreamBlockDeliver cl st k s
  | .streamBlockRelease cl st => Sys2Proof.Machine.execStreamBlockRelease cl st s
  | .rillValueLanding g => Sys2Proof.Machine.execRillValueLanding g s
  | .rillCreditReturn g => Sys2Proof.Machine.execRillCreditReturn g s
  | .rillCloseNotice g => Sys2Proof.Machine.execRillCloseNotice g s
  | .cascadeCheckpoint g => Sys2Proof.Machine.execCascadeCheckpoint g s
  | .lockstepCheckpoint g => Sys2Proof.Machine.execLockstepCheckpoint g s
  | .lockstepMismatch g => Sys2Proof.Machine.execLockstepMismatch g s
  | .stealRequest g => Sys2Proof.Machine.execStealRequest g s
  | .stealReply g => Sys2Proof.Machine.execStealReply g s
  | .stealBackoffExpiry g => Sys2Proof.Machine.execStealBackoffExpiry g s
  | .migrationDeparture g sid => Sys2Proof.Machine.execMigrationDeparture g sid s
  | .contextMessage n => Sys2Proof.Machine.execContextMessage n s
  | .migrationRefusal n => Sys2Proof.Machine.execMigrationRefusal n s
  | .migrationResend n => Sys2Proof.Machine.execMigrationResend n s
  | .migrationAcceptance n => Sys2Proof.Machine.execMigrationAcceptance n s
  | .contextSpill g => Sys2Proof.Machine.execContextSpill g s
  | .contextRefill g => Sys2Proof.Machine.execContextRefill g s
  | .forwardingEntryExpiry g => Sys2Proof.Machine.execForwardingEntryExpiry g s
  | .forwardedMessage g n => Sys2Proof.Machine.execForwardedMessage g n s
  | .tspawnRequest n => Sys2Proof.Machine.execTspawnRequest n s
  | .tstatRequest n => Sys2Proof.Machine.execTstatRequest n s
  | .regulatorAnswer n => Sys2Proof.Machine.execRegulatorAnswer n s
  | .doorbell h q tail => Sys2Proof.Machine.execDoorbell h q tail s
  | .launchRecordRead tenant q => Sys2Proof.Machine.execLaunchRecordRead tenant q s
  | .taskRelease slot => Sys2Proof.Machine.execTaskRelease slot s
  | .gangPlacement slot cores => Sys2Proof.Machine.execGangPlacement slot cores s
  | .startMessage slot => Sys2Proof.Machine.execStartMessage slot s
  | .spawnMessage slot member => Sys2Proof.Machine.execSpawnMessage slot member s
  | .taskCompletion slot => Sys2Proof.Machine.execTaskCompletion slot s
  | .granuleStep slot => Sys2Proof.Machine.execGranuleStep slot s
  | .cisternCommit slot => Sys2Proof.Machine.execCisternCommit slot s
  | .completionRecord slot => Sys2Proof.Machine.execCompletionRecord slot s
  | .completionHead h q head => Sys2Proof.Machine.execCompletionHead h q head s
  | .fenceWait h fence v timeout => Sys2Proof.Machine.execFenceWait h fence v timeout s
  | .fenceWaitTimeout n => Sys2Proof.Machine.execFenceWaitTimeout n s
  | .taskRetirement slot => Sys2Proof.Machine.execTaskRetirement slot s
  | .taskStop slot => Sys2Proof.Machine.execTaskStop slot s
  | .faultRecordWrite slot => Sys2Proof.Machine.execFaultRecordWrite slot s
  | .sliceExpiry slot => Sys2Proof.Machine.execSliceExpiry slot s
  | .quiescenceComplete slot => Sys2Proof.Machine.execQuiescenceComplete slot s
  | .quiescenceCancel slot => Sys2Proof.Machine.execQuiescenceCancel slot s
  | .quiescenceRetry slot => Sys2Proof.Machine.execQuiescenceRetry slot s
  | .taskResume slot => Sys2Proof.Machine.execTaskResume slot s
  | .compactionEntryWrite r => Sys2Proof.Machine.execCompactionEntryWrite r s
  | .rekeySweepStep r => Sys2Proof.Machine.execRekeySweepStep r s
  | .clusterRetirementEffect cl => Sys2Proof.Machine.execClusterRetirementEffect cl s
  | .channelRetirementEffect stack ch => Sys2Proof.Machine.execChannelRetirementEffect stack ch s
  | .hostTransferChunk t => Sys2Proof.Machine.execHostTransferChunk t s
  | .groupSendSlotTake q => Sys2Proof.Machine.execGroupSendSlotTake q s
  | .collectiveChunkReceive p => Sys2Proof.Machine.execCollectiveChunkReceive p s
  | .collectiveChunkAck q im ok => Sys2Proof.Machine.execCollectiveChunkAck q im ok s
  | .packageReset fw => Sys2Proof.Machine.execPackageReset fw s
  | .reducedServiceStart => Sys2Proof.Machine.execReducedServiceStart s
  | .clusterSelfTestResult cl pass => Sys2Proof.Machine.execClusterSelfTestResult cl pass s
  | .fullServiceSwitch => Sys2Proof.Machine.execFullServiceSwitch s
  | .thermalThrottle die => Sys2Proof.Machine.execThermalThrottle die s
  | .thermalTrip die => Sys2Proof.Machine.execThermalTrip die s
  | .powerWindowExpiry watts => Sys2Proof.Machine.execPowerWindowExpiry watts s
  | .refresh cycles => Sys2Proof.Machine.execRefresh cycles s
  | .linkLayerRetry cycles => Sys2Proof.Machine.execLinkLayerRetry cycles s
  | .linkTraining port => Sys2Proof.Machine.execLinkTraining port s
  | .patrolScrub stack => Sys2Proof.Machine.execPatrolScrub stack s
  | .uncorrectableData addr => Sys2Proof.Machine.execUncorrectableData addr s
  | .gangCoreUncorrectableError g unit addr => Sys2Proof.Machine.execGangCoreUncorrectableError g unit addr s
  | .statusRead h => Sys2Proof.Machine.execStatusRead h s
  | .ownershipClaim h => Sys2Proof.Machine.execOwnershipClaim h s
  | .ownershipHandover h dst => Sys2Proof.Machine.execOwnershipHandover h dst s
  | .handoverAck h => Sys2Proof.Machine.execHandoverAck h s
  | .handoverLapse => Sys2Proof.Machine.execHandoverLapse s
  | .keepalive h => Sys2Proof.Machine.execKeepalive h s
  | .ownershipLoss => Sys2Proof.Machine.execOwnershipLoss s
  | .tenantCreate h t endpoint handler => Sys2Proof.Machine.execTenantCreate h t endpoint handler s
  | .launchQueueCreate h t q rec => Sys2Proof.Machine.execLaunchQueueCreate h t q rec s
  | .fenceCreate h t im => Sys2Proof.Machine.execFenceCreate h t im s
  | .faultRingRegister h t r => Sys2Proof.Machine.execFaultRingRegister h t r s
  | .faultSlotFree h t slot => Sys2Proof.Machine.execFaultSlotFree h t slot s
  | .regionCreate h d => Sys2Proof.Machine.execRegionCreate h d s
  | .regionFree h r => Sys2Proof.Machine.execRegionFree h r s
  | .regionRevoke h r => Sys2Proof.Machine.execRegionRevoke h r s
  | .regionQuery h r => Sys2Proof.Machine.execRegionQuery h r s
  | .regionCompact h r base => Sys2Proof.Machine.execRegionCompact h r base s
  | .regionRekey h r => Sys2Proof.Machine.execRegionRekey h r s
  | .incompleteMarkClear h r => Sys2Proof.Machine.execIncompleteMarkClear h r s
  | .memoryWindowInstall h t im w => Sys2Proof.Machine.execMemoryWindowInstall h t im w s
  | .partitionRecordInstall h p => Sys2Proof.Machine.execPartitionRecordInstall h p s
  | .sliceSet h t cycles => Sys2Proof.Machine.execSliceSet h t cycles s
  | .powerCapSet h watts => Sys2Proof.Machine.execPowerCapSet h watts s
  | .methodEntryInstall h im e => Sys2Proof.Machine.execMethodEntryInstall h im e s
  | .imageInstall h base img => Sys2Proof.Machine.execImageInstall h base img s
  | .translation o => Sys2Proof.Machine.execTranslation o s
  | .revocationListInstall h l => Sys2Proof.Machine.execRevocationListInstall h l s
  | .linkDomainCreate h d => Sys2Proof.Machine.execLinkDomainCreate h d s
  | .linkDomainDelete h dom => Sys2Proof.Machine.execLinkDomainDelete h dom s
  | .landingBind h dom im image k => Sys2Proof.Machine.execLandingBind h dom im image k s
  | .keyInstall h ct wrapped => Sys2Proof.Machine.execKeyInstall h ct wrapped s
  | .keyDestroy h handle => Sys2Proof.Machine.execKeyDestroy h handle s
  | .clusterRetire h cl => Sys2Proof.Machine.execClusterRetire h cl s
  | .channelRetire h stack ch => Sys2Proof.Machine.execChannelRetire h stack ch s
  | .returnToService h g => Sys2Proof.Machine.execReturnToService h g s
  | .portSplit h port => Sys2Proof.Machine.execPortSplit h port s
  | .viewInstall h v => Sys2Proof.Machine.execViewInstall h v s
  | .rosterInstall h v => Sys2Proof.Machine.execRosterInstall h v s
  | .groupSendQueueBind h q r port group => Sys2Proof.Machine.execGroupSendQueueBind h q r port group s
  | .migrationRound h t => Sys2Proof.Machine.execMigrationRound h t s
  | .migrationFinalRound h t => Sys2Proof.Machine.execMigrationFinalRound h t s
  | .attestationReport h nonce key image => Sys2Proof.Machine.execAttestationReport h nonce key image s
  | .tagFillLanding n => Sys2Proof.Machine.execTagFillLanding n s
  | .throttlingEnd die => Sys2Proof.Machine.execThrottlingEnd die s

end Sys2Proof.Machine
end

