-- ==== Sys2Proof/Machine/Sched.lean ====
section
/-! DEFINITION. Which move comes next. `sched` lists moves that are to come, device steps and issues; with none listed, a default
order takes the steps that the state itself allows and the issue of each agent in turn. And the smallest machine in which a given
word issues next. -/

namespace Sys2Proof.Machine

/-! ### Issue (R201, R204) -/

/-- The clock at which an agent issues: after the present, and for a strand 4 cycles after its last issue (R201); the escapement
processor issues from its own stage, which has no such interval (R201, R281). -/
def issueClk (s : State) (a : Agent) : BitVec 64 :=
  let now := s.clk + 1
  if 64 ≤ a.slot then now else
  match (kget? (coreAt s a.gcn).strands a.slot).bind fun t => t.lastIssue with
  | none => now
  | some l => if now.toNat < (l + 4).toNat then l + 4 else now

/-- The state in which an agent's turn has come. -/
def turnOf (s : State) (a : Agent) : State := { s with cur := a, clk := issueClk s a }

/-- Whether a strand of a core may issue at a cycle: it is ready and 4 cycles have passed since its last issue (R202). -/
def eligible (s : State) (g : Nat) (now : BitVec 64) (p : Nat × Strand) : Bool :=
  ready s g p && (p.2.lastIssue.map fun l => decide ((l + 4).toNat ≤ now.toNat)).getD true

/-- The strands of a core in the order of the scan from its rotation pointer (R202). -/
def scanOrder (c : Core) : List (Nat × Strand) :=
  let l := c.strands.filter fun q => decide (q.1 < 64)
  l.filter (fun q => decide (c.rot ≤ q.1)) ++ l.filter fun q => decide (q.1 < c.rot)

/-- Whether the agent that `cur` names waits with its word, which has not issued then: the word that waited is the next it issues (R204). -/
def waitsAtWord (s : State) : Bool :=
  match strandAt? s s.cur.gcn s.cur.slot with
  | none => false
  | some t => match t.wait with
    | none => false
    | some (.parked _) => false
    | some (.request _) => false
    | some .yielding => false
    | some _ => true

/-- What an agent waits for. -/
def waitAt (s : State) (a : Agent) : Option Wait := (strandAt? s a.gcn a.slot).bind fun t => t.wait

/-- What a waiting strand waits for now, as its word would find it at an issue: nothing, once its wait has ended (R204). -/
def waitNow (s : State) (a : Agent) : Option Wait :=
  match prepare { s with cur := a } with
  | .none => waitAt s a
  | .done t => if ((strandAt? t a.gcn a.slot).map fun u => u.stopped).getD false then none else waitAt t a
  | .run i t => match exec i t with
    | .next u => if waitsAtWord u then waitAt u a else none
    | _ => none

/-- What a strand is to wait for: one that would stand at the distribution engine and does not stand in its queue yet has its turn first, as
it joins the queue when it reaches issue (R136). -/
def reachWait (c : Core) (n : Nat) (w : Option Wait) : Option Wait := if w == some .distEngine && !c.distQ.contains n then none else w

/-- The strands of a core that wait, each with what it waits for now. -/
def settled (s : State) (g : Nat) : List (Nat × Option Wait) :=
  ((coreAt s g).strands.filter fun p => decide (p.1 < 64) && !p.2.stopped && p.2.wait.isSome && p.2.wait != some .yielding).map fun p =>
    (p.1, reachWait (coreAt s g) p.1 (waitNow s { gcn := g, slot := p.1 }))

/-- A strand that yielded, held back by those of its set that are still ready (R120). -/
def stillBehind (s : State) (g : Nat) (t : Strand) : Strand :=
  if t.wait ≠ some .yielding then t else
  let r := t.yieldSet.filter ((readyOthers s g 64).contains ·)
  { t with yieldSet := r, wait := if r.isEmpty then none else t.wait }

/-- The strands of a core as they are when a turn of one comes: each whose wait has ended is ready in that cycle, whichever the turn's strand
is (R120, R202, R204). -/
def settleCore (s : State) (g : Nat) : State :=
  if (coreAt s g).strands.length ≤ 1 then s else
  let l := settled s g
  let s1 := updCore s g fun c => { c with strands := c.strands.map fun p => (p.1, match kget? l p.1 with
    | some w => { p.2 with wait := w }
    | none => p.2) }
  updCore s1 g fun c => { c with strands := c.strands.map fun p => (p.1, stillBehind s1 g p.2) }

/-- The agent that issues when a strand's turn is asked for: the first in the scan of its core that is eligible in that cycle, the strand
itself counting as one (R202). An escapement processor issues from its own stage (R201). -/
def turnAgent (s : State) (a : Agent) : Agent :=
  if 64 ≤ a.slot then a else
  match (scanOrder (coreAt s a.gcn)).find? fun q => q.1 == a.slot || eligible s a.gcn (issueClk s a) q with
  | some q => { a with slot := q.1 }
  | none => a

/-- The cycle of an issue noted for the interval to the next (R201), and the rotation pointer moved past the strand (R202). -/
def stamp (s : State) : State :=
  let t := updStrand s s.cur.gcn s.cur.slot fun t => { t with lastIssue := some s.clk }
  if s.cur.slot < 64 then updCore t s.cur.gcn fun c => { c with rot := (s.cur.slot + 1) % 64 } else t

/-- A strand that has had its opportunity, or has left the rotation before it, holds back no strand that yielded (R120). -/
def pruneYields (s : State) : State :=
  let drop (p : Nat × Strand) : Nat × Strand := (p.1, { p.2 with yieldSet := sdel p.2.yieldSet s.cur.slot })
  if (coreAt s s.cur.gcn).strands.any fun p => p.2.yieldSet.contains s.cur.slot then
    updCore s s.cur.gcn fun c => { c with strands := c.strands.map drop }
  else s

/-- The end of a turn in which a word was executed: an issue, unless the word waits (R201, R202, R204). -/
def endTurn : Host.Outcome State Fault Refusal → Host.Outcome State Fault Refusal
  | .next t => .next (pruneYields (if waitsAtWord t then t else stamp t))
  | o => o

/-- The end of a turn without an executed word: a fault raised at it is an issue. -/
def endStop (t : State) : State :=
  pruneYields (if ((strandAt? t t.cur.gcn t.cur.slot).map fun u => u.stopped).getD false then stamp t else t)

/-- The state in which a turn asked for an agent begins: the strands of its core settled, and the agent that issues (R202, R204). -/
def turnFor (s : State) (a : Agent) : State :=
  let t := if a.slot < 64 then settleCore s a.gcn else s
  turnOf t (turnAgent t a)

/-- An agent's turn: what precedes its word, then the word. -/
def issueTurn (s : State) (a : Agent) : Host.Outcome State Fault Refusal :=
  match prepare (turnFor s a) with
  | .none => .refused .noIssuer
  | .done t => .next (endStop t)
  | .run i t => endTurn (exec i t)

/-- One move of the schedule. -/
def playMove (s : State) : Move → Host.Outcome State Fault Refusal
  | .event i => exec i s
  | .issue a => issueTurn s a

/-! ### The default order -/

/-- A device step with its operands. -/
abbrev Step := State → Host.Outcome State Fault Refusal

/-- The device steps that a core may take. -/
def coreMoves (g : Nat) (c : Core) : List Step :=
  [execVectorComplete g, execVectorStart g, execVswapVectorArrival g, execMatrixHeadCheck g, execMatrixGateTest g, execMma g, execMmas g, execTzero g, execTload g,
   execTstore g, execTscale g, execSmma24 g, execSmma48 g, execGather g, execGmma g, execRemoteOperandChunkArrival g, execMatrixCommandComplete g] ++
  [execCopyChunkIssue g, execRillValueLanding g, execRillCreditReturn g, execRillCloseNotice g, execCascadeCheckpoint g, execLockstepCheckpoint g,
   execStealRequest g, execStealReply g, execStealBackoffExpiry g, execContextRefill g, execContextSpill g, execStrandAdmission g,
   execFrameSpill g, execDistributionEngineRelease g, execForwardingEntryExpiry g] ++
  (List.range 4).map (execChannelVectorArrival g) ++ (List.range (c.mrun.map fun r => r.chunks.length).toList.sum).map (execGatherChunkLanding g) ++
  c.channels.flatMap (fun p => (List.range p.2.flight.length).map (execCopyChunkLanding g p.1) ++
    [execCopyStageReleased g p.1, execCopyIterationLanded g p.1, execCopyCommandComplete g p.1, execCopyAbortComplete g p.1]) ++
  c.strands.flatMap fun p => (p.2.pending.map fun q => execValueArrival q.id) ++ [execFrameRefill g p.1, execMigrationDeparture g p.1]

/-- The steps that an access in flight may take. -/
def accessMoves (a : Access) : List Step :=
  [execValueArrival a.id, execStoreAcknowledge a.id, execRemoteRequest a.id, execHbmAccess a.id, execAtomicPerform a.id, execWaitTableRetry a.id, execTagFillLanding a.id]

/-- The steps that a task may take. -/
def taskMoves (s : State) (k : Nat) (t : Task) : List Step :=
  [execTaskStop k, execFaultRecordWrite k, execTaskCompletion k, execGranuleStep k, execCisternCommit k, execCompletionRecord k, execTaskRetirement k, execTaskRelease k,
   execQuiescenceComplete k, execQuiescenceCancel k, execQuiescenceRetry k, execTaskResume k, execStartMessage k, execSliceExpiry k] ++
  (t.spawnsLeft.map fun p => execSpawnMessage k p.1) ++
  (if t.state ≤ 1 ∧ t.method.isSome = true then
    (match t.bound with
      | some g => [execGangPlacement k [g]]
      | none => (choosePlacement s t).toList.map (execGangPlacement k))
   else [])

/-- The steps that follow from the state alone. -/
def ownMoves (s : State) : List Step :=
  s.accs.flatMap accessMoves ++ (s.accs.filter fun a => a.parked).map (fun a => execFeWaiterRetry a.addr) ++
  s.cores.flatMap (fun p => coreMoves p.1 p.2) ++
  s.flights.flatMap (fun f => [execContextMessage f.id, execMigrationRefusal f.id, execMigrationResend f.id, execMigrationAcceptance f.id]) ++
  s.reqs.flatMap (fun r => [execTspawnRequest r.id, execTstatRequest r.id, execRegulatorAnswer r.id]) ++
  s.streams.flatMap (fun p => [execStreamBlockRead (p.1 / 64) (p.1 % 64), execStreamBlockRelease (p.1 / 64) (p.1 % 64)] ++
    (List.range 16).map (execStreamBlockDeliver (p.1 / 64) (p.1 % 64))) ++
  s.tenants.flatMap (fun p => p.2.queues.map fun q => execLaunchRecordRead p.1 q.1) ++
  s.tasks.flatMap (fun p => taskMoves s p.1 p.2) ++
  s.regions.flatMap (fun p => [execCompactionEntryWrite p.1, execRekeySweepStep p.1]) ++
  s.retiring.map execClusterRetirementEffect ++ s.chanPending.map (fun p => execChannelRetirementEffect p.1 p.2) ++
  s.sendqs.map (fun p => execGroupSendSlotTake p.1) ++ [execHandoverLapse, execOwnershipLoss]

/-- A list begun at another place. -/
def turned {α : Type} (l : List α) (n : Nat) : List α := if l.isEmpty then l else l.drop (n % l.length) ++ l.take (n % l.length)

/-- The first step of a list that changes the state. -/
def firstStep (s : State) : List Step → Option State
  | [] => none
  | f :: r => match f s with
    | .next t => if t = s then firstStep s r else some t
    | _ => firstStep s r

/-- Whether a core's escapement processor may issue. -/
def epRuns (c : Core) : Bool := !c.epHalted && ((kget? c.strands 64).map fun t => !t.stopped).getD false

/-- The strand of a core whose turn comes: the first eligible one of the scan (R202), or, in every other turn and with none eligible, a
waiting one, so that its wait is looked at again (R204). -/
def strandTurn (s : State) (g : Nat) (c : Core) : Option Nat :=
  let order := (scanOrder c).filter fun q => !q.2.stopped
  let waiting := order.filter fun q => q.2.wait.isSome
  let again := (waiting[s.clk.toNat / 4 % max waiting.length 1]?).map fun q => q.1
  let ready := (order.find? fun q => eligible s g (s.clk + 1) q).map fun q => q.1
  if s.clk.toNat / 2 % 2 = 0 then (match ready with
      | some n => some n
      | none => again)
  else match again with
    | some n => some n
    | none => ready

/-- The agent of a core whose turn comes: a strand, or the escapement processor where no strand may issue. -/
def coreTurn (s : State) (p : Nat × Core) : Option Agent :=
  match strandTurn s p.1 p.2 with
  | some n => some { gcn := p.1, slot := n }
  | none => if epRuns p.2 then some { gcn := p.1, slot := 64 } else none

/-- The agent whose turn comes after another's: the escapement processor after a strand of its core, else an agent of the next core. -/
def nextAgent (s : State) : Option Agent :=
  if s.cur.slot ≠ 64 && epRuns (coreAt s s.cur.gcn) then some { gcn := s.cur.gcn, slot := 64 }
  else
    let l := s.cores.filterMap (coreTurn s)
    match l.find? fun a => decide (s.cur.gcn < a.gcn) with
    | some a => some a
    | none => l.head?

/-- With no move listed, a step of the state's own and the turn of an agent alternate; with neither, the clock advances. -/
def defaultMove (s : State) : Host.Outcome State Fault Refusal :=
  let s := { s with clk := s.clk + 1 }
  let own := firstStep s (turned (ownMoves s) s.clk.toNat)
  let turn := nextAgent s
  match own, turn with
  | some t, none => .next t
  | some t, some a => if s.clk.toNat % 2 = 0 then .next t else issueTurn s a
  | none, some a => issueTurn s a
  | none, none => .next s

/-- The next move: the first listed, or one of the default order. -/
def playNext (s : State) : Host.Outcome State Fault Refusal :=
  match s.sched with
  | [] => defaultMove s
  | m :: r => playMove { s with sched := r } m

/-! ### A machine about to issue one word -/

/-- Where the word of `probe` lies: the first body byte that an image may have (R440). -/
def probePc : Nat := 0xFD00200100

/-- A strand of the largest shape, or the escapement processor's slot, about to issue the word at that address (R29, R281). -/
def probeStrand (ep : Bool) : Strand :=
  { Strand.blank with shapeW := if ep then 64 else 120, shapeV := if ep then 0 else 32, shapeD := if ep then 0 else 8, pc := BitVec.ofNat 48 probePc }

/-- The core on which it runs. -/
def probeCore (ep : Bool) : Core :=
  { Core.idle with task := some 0, epHalted := !ep, strands := [(if ep then 64 else 0, probeStrand ep)] }

/-- The task that it runs for: one core, running, its image the one placed. -/
def probeTask (s : State) : Task :=
  { newTask s 0 1 0 0 0 .user 1 with state := 2, image := 1, members := [0], started := true }

/-- The image that holds the word: a header that gives a body of 4 bytes (R425). -/
def probeImage : Image := { header := BitVec.ofNat 2048 (1 + 4 * 2 ^ 192), base := probePc, amap := [] }

/-- The state with one word placed and its issue the next move; majors 42 to 45 issue from the escapement processor (R77). -/
def probe (s : State) (w : Nat) : State :=
  let ep := decide (42 ≤ w / 2 ^ 26) && decide (w / 2 ^ 26 ≤ 45)
  let s1 := pokeRaw s probePc (leBytes 4 w)
  { s1 with
      service := .full, cur := { gcn := 0, slot := if ep then 64 else 0 }, sched := [.issue { gcn := 0, slot := if ep then 64 else 0 }],
      cores := kset s.cores 0 (probeCore ep), tasks := kset s.tasks 0 (probeTask s), images := kset s.images 1 probeImage }

end Sys2Proof.Machine
end

