-- ==== Sys2Proof/Machine/Step.lean ====
section
/-! DEFINITION. One step of the machine: the next move of its schedule. -/

namespace Sys2Proof.Machine

/-- One step. A halted package offers no service; only a reset, the next move, is taken (R502). -/
def step (s : State) : Host.Outcome State Fault Refusal :=
  if s.service = .halted then
    match s.sched with
    | .event (.packageReset l) :: r => playMove { s with sched := r } (.event (.packageReset l))
    | _ => .fault .packageHalted
  else playNext s

/-- The state with a word placed where the next step fetches and runs it. -/
def State.withFetchWord (s : State) (nbits w : Nat) : State := probe s (w % 2 ^ nbits)

end Sys2Proof.Machine
end

