-- ==== Sys2Proof/Safety.lean ====
section
/-! DEFINITION. The terms that claims use: a word that its agent may issue, with the operands it reads; what an instruction
leaves as it was; safe steps and runs. -/

namespace Sys2Proof.Machine

/-! ### A word that issues -/

/-- How many source fields of a word name `qin` (R35). -/
def popsOf (i : Instr) : Nat := (usesOf i).src.count 121

/-- The agent that issues is x, and the word i passes all that stands before its effect: it is legal for x (R34, R77, R282),
meets no lookahead hazard (R85), and finds the values it pops and the credit it pushes with (R319, R320, R326). -/
structure Issues (s : State) (x : Iss) (i : Instr) : Prop where
  issuer : issuer? s = some x
  legal : legalFor x i = true
  noHazard : hazard s x i = none
  mayPop : 0 < popsOf i → x.c.rill.closed = false →
    markerNext x.c.rill = false ∧ accessReady s x.g x.sid false = true ∧ popsOf i ≤ rillCount x.c.rill
  mayPush : 122 ∈ (usesOf i).dst → (usesOf i).late = false → pushReady s x.g x.sid = true

/-- The operand values that the word reads (R35, R92). -/
def inputs (s : State) (x : Iss) (i : Instr) : List Word := sourceVals x.t (usesOf i).src (popQin s x (popsOf i)).1

/-- Input number n. -/
def input (s : State) (x : Iss) (i : Instr) (n : Nat) : Word := (inputs s x i).getD n 0

/-- The state once the word has read its operands, values popped (R319). -/
def afterReads (s : State) (x : Iss) (i : Instr) : State := (popQin s x (popsOf i)).2

/-- The word completes: the value v goes to d, where `zr` discards and `qout` pushes, the flags f are merged, and the strand goes
on to its next word (R33, R92, R94). -/
def Computes (s : State) (x : Iss) (i : Instr) (d : RCode) (v : Word) (f : Flags) : Prop :=
  exec i s = .next (finish (afterReads s x i) x d (v, f))

/-! ### Engines and accesses -/

/-- The V-form words that the vector engine executes from its queue, but `vld` and `vst` (R219). -/
def queuedWord : Instr → Bool
  | .vadd _ _ _ _ => true
  | .vsub _ _ _ _ => true
  | .vmul _ _ _ _ => true
  | .vmulh _ _ _ _ => true
  | .vmin _ _ _ _ => true
  | .vmax _ _ _ _ => true
  | .vminn _ _ _ _ => true
  | .vmaxn _ _ _ _ => true
  | .vadds _ _ _ _ => true
  | .vsubs _ _ _ _ => true
  | .vaddsn _ _ _ _ => true
  | .vsubsn _ _ _ _ => true
  | .vabs _ _ _ => true
  | .vneg _ _ _ => true
  | .vshl _ _ _ _ => true
  | .vshr _ _ _ _ => true
  | .vsra _ _ _ _ => true
  | .vdot _ _ _ _ => true
  | .vwadd _ _ _ _ => true
  | .vwmul _ _ _ _ => true
  | .vfadd _ _ _ _ => true
  | .vfsub _ _ _ _ => true
  | .vfmul _ _ _ _ => true
  | .vfdiv _ _ _ _ => true
  | .vfmac _ _ _ _ => true
  | .vfmin _ _ _ _ => true
  | .vfmax _ _ _ _ => true
  | .vfabs _ _ _ => true
  | .vfneg _ _ _ => true
  | .vfsqrt _ _ _ => true
  | .vfscl _ _ _ _ => true
  | .vceq _ _ _ _ => true
  | .vclt _ _ _ _ => true
  | .vcle _ _ _ _ => true
  | .vcltn _ _ _ _ => true
  | .vand _ _ _ => true
  | .vor _ _ _ => true
  | .vxor _ _ _ => true
  | .vandn _ _ _ => true
  | .vsel _ _ _ => true
  | .vcvt _ _ _ _ _ _ => true
  | .vcvtn _ _ _ _ _ _ => true
  | .vcvt4 _ _ _ _ _ => true
  | .vpack4 _ _ _ => true
  | .vunpk4 _ _ _ _ => true
  | .vquant _ _ _ _ _ _ => true
  | .vprune24 _ _ _ _ => true
  | .vprune48 _ _ _ _ => true
  | .vradd _ _ _ => true
  | .vrmax _ _ _ => true
  | .vrmin _ _ _ => true
  | .vperm _ _ _ _ => true
  | .vrot _ _ _ _ => true
  | .vtld _ _ _ _ => true
  | .vswap _ _ => true
  | _ => false

/-- An access that reaches its bank is performed: if a full wait table turned it away, 256 cycles have passed since (R172); its core does not
stand quiesced (R450), nothing earlier holds it back (R182, R384), no watermark guard does (R173), and its test passes (R171). -/
def Access.Ready (s : State) (a : Access) : Prop :=
  accAt? s a.id = some a ∧ a.performed = false ∧ a.parked = false ∧ a.mayRepeat s = true ∧ coreHeld s a.gcn = false ∧ mayPerform s a = true ∧ guardHolds s a = false ∧ testPasses s a = true

/-- What a word of a roaming strand does whose access lies in the slot of another enabled core: at a member of its gang the strand waits to
migrate there, and with a pending entry open it takes the instruction fault 0x0005; elsewhere it takes the access fault 0x0009 (R371, R372). -/
def Roams (s : State) (x : Iss) (i : Instr) (a : Nat) (addr : Word) : Prop :=
  x.t.roaming = true → isSpad a = true → slotOf a ≠ x.g → coreDisabled s (slotOf a) = false → ∀ T, taskOn s x.g = some T →
    (slotOf a ∈ T.members → x.t.pending = [] → exec i s = .next (waitFor s x (.migrate (slotOf a)))) ∧
    (slotOf a ∈ T.members → x.t.pending ≠ [] → exec i s = .next (raiseAt s x 0 5 0 0 63)) ∧
    (slotOf a ∉ T.members → exec i s = .next (raiseAt s x 1 9 0 addr.toNat 63))

/-- Whether a byte is the copy, in the second scratchpad of a lock-step pair, of one of n bytes from an address (R210). -/
def twinByte (s : State) (a n b : Nat) : Prop :=
  2 ^ 21 ≤ b ∧ a ≤ b - 2 ^ 21 ∧ b - 2 ^ 21 < a + n ∧ isSpad (b - 2 ^ 21) = true ∧ (coreAt s (slotOf (b - 2 ^ 21))).lock.isSome = true

/-! ### Frames -/

/-- The general registers that a word may write: its destinations, the registers that it reads and writes, a pair's two, and the count of
a `rep` that governs it (R33, R90, R99). -/
def mayWrite (t : Strand) (i : Instr) (q : RCode) : Bool :=
  (usesOf i).dst.contains q || (usesOf i).rw.contains q || (usesOf i).pair.any (fun d => d != 120 && (d == q || d.toNat + 1 == q.toNat)) ||
  (match t.hint with
    | .rep _ _ _ c _ => c == q
    | _ => false)

/-- The words that may merge flags when they issue: saturating arithmetic (R95), scalar floats (R108), `mx.wait` (R251), and words that
touch memory at issue, for `hole` (R19). -/
def mayFlag (i : Instr) : Bool :=
  (match i with
    | .adds _ _ _ => true
    | .subs _ _ _ => true
    | .addsn _ _ _ => true
    | .subsn _ _ _ => true
    | .mxIssue _ => true
    | .mxIssueMeta _ _ => true
    | .mxWait => true
    | .mts _ n => n == 4
    | .join _ => true
    | .dst _ _ => true
    | .cpStart _ _ => true
    | _ => false) || [14, 22, 24].contains (majorOf i)

/-- The words that write predicates: compares (R86), predicate logic (R105), `fork` (R117), and the pops of the movement program (R299). -/
def mayPredicate (i : Instr) : Bool :=
  (match i with
    | .fork _ _ _ => true
    | .forkRCarry8 _ _ _ => true
    | .forkRCarry16 _ _ _ => true
    | .forkRCarry24 _ _ _ => true
    | .cpMbox _ _ => true
    | .cpEv _ _ => true
    | _ => false) || [11, 12, 13].contains (majorOf i)

/-! ### Safe steps and runs -/

/-- No step of the machine stops here with a fault of the model; a refusal says only that a listed move cannot happen. -/
def SafeStep (s : State) : Prop := ∀ f, step s ≠ .fault f

/-- The states that n steps from here may pass through are safe. -/
def SafeRun : Nat → State → Prop
  | 0, _ => True
  | n + 1, s => SafeStep s ∧ ∀ t, step s = .next t → SafeRun n t

/-- No task of the machine has a fault raised against it (R122, R123). -/
def Unfaulted (s : State) : Prop := ∀ p ∈ s.tasks, p.2.faults = []

/-- A step of the machine raises no ZN9 fault: it goes from a state without one only to states without one. -/
def QuietStep (s : State) : Prop := Unfaulted s → ∀ t, step s = .next t → Unfaulted t

end Sys2Proof.Machine
end

