-- ==== Sys2Proof/Certificates/Slice0/Obligations.lean ====
section
/-! DEFINITION. The statements for the provers. -/

open Sys2Proof Sys2Proof.Machine

/-- R95: what each word of major 1 writes and the flags it sets, for every register it may name, and its encoding. R97, R98: the immediate, with the payload of a governing `imm.hi`, and what the immediate forms and immediate shifts write. -/
def Obligations.IntegerWordsCompute : Prop :=
  (∀ (s : State) (x : Iss) (i : Instr) (d a b : RCode), Issues s x i →
     let A := input s x i 0
     let B := input s x i 1
     (i = .add d a b → Computes s x i d (BitVec.ofNat 64 (A.toNat + B.toNat)) 0) ∧
     (i = .sub d a b → Computes s x i d (BitVec.ofNat 64 (2 ^ 64 + A.toNat - B.toNat)) 0) ∧
     (i = .and d a b → Computes s x i d (A &&& B) 0) ∧
     (i = .or d a b → Computes s x i d (A ||| B) 0) ∧
     (i = .xor d a b → Computes s x i d (A ^^^ B) 0) ∧
     (i = .andn d a b → Computes s x i d (A &&& ~~~B) 0) ∧
     (i = .orn d a b → Computes s x i d (A ||| ~~~B) 0) ∧
     (i = .sll d a b → Computes s x i d (BitVec.ofNat 64 (A.toNat * 2 ^ (B.toNat % 64))) 0) ∧
     (i = .srl d a b → Computes s x i d (BitVec.ofNat 64 (A.toNat / 2 ^ (B.toNat % 64))) 0) ∧
     (i = .sra d a b → Computes s x i d (BitVec.ofInt 64 (A.toInt / 2 ^ (B.toNat % 64))) 0) ∧
     (i = .slt d a b → Computes s x i d (if A.toInt < B.toInt then 1 else 0) 0) ∧
     (i = .sltn d a b → Computes s x i d (if A.toNat < B.toNat then 1 else 0) 0) ∧
     (i = .min d a b → Computes s x i d (BitVec.ofInt 64 (min A.toInt B.toInt)) 0) ∧
     (i = .max d a b → Computes s x i d (BitVec.ofInt 64 (max A.toInt B.toInt)) 0) ∧
     (i = .minn d a b → Computes s x i d (BitVec.ofNat 64 (min A.toNat B.toNat)) 0) ∧
     (i = .maxn d a b → Computes s x i d (BitVec.ofNat 64 (max A.toNat B.toNat)) 0) ∧
     (i = .adds d a b → let v := A.toInt + B.toInt
       Computes s x i d (BitVec.ofInt 64 (max (-2 ^ 63) (min (2 ^ 63 - 1) v))) (if v < -2 ^ 63 ∨ 2 ^ 63 - 1 < v then fSat else 0)) ∧
     (i = .subs d a b → let v := A.toInt - B.toInt
       Computes s x i d (BitVec.ofInt 64 (max (-2 ^ 63) (min (2 ^ 63 - 1) v))) (if v < -2 ^ 63 ∨ 2 ^ 63 - 1 < v then fSat else 0)) ∧
     (i = .addsn d a b → let v := A.toNat + B.toNat
       Computes s x i d (BitVec.ofNat 64 (min (2 ^ 64 - 1) v)) (if 2 ^ 64 - 1 < v then fSat else 0)) ∧
     (i = .subsn d a b →
       Computes s x i d (BitVec.ofNat 64 (A.toNat - B.toNat)) (if A.toNat < B.toNat then fSat else 0)) ∧
     (let coded := fun (p : Instr × Nat) => encode p.1 = some (2 ^ 26 + d.toNat * 2 ^ 19 + a.toNat * 2 ^ 12 + b.toNat * 2 ^ 5 + p.2)
      (∀ p ∈ [(Instr.add d a b, 0), (.sub d a b, 1), (.and d a b, 2), (.or d a b, 3), (.xor d a b, 4), (.andn d a b, 5), (.orn d a b, 6)], coded p) ∧
      (∀ p ∈ [(Instr.sll d a b, 7), (.srl d a b, 8), (.sra d a b, 9), (.slt d a b, 10), (.sltn d a b, 11), (.min d a b, 12), (.max d a b, 13)], coded p) ∧
      (∀ p ∈ [(Instr.minn d a b, 14), (.maxn d a b, 15), (.adds d a b, 16), (.subs d a b, 17), (.addsn d a b, 18), (.subsn d a b, 19)], coded p)) ∧
     (∀ w < 2 ^ 32, w / 2 ^ 26 = 1 → 20 ≤ w % 2 ^ 5 → ∃ e, decodeWord w = .error e)) ∧
  (∀ (s : State) (x : Iss) (i : Instr) (d a : RCode) (m : BitVec 12) (n : BitVec 6), Issues s x i →
     let A := input s x i 0
     let M : Word := match x.t.hint with
       | .immHi _ p => BitVec.ofInt 64 (p.toInt * 2 ^ 12 + m.toNat)
       | _ => BitVec.ofInt 64 m.toInt
     (i = .addi d a m → Computes s x i d (BitVec.ofNat 64 (A.toNat + M.toNat)) 0) ∧
     (i = .andi d a m → Computes s x i d (A &&& M) 0) ∧
     (i = .ori d a m → Computes s x i d (A ||| M) 0) ∧
     (i = .xori d a m → Computes s x i d (A ^^^ M) 0) ∧
     (i = .slti d a m → Computes s x i d (if A.toInt < M.toInt then 1 else 0) 0) ∧
     (i = .sltni d a m → Computes s x i d (if A.toNat < M.toNat then 1 else 0) 0) ∧
     (i = .slli d a n → Computes s x i d (BitVec.ofNat 64 (A.toNat * 2 ^ n.toNat)) 0) ∧
     (i = .srli d a n → Computes s x i d (BitVec.ofNat 64 (A.toNat / 2 ^ n.toNat)) 0) ∧
     (i = .srai d a n → Computes s x i d (BitVec.ofInt 64 (A.toInt / 2 ^ n.toNat)) 0) ∧
     (i = .rori d a n → ∃ v : Word, (∀ j < 64, v.getLsbD j = A.getLsbD ((j + n.toNat) % 64)) ∧ Computes s x i d v 0) ∧
     (∀ p ∈ [(Instr.addi d a m, 4), (.andi d a m, 5), (.ori d a m, 6), (.xori d a m, 7), (.slti d a m, 9), (.sltni d a m, 10)],
       encode p.1 = some (p.2 * 2 ^ 26 + d.toNat * 2 ^ 19 + a.toNat * 2 ^ 12 + m.toNat)) ∧
     (∀ p ∈ [(Instr.slli d a n, 0), (.srli d a n, 1), (.srai d a n, 2), (.rori d a n, 3)],
       encode p.1 = some (8 * 2 ^ 26 + d.toNat * 2 ^ 19 + a.toNat * 2 ^ 12 + p.2 * 2 ^ 6 + n.toNat) ∧ ∀ q y, hintOk (.immHi q y) p.1 = false) ∧
     (∀ w < 2 ^ 32, w / 2 ^ 26 = 8 → w / 2 ^ 8 % 2 ^ 4 ≠ 0 → ∃ e, decodeWord w = .error e))

/-- R96: what each word of major 2 writes, with its encoding; none sets a flag. R100 to R102: `mul` and `div` at issue leave a pending entry with the pair and the flags that the window's close will write. -/
def Obligations.BitWordsMultiplyAndDivide : Prop :=
  (∀ (s : State) (x : Iss) (i : Instr) (d a b : RCode), Issues s x i →
     let A := input s x i 0
     let n := (input s x i 1).toNat % 64
     (i = .clz d a → ∃ k ≤ 64, (∀ j < k, A.getMsbD j = false) ∧ (k < 64 → A.getMsbD k = true) ∧ Computes s x i d (BitVec.ofNat 64 k) 0) ∧
     (i = .ctz d a → ∃ k ≤ 64, (∀ j < k, A.getLsbD j = false) ∧ (k < 64 → A.getLsbD k = true) ∧ Computes s x i d (BitVec.ofNat 64 k) 0) ∧
     (i = .popc d a → Computes s x i d (BitVec.ofNat 64 ((List.range 64).countP fun j => A.getLsbD j)) 0) ∧
     (i = .brev d a → ∃ v : Word, (∀ j < 64, v.getLsbD j = A.getLsbD (63 - j)) ∧ Computes s x i d v 0) ∧
     (i = .bswap d a → ∃ v : Word, (∀ j < 8, v.extractLsb' (8 * j) 8 = A.extractLsb' (8 * (7 - j)) 8) ∧ Computes s x i d v 0) ∧
     (i = .rol d a b → ∃ v : Word, (∀ j < 64, v.getLsbD ((j + n) % 64) = A.getLsbD j) ∧ Computes s x i d v 0) ∧
     (i = .ror d a b → ∃ v : Word, (∀ j < 64, v.getLsbD j = A.getLsbD ((j + n) % 64)) ∧ Computes s x i d v 0) ∧
     (∀ w : BitVec 7, i = .sext d a w → ∃ v : Word,
       (∀ j < 64, v.getLsbD j = A.getLsbD (min j (w.toNat - 1))) ∧ Computes s x i d v 0) ∧
     (∀ w : BitVec 7, i = .zext d a w → Computes s x i d (BitVec.ofNat 64 (A.toNat % 2 ^ w.toNat)) 0) ∧
     (∀ p ∈ [(Instr.clz d a, 0), (.ctz d a, 1), (.popc d a, 2), (.brev d a, 3), (.bswap d a, 4)],
       encode p.1 = some (2 * 2 ^ 26 + d.toNat * 2 ^ 19 + a.toNat * 2 ^ 12 + p.2)) ∧
     (∀ p ∈ [(Instr.rol d a b, 5), (.ror d a b, 6), (.sext d a b, 7), (.zext d a b, 8)],
       encode p.1 = some (2 * 2 ^ 26 + d.toNat * 2 ^ 19 + a.toNat * 2 ^ 12 + b.toNat * 2 ^ 5 + p.2)) ∧
     (∀ w < 2 ^ 32, w / 2 ^ 26 = 2 → (9 ≤ w % 2 ^ 5 ∨ (w % 2 ^ 5 < 5 ∧ w / 2 ^ 5 % 2 ^ 7 ≠ 0)) → ∃ e, decodeWord w = .error e) ∧
     ((i = .sext d a b ∨ i = .zext d a b) → 1 ≤ b.toNat ∧ b.toNat ≤ 63)) ∧
  (∀ (s : State) (x : Iss) (i : Instr) (d a b : RCode) (k : BitVec 4), Issues s x i →
     let A := input s x i 0
     let B := input s x i 1
     (i = .mul d a b k → ∃ lo hi : Word, hi.toInt * 2 ^ 64 + lo.toNat = A.toInt * B.toInt ∧
       exec i s = .next (issueLate (afterReads s x i) x (.pair d) k (.pair lo hi) 0)) ∧
     (i = .div d a b k → ∃ (q r : Word) (f : Flags),
       (B = 0 → q = 0xFFFFFFFFFFFFFFFF ∧ r = A ∧ f = fDz) ∧
       (B ≠ 0 → A.toInt = -2 ^ 63 ∧ B.toInt = -1 → q = 0x8000000000000000 ∧ r = 0 ∧ f = fOf) ∧
       (B ≠ 0 → ¬(A.toInt = -2 ^ 63 ∧ B.toInt = -1) → f = 0 ∧ A.toInt = q.toInt * B.toInt + r.toInt ∧
         r.toInt.natAbs < B.toInt.natAbs ∧ (r.toInt = 0 ∨ (r.toInt < 0 ↔ A.toInt < 0))) ∧
       exec i s = .next (issueLate (afterReads s x i) x (.pair d) k (.pair q r) f)))

/-- R108, R109: what each word of major 14 writes and the flags it merges. R57, R58, R60 to R63, R67 to R69, R108, R109: what these operations give for values of every format: a sum and a product are the exact value
rounded once, a quotient and a square root are rounded once from enough places with all that is left of the value below them, a multiply-add is
one rounding of the exact sum; NaNs, infinities and zeros; the order of values, the choice of the lesser or greater, comparison; rounding to an
integer and between its bounds, and back. -/
def Obligations.ScalarFloat : Prop :=
  (∀ (s : State) (x : Iss) (i : Instr) (d a b : RCode), Issues s x i →
     let A := input s x i 0
     let B := input s x i 1
     let fa := f32.decode (A.toNat % 2 ^ 32)
     let fb := f32.decode (B.toNat % 2 ^ 32)
     let rounded := fun (r : Nat × Flags) => Computes s x i d (BitVec.ofNat 64 r.1) r.2
     (i = .fadd d a b → rounded (f32.add x.t.rnd fa fb)) ∧
     (i = .fsub d a b → rounded (f32.add x.t.rnd fa fb.neg)) ∧
     (i = .fmul d a b → rounded (f32.mul x.t.rnd fa fb)) ∧
     (i = .fdiv d a b → rounded (f32.div x.t.rnd fa fb)) ∧
     (i = .fmac d a b → rounded (f32.mac x.t.rnd (f32.decode ((x.t.gen d).toNat % 2 ^ 32)) fa fb)) ∧
     (i = .fsqrt d a → rounded (f32.sqrt x.t.rnd fa)) ∧
     (i = .fmin d a b → rounded (f32.minmax false (A.toNat % 2 ^ 32) (B.toNat % 2 ^ 32))) ∧
     (i = .fmax d a b → rounded (f32.minmax true (A.toNat % 2 ^ 32) (B.toNat % 2 ^ 32))) ∧
     (i = .fabs d a → Computes s x i d (A &&& 0x7FFFFFFF) 0) ∧
     (i = .fneg d a → Computes s x i d ((A &&& 0xFFFFFFFF) ^^^ 0x80000000) 0) ∧
     (i = .feq d a b → let r := f32.cmpEq (A.toNat % 2 ^ 32) (B.toNat % 2 ^ 32)
       Computes s x i d (if r.1 then 1 else 0) r.2) ∧
     (i = .flt d a b → let r := f32.cmpLt false (A.toNat % 2 ^ 32) (B.toNat % 2 ^ 32)
       Computes s x i d (if r.1 then 1 else 0) r.2) ∧
     (i = .fle d a b → let r := f32.cmpLt true (A.toNat % 2 ^ 32) (B.toNat % 2 ^ 32)
       Computes s x i d (if r.1 then 1 else 0) r.2) ∧
     (i = .fcvtI d a → let r := floatToInt x.t.rnd (-2 ^ 63) (2 ^ 63 - 1) fa
       Computes s x i d (BitVec.ofInt 64 r.1) r.2) ∧
     (i = .fcvtN d a → let r := floatToInt x.t.rnd 0 (2 ^ 64 - 1) fa
       Computes s x i d (BitVec.ofInt 64 r.1) r.2) ∧
     (i = .icvtF d a → rounded (f32.ofInt x.t.rnd A.toInt)) ∧
     (i = .ncvtF d a → rounded (f32.ofInt x.t.rnd A.toNat))) ∧
  (∀ (F : FFmt) (m : BitVec 2) (x y z : FVal) (na nb : Bool) (ma mb : Nat) (ea eb : Int), F ∈ [f8e4, f8e5, f16, b16, f32] →
     let sn := fun (l : List FVal) => if l.any FVal.isSnan then fNv else (0 : Flags)
     let zero := fun (n : Bool) => ((if n then F.signBit else 0, 0) : Nat × Flags)
     let invalid : Nat × Flags := (F.cnan, fNv)
     let a : FVal := .fin na ma ea
     let b : FVal := .fin nb mb eb
     let e := min ea eb
     let A : Int := (if na then -1 else 1) * (ma * 2 ^ (ea - e).toNat : Nat)
     let B : Int := (if nb then -1 else 1) * (mb * 2 ^ (eb - e).toNat : Nat)
     let s := na != nb
     (x.isNan = true ∨ y.isNan = true → F.add m x y = (F.cnan, sn [x, y]) ∧ F.mul m x y = (F.cnan, sn [x, y]) ∧ F.div m x y = (F.cnan, sn [x, y]) ∧
       F.mac m z x y = (F.cnan, sn [x, y, z]) ∧ x.lt y = false) ∧
     F.add m a b = (if A + B = 0 then zero (if na = nb then na else m == 2) else F.round m (decide (A + B < 0)) (A + B).natAbs e) ∧
     F.add m (.inf na) b = F.infinity na ∧ F.add m a (.inf nb) = F.infinity nb ∧
     F.add m (.inf na) (.inf nb) = (if na = nb then F.infinity na else invalid) ∧
     F.mul m a b = F.round m s (ma * mb) (ea + eb) ∧ F.mul m (.inf na) (.inf nb) = F.infinity s ∧
     F.mul m (.inf na) b = (if mb = 0 then invalid else F.infinity s) ∧ F.mul m a (.inf nb) = (if ma = 0 then invalid else F.infinity s) ∧
     F.mac m z a b = F.add m z (.fin s (ma * mb) (ea + eb)) ∧ F.mac m z (.inf na) (.inf nb) = F.add m z (.inf s) ∧
     F.mac m z (.inf na) b = (if mb = 0 then invalid else F.add m z (.inf s)) ∧ F.mac m z a (.inf nb) = (if ma = 0 then invalid else F.add m z (.inf s)) ∧
     (0 < ma → 0 < mb → ∃ N, N / 2 = ma * 2 ^ 64 / mb ∧ (N % 2 = 0 ↔ ma * 2 ^ 64 % mb = 0) ∧ F.div m a b = F.round m s N (ea - eb - 65)) ∧
     (ma = 0 → 0 < mb → F.div m a b = zero s) ∧ (0 < ma → mb = 0 → F.div m a b = ((F.infinity s).1, (F.infinity s).2 ||| fDz)) ∧
     (ma = 0 → mb = 0 → F.div m a b = invalid) ∧ F.div m (.inf na) (.inf nb) = invalid ∧ F.div m (.inf na) b = F.infinity s ∧ F.div m a (.inf nb) = zero s ∧
     (0 < ma → na = false → let M := (if ea % 2 = 0 then ma else 2 * ma) * 2 ^ 80
       ∃ R N, R * R ≤ M ∧ M < (R + 1) * (R + 1) ∧ N / 2 = R ∧ (N % 2 = 0 ↔ R * R = M) ∧
         F.sqrt m a = F.round m false N ((if ea % 2 = 0 then ea else ea - 1) / 2 - 41)) ∧
     (0 < ma → na = true → F.sqrt m a = invalid) ∧ (ma = 0 → F.sqrt m a = zero na) ∧ F.sqrt m (.inf na) = (if na then invalid else F.infinity false) ∧
     (∀ q, F.sqrt m (.nan q) = (F.cnan, if q then fNv else 0)) ∧
     (a.lt b = decide (A < B) ∧ FVal.lt (.inf na) b = na ∧ a.lt (.inf nb) = !nb ∧ FVal.lt (.inf na) (.inf nb) = (na && !nb)) ∧
     (∀ u v : Nat, let p := F.decode u
       let q := F.decode v
       (p.isNan = true ∨ q.isNan = true → F.cmpEq u v = (false, sn [p, q]) ∧ (∀ o, F.cmpLt o u v = (false, if F.snan then fNv else 0)) ∧
         ∀ g, F.minmax g u v = (if q.isNan = false then v else if p.isNan = false then u else F.cnan, sn [p, q])) ∧
       (p.isNan = false → q.isNan = false → F.cmpEq u v = (!p.lt q && !q.lt p, 0) ∧ F.cmpLt false u v = (p.lt q, 0) ∧ F.cmpLt true u v = (!q.lt p, 0) ∧
         ∀ g, F.minmax g u v = (if (p.lt q || (!q.lt p && p.sign && !q.sign)) != g then u else v, 0))) ∧
     (let d := (-ea).toNat
      let Q := ma / 2 ^ d
      let R := ma % 2 ^ d
      let up := match m.toNat with
        | 0 => decide (2 ^ d < 2 * R) || decide (2 * R = 2 ^ d) && Q % 2 == 1
        | 1 => false
        | 2 => na && decide (0 < R)
        | _ => !na && decide (0 < R)
      let I : Int := (if na then -1 else 1) * (if 0 ≤ ea then (ma * 2 ^ ea.toNat : Nat) else (Q + (if up then 1 else 0) : Nat))
      let exact := decide (0 ≤ ea) || R == 0
      toInteger m na ma ea = (I, exact) ∧ ∀ lo hi : Int, lo ≤ hi → floatToInt m lo hi a = (max lo (min hi I), if I < lo ∨ hi < I then fNv else if exact then 0 else fNx) ∧
        floatToInt m lo hi (.inf na) = (if na then lo else hi, fNv) ∧ ∀ q, floatToInt m lo hi (.nan q) = (0, fNv)) ∧
     (∀ v : Int, F.ofInt m v = F.round m (decide (v < 0)) v.natAbs 0))

/-- R86: the condition that a compare tests, the predicate it writes and the words it annuls. R105: predicate logic, the predicate word, and select; a read of p0 gives 1 and a write of p0 is discarded. -/
def Obligations.ComparesAndPredicates : Prop :=
  (∀ (s : State) (x : Iss) (i : Instr) (a b : RCode) (m : BitVec 7) (c : BitVec 4) (p : BitVec 5) (k : BitVec 2) (e : BitVec 1),
     Issues s x i →
     let A := input s x i 0
     let after := fun (B : Word) =>
       let holds := match c.toNat with
         | 0 => decide (A = B)
         | 1 => decide (A ≠ B)
         | 2 => decide (A.toInt < B.toInt)
         | 3 => decide (B.toInt ≤ A.toInt)
         | 4 => decide (A.toNat < B.toNat)
         | 5 => decide (B.toNat ≤ A.toNat)
         | 6 => decide (A &&& B ≠ 0)
         | _ => decide (A &&& B = 0)
       exec i s = .next (retire (updStrand (afterReads s x i) x.g x.sid fun t =>
         { t.setP p.toNat holds with annul := if k ≠ 0 ∧ holds = (e == 1) then k.toNat else t.annul }) x)
     (i = .cmp a b c p k e → after (input s x i 1)) ∧
     (i = .cmpi a m c p k e → after (BitVec.ofInt 64 m.toInt))) ∧
  (∀ (s : State) (x : Iss) (i : Instr) (d a b : BitVec 5) (rd ra rb : RCode) (n : BitVec 4), Issues s x i →
     let P := fun (q : BitVec 5) => q == 0 || x.t.pred.getLsbD q.toNat
     let sets := fun (v : Bool) => ∃ w : BitVec 32,
       (∀ j < 32, w.getLsbD j = if d ≠ 0 ∧ j = d.toNat then v else x.t.pred.getLsbD j) ∧
       exec i s = .next (retire (updStrand s x.g x.sid fun u => { u with pred := w }) x)
     (i = .pand d a b → sets (P a && P b)) ∧
     (i = .por d a b → sets (P a || P b)) ∧
     (i = .pxor d a b → sets (P a ^^ P b)) ∧
     (i = .pandn d a b → sets (P a && !P b)) ∧
     (i = .porn d a b → sets (P a || !P b)) ∧
     (i = .pnot d a → sets (!P a)) ∧
     (i = .mfp rd → Computes s x i rd ((x.t.pred ||| 1).zeroExtend 64) 0) ∧
     (i = .mtp ra rb → ∃ w : BitVec 32,
       (∀ j, 0 < j → j < 32 → w.getLsbD j = if (input s x i 1).getLsbD j then (input s x i 0).getLsbD j else x.t.pred.getLsbD j) ∧
       exec i s = .next (retire (updStrand (afterReads s x i) x.g x.sid fun u => { u with pred := w }) x)) ∧
     (i = .sel rd ra rb n → Computes s x i rd (if n = 0 ∨ x.t.pred.getLsbD n.toNat then input s x i 0 else input s x i 1) 0))

/-- R110, R111: where each branch, call and jump goes and what it links, and their encodings. R113: `enter` pushes a frame and leaves the registers; `leave` restores the top frame; the three instruction faults. -/
def Obligations.BranchesAndWindowStack : Prop :=
  (∀ (s : State) (x : Iss) (i : Instr) (o26 : BitVec 26) (o20 : BitVec 20) (p : BitVec 5) (d a : RCode), Issues s x i →
     let goes := fun (S : State) (v : Addr) => exec i s = .next (jumpTo S x v)
     let off := fun (k : Int) => BitVec.ofInt 48 (x.t.pc.toNat + 4 * k)
     let link : Word := ((x.t.pc + 4).zeroExtend 64)
     let target := fun (v : Word) => BitVec.ofNat 48 (v.toNat % 2 ^ 48 / 4 * 4)
     let taken := p = 0 ∨ x.t.pred.getLsbD p.toNat
     (i = .br o26 → goes (afterReads s x i) (off o26.toInt)) ∧
     (i = .call o26 → goes (updStrand s x.g x.sid fun t => { t with lr := link }) (off o26.toInt)) ∧
     (i = .bp p o20 → goes (afterReads s x i) (if taken then off o20.toInt else x.t.pc + 4)) ∧
     (i = .bpn p o20 → goes (afterReads s x i) (if taken then x.t.pc + 4 else off o20.toInt)) ∧
     (i = .jr a → goes (afterReads s x i) (target (input s x i 0))) ∧
     (i = .jalr d a → goes (writeDst (afterReads s x i) x.g x.sid d link) (target (input s x i 0))) ∧
     (i = .ret → goes (afterReads s x i) (target x.t.lr)) ∧
     encode (.br o26) = some (15 * 2 ^ 26 + o26.toNat) ∧ encode (.call o26) = some (16 * 2 ^ 26 + o26.toNat) ∧
     encode (.bp p o20) = some (17 * 2 ^ 26 + p.toNat * 2 ^ 21 + 2 ^ 20 + o20.toNat) ∧ encode (.bpn p o20) = some (17 * 2 ^ 26 + p.toNat * 2 ^ 21 + o20.toNat) ∧
     encode (.jr a) = some (18 * 2 ^ 26 + a.toNat * 2 ^ 12) ∧ encode (.jalr d a) = some (18 * 2 ^ 26 + d.toNat * 2 ^ 19 + a.toNat * 2 ^ 12 + 1) ∧
     encode .ret = some (18 * 2 ^ 26 + 2) ∧
     (∀ w < 2 ^ 32, w / 2 ^ 26 = 18 → (w % 2 ^ 5 = 0 ∧ (w / 2 ^ 19 % 2 ^ 7 ≠ 0 ∨ w / 2 ^ 5 % 2 ^ 7 ≠ 0) ∨ w % 2 ^ 5 = 1 ∧ w / 2 ^ 5 % 2 ^ 7 ≠ 0 ∨
       w % 2 ^ 5 = 2 ∧ w / 2 ^ 5 % 2 ^ 21 ≠ 0) → ∃ e, decodeWord w = .error e)) ∧
  (∀ (s : State) (x : Iss) (k : BitVec 2),
     let n := 8 * (k.toNat + 1)
     (Issues s x (.enter k) → x.t.roaming = false →
       (512 < stackWords x.t + n + 2 → exec (.enter k) s = .next (raiseAt s x 0 4 0 0 63)) ∧
       (stackWords x.t + n + 2 ≤ 512 → n + 2 ≤ spareEntries x.c → exec (.enter k) s = .next (retire (updStrand { s with nextId := s.nextId + 1 } x.g x.sid fun t =>
         { t with frames := { k := n, age := s.nextId, lr := x.t.lr, regs := (List.range n).map fun j => x.t.gen (BitVec.ofNat 7 (8 + j)), resident := true } :: t.frames }) x))) ∧
     (Issues s x (.leave k) → x.t.roaming = false →
       (x.t.frames = [] → exec (.leave k) s = .next (raiseAt s x 0 3 0 0 63)) ∧
       (∀ f r, x.t.frames = f :: r → f.k ≠ n → exec (.leave k) s = .next (raiseAt s x 0 2 0 0 63)) ∧
       (∀ f r, x.t.frames = f :: r → f.k = n → f.resident = true → f.regs.length = n →
         ∃ m : KMap Word, (∀ j < n, kget m (8 + j) 0 = f.regs.getD j 0) ∧ (∀ q, q < 8 ∨ 8 + n ≤ q → kget m q 0 = kget x.t.regs q 0) ∧
           exec (.leave k) s = .next (retire (updStrand s x.g x.sid fun t => { t with frames := r, lr := f.lr, regs := m }) x))))

/-- R117: `fork` waits for the strand's accesses and pushes; with none left, it pushes a child onto the bottom of the deque and sets p, or clears p when the
deque is full. R118: `exit` frees the strand's slot once its values have arrived, its vector work is done and its accesses are performed; with
a counter it first sends the decrement, and stands out of the rotation until that is performed. -/
def Obligations.StrandsForkAndExit : Prop :=
  (∀ (s : State) (x : Iss) (p : BitVec 5) (a : RCode) (o : BitVec 7) (i : Instr) (carry : Option Nat),
     ((i, carry) = (.fork p a o, none) ∨ (i, carry) = (.forkRCarry8 p a o, some 8) ∨ (i, carry) = (.forkRCarry16 p a o, some 16) ∨
       (i, carry) = (.forkRCarry24 p a o, some 24)) →
     Issues s x i → (∀ t, taskOn s x.g = some t → t.period = 0) →
     (accsOf s x.g x.sid ≠ [] ∨ unacked s x.g x.sid = true → exec i s = .next (waitFor s x .access)) ∧
     (accsOf s x.g x.sid = [] → unacked s x.g x.sid = false →
     let roams := carry.isSome || x.t.roaming
     let child : Child :=
       { pc := BitVec.ofInt 48 (x.t.pc.toNat + 4 * o.toInt), g0 := input s x i 0, g1 := 0, g2 := 0, roaming := roams,
         shapeW := if roams then 0 else x.t.shapeW, shapeV := if roams then 0 else x.t.shapeV,
         shapeD := if roams then 0 else x.t.shapeD, carry := if roams then carry.getD x.t.carry else 0, tid := x.t.tid }
     exec i s = .next (if x.c.deque.length < 32
       then setPred (updCore (afterReads s x i) x.g fun c => { c with deque := c.deque ++ [child] }) x p.toNat true
       else setPred (afterReads s x i) x p.toNat false))) ∧
  (∀ (s : State) (x : Iss) (a : RCode), Issues s x (.exit a) → exitGate s x = none →
     let s1 := afterReads s x (.exit a)
     let ea := input s x (.exit a) 0
     let m := ea.toNat % 2 ^ 48
     (a = 120 → exec (.exit a) s = .next (freeSlot s1 x.g x.sid) ∧ strandAt? (freeSlot s1 x.g x.sid) x.g x.sid = none) ∧
     (a ≠ 120 → m % 8 = 0 → (debugOn s x.g = true → inWindow x.t m 8 3 = true) → holeAt s1 m = true → exec (.exit a) s = .next (freeSlot s1 x.g x.sid)) ∧
     (a ≠ 120 → m % 8 = 0 → (debugOn s x.g = true → inWindow x.t m 8 3 = true) → holeAt s1 m = false → leavesPair x m = false →
       exec (.exit a) s = .next (blockOn (updStrand s1 x.g x.sid fun t => { t with pending := [] }) x .exitDec m (poppedOf x (.exit a) (inputs s x (.exit a))))) ∧
     (a ≠ 120 → m % 8 ≠ 0 → exec (.exit a) s = .next (raiseAt s x 1 2 0 ea.toNat 63)))

/-- R120, R121: `yield`, `nop`, `brk`, and the reading and writing of status and core shared registers (R40, R206). R88 to R90: a hint governs the next word; `rep` with a count of 0 falls through past the governed word, with a count above n
it is illegal; `ckpt` on a lock-step pair waits for a checkpoint and goes on once one was taken for it (R212). -/
def Obligations.SystemAndHintWords : Prop :=
  (∀ (s : State) (x : Iss) (i : Instr) (d a : RCode) (n : BitVec 7), Issues s x i →
     (i = .yield → exec i s = .next (updStrand (retire s x) x.g x.sid fun t =>
       if readyOthers s x.g x.sid = [] then t else { t with yieldSet := readyOthers s x.g x.sid, wait := some .yielding })) ∧
     (i = .nop → exec i s = .next (retire s x)) ∧
     (i = .brk → exec i s = .next (if debugOn s x.g then raiseAt s x 8 0x80 0 0 63 else retire s x)) ∧
     (i = .mfs d n → (n = 4 → vecDone s x.g x.sid = true) → Computes s x i d (match n.toNat with
       | 0 => BitVec.ofNat 64 x.sid
       | 1 => BitVec.ofNat 64 x.g
       | 2 => x.t.tid
       | 3 => s.clk
       | 4 => x.t.flags.zeroExtend 64
       | 5 => x.t.rnd.zeroExtend 64
       | 6 => BitVec.ofNat 64 x.t.frames.length
       | 7 => x.t.tagc.zeroExtend 64
       | 8 => BitVec.ofNat 64 (if x.t.roaming then x.t.carry else 0)
       | 9 => BitVec.ofNat 64 (((taskOn s x.g).map fun t => t.f 1692 7).getD 0)
       | m => readK x.c s.clk (m - 16)) 0) ∧
     (i = .mts a 4 → vecDone s x.g x.sid = true → exec i s = .next (retire (updStrand (afterReads s x i) x.g x.sid fun t =>
       { t with flags := (input s x i 0).truncate 9 }) x)) ∧
     (i = .mts a 5 → exec i s = .next (retire (updStrand (afterReads s x i) x.g x.sid fun t =>
       { t with rnd := (input s x i 0).truncate 2 }) x)) ∧
     (i = .mts a n → 16 ≤ n.toNat → ∃ c : Core, exec i s = .next (retire (updCore (afterReads s x i) x.g fun _ => c) x) ∧
       readK c (s.clk + 3) (n.toNat - 16) = input s x i 0 ∧
       (x.c.kpend = [] → (∀ now < s.clk + 3, readK c now (n.toNat - 16) = kget x.c.kregs (n.toNat - 16) 0) ∧
         ∀ now k, k ≠ n.toNat - 16 → readK c now k = kget x.c.kregs k 0))) ∧
  (∀ (s : State) (x : Iss) (i : Instr) (p : BitVec 22) (n : BitVec 6) (c : RCode) (m : BitVec 3), Issues s x i →
     let own := savePc x.t
     let governs := fun (S : State) (h : Hint) => exec i s = .next (updStrand S x.g x.sid fun t =>
       { t with pc := t.pc + 4, hint := h, counted := false, wait := none })
     (i = .immHi p → governs s (.immHi own p)) ∧
     (i = .rlx → governs s (.rlx own)) ∧
     (i = .rep n c m → let v := (x.t.gen c).toNat
       (n.toNat + 1 < v → exec i s = .next (illegal s x)) ∧
       (v = 0 → exec i s = .next (jumpTo s x (x.t.pc + 8))) ∧
       (0 < v → v ≤ n.toNat + 1 → governs s (.rep own (match x.t.hint with | .rlx _ => true | _ => false) (n.toNat + 1) c m))) ∧
     (i = .ckpt → (x.c.lock = none → governs s (.ckpt own)) ∧
       (∀ l, x.c.lock = some l → if x.sid ∈ l.granted
         then governs (updCore s x.g fun c => { c with lock := c.lock.map fun l => { l with granted := sdel l.granted x.sid } }) (.ckpt own)
         else exec i s = .next (waitFor s x .checkpoint))))

/-- R174, R175, R177, R183, R184: a load, store, full/empty access or atomic that is aligned, ready and not migrating puts one access
in flight, with a pending entry for its destination; a misaligned one takes the access fault 0x0002, and in a debug launch one outside
every window the audit fault 0x0002 (R437). R210: leaving a lock-step pair, a store takes a place in the release buffer and a synchronising
access waits for a checkpoint. R371, R372: a roaming strand's access to the slot of another core of its gang makes it wait to migrate. -/
def Obligations.MemoryAccessesIssue : Prop :=
  ∀ (s : State) (x : Iss) (i : Instr) (d a b : RCode) (k : BitVec 4) (z : BitVec 2) (o : BitVec 6), Issues s x i →
    let s1 := afterReads s x i
    let w := 2 ^ z.toNat
    let rl := relaxedWord x.t
    let at_ := fun (v : Word) (n : Nat) => (v.toInt + o.toInt * n) % 2 ^ 48
    let gives := fun (relaxed : Bool) (dir : BitVec 2) (held sync : Bool) (ea : Int) (size : Nat) (addr : Word) (t : Nat → State) =>
      accessReady s x.g x.sid relaxed = true →
      let audited := debugOn s1 x.g = true ∧ inWindow x.t ea.toNat size dir = false
      (ea % size = 0 → ¬ audited → (held = true ∨ sync = true → leavesPair x ea.toNat = false) → migration s1 x ea.toNat = .stay →
        exec i s = .next (t ea.toNat)) ∧
      (ea % size = 0 → ¬ audited → leavesPair x ea.toNat = true → migration s1 x ea.toNat = .stay → ∀ l, x.c.lock = some l →
        (held = true → lockDue s1 x.g = false → ∃ S l', exec i s = .next S ∧ (coreAt S x.g).lock = some l' ∧ l'.release = l.release ++ [s1.nextId] ∧
          ∃ c ∈ S.accs, c.id = s1.nextId ∧ c.addr = ea.toNat ∧ c.gcn = x.g ∧ c.sid = x.sid) ∧
        (sync = true → x.sid ∉ l.granted → exec i s = .next (waitFor s1 x .checkpoint))) ∧
      (ea % size = 0 → ¬ audited → Roams s x i ea.toNat addr) ∧
      (ea % size = 0 → audited → exec i s = .next (raiseAt s x 9 2 (BitVec.ofNat 64 size) addr.toNat 63)) ∧
      (ea % size ≠ 0 → exec i s = .next (raiseAt s x 1 2 0 addr.toNat 63))
    let plus := fun (v : Word) (n : Nat) => v + BitVec.ofInt 64 (o.toInt * n)
    let u := input s x i 0
    let v := input s x i 1
    (i = .ld d b k z o → gives rl 1 false false (at_ u w) w (plus u w) fun e => issueLoad s1 x (.load w false) e 0 (.gen d) k rl) ∧
    (i = .lds d b k z o → gives rl 1 false false (at_ u w) w (plus u w) fun e => issueLoad s1 x (.load w true) e 0 (.gen d) k rl) ∧
    (i = .st d b z o → gives rl 2 true false (at_ v w) w (plus v w) fun e =>
      retire (newAccess (holeFlag s1 x e w) x (.store w) e u 0 rl).2 x) ∧
    (i = .ldf d b k o → gives false 1 false true (at_ u 8) 8 (plus u 8) fun e => issueLoad s1 x .ldf e 0 (.gen d) k false) ∧
    (i = .ldt d b k o → gives false 1 false true (at_ u 8) 8 (plus u 8) fun e => issueLoad s1 x .ldt e 0 (.gen d) k false) ∧
    (i = .stf d b o → gives false 2 false true (at_ v 8) 8 (plus v 8) fun e => retire (newAccess (holeFlag s1 x e 8) x .stf e u 0 false).2 x) ∧
    (i = .stp d b o → gives false 2 false true (at_ v 8) 8 (plus v 8) fun e => retire (newAccess (holeFlag s1 x e 8) x .stp e u 0 false).2 x) ∧
    (i = .stempty b o → gives false 2 false true (at_ u 8) 8 (plus u 8) fun e => retire (newAccess (holeFlag s1 x e 8) x .stempty e 0 0 false).2 x) ∧
    (i = .cas d a b k → gives rl 3 false true (u.toNat % 2 ^ 48) 8 u fun e => issueLoad s1 x (.cas (x.t.gen d)) e v (.gen d) k rl) ∧
    (i = .xadd d a b k → gives rl 3 false true (u.toNat % 2 ^ 48) 8 u fun e => issueLoad s1 x .xadd e v (.gen d) k rl)

/-- R119, R200: `join`, `bar.arrive` and `bar.wait` take the strand out of the rotation with one access in flight; `join` at a hole
completes at once; a misaligned word takes the access fault 0x0002. R371, R372: a roaming strand waits to migrate to the core whose slot holds
the word. R198: a fence waits while an earlier access of the strand must still be performed at its scope, and then completes; one of the
group has the effect of one of the package. -/
def Obligations.BlockingWordsAndFences : Prop :=
  (∀ (s : State) (x : Iss) (i : Instr) (d a b : RCode), Issues s x i →
     accessReady s x.g x.sid false = true →
     let s1 := afterReads s x i
     let u := input s x i 0
     let e := u.toNat % 2 ^ 48
     (i = .join a ∨ i = .barArrive d a ∨ i = .barWait a b) →
     (e % 8 ≠ 0 → exec i s = .next (raiseAt s x 1 2 0 u.toNat 63)) ∧
     (e % 8 = 0 → (debugOn s1 x.g = true → inWindow x.t e 8 (if i = .barArrive d a then 3 else 1) = true) → Roams s x i e u) ∧
     (e % 8 = 0 → (debugOn s1 x.g = true → inWindow x.t e 8 (if i = .barArrive d a then 3 else 1) = true) → leavesPair x e = false →
       migration s1 x e = .stay →
       (i = .join a → exec i s = .next (if holeAt s1 e then retire (holeFlag s1 x e 8) x else blockOn s1 x .join e (poppedOf x i (inputs s x i)))) ∧
       (i = .barArrive d a → exec i s = .next (blockOn s1 x (.barArrive d) e (poppedOf x i (inputs s x i)))) ∧
       (i = .barWait a b → exec i s = .next (blockOn s1 x (.barWait ((input s x i 1).truncate 16)) e (poppedOf x i (inputs s x i)))))) ∧
  (∀ (s : State) (x : Iss) (i : Instr) (scope : Nat),
     ((i, scope) = (.fenceCore, 0) ∨ (i, scope) = (.fenceCluster, 1) ∨ (i, scope) = (.fenceDie, 2) ∨ (i, scope) = (.fencePackage, 3) ∨
       (i, scope) = (.fenceGroup, 3)) → Issues s x i →
     ((∃ c ∈ accsOf s x.g x.sid, mustPerform s scope x.g c = true) → exec i s = .next (waitFor s x .fence)) ∧
     ((∀ c ∈ accsOf s x.g x.sid, mustPerform s scope x.g c = false) → ∃ t, exec i s = .next (retire t x) ∧
       t = { s with accs := t.accs } ∧ t.accs.map (fun c => { c with fenced := [] }) = s.accs.map (fun c => { c with fenced := [] }) ∧
       ∀ c ∈ t.accs, c.gcn = x.g → c.sid = x.sid → (scope, s.nextId) ∈ c.fenced))

/-- R166, R187, R189, R191: a lookup of the tag table gives the local address of a line that is held, else the first free way, else the
victim, and for an address from 0xFC_0000_0000 kind 4; a fill that passes its checks installs its entry and starts; an eviction writes a
dirty line back, as a memory access, and from a lock-step pair through the release buffer (R210); one of a clean or invalid slot, and an
invalidation, only clear the slot. That the record of a `tfill` that faults holds aux 0, addr the address and win 63 is the model's choice (log
entry 92). R193 to R195: reading a window, and a check that passes or takes the access fault 0x0001 with its address, window and length. -/
def Obligations.TagTableAndWindowWords : Prop :=
  (∀ (s : State) (x : Iss) (i : Instr) (d a b : RCode) (n : BitVec 4), Issues s x i →
     let s1 := afterReads s x i
     let A := (input s x i 0).toNat % 2 ^ 48
     let slot := (input s x i 1).toNat % 4096
     let L := (input s x i 1).toNat / 2 ^ 40 % 2 ^ 13 * 256
     let e := tagEntry x.c ((input s x i 0).toNat % 4096)
     let gone := invalidate s1 x.g ((input s x i 0).toNat % 4096)
     let E := fun w => tagEntry x.c (4 * (A / 256 % 1024) + w)
     let holds := fun w => tagValid (E w) = true ∧ tagSrc (E w) = A / 256
     let v := (kget x.c.victims (A / 256 % 1024) 0).toNat
     (i = .tlk d a →
       (0xFC00000000 ≤ A → Computes s x i d (BitVec.ofNat 64 (12 * 2 ^ 60)) 0) ∧
       (A < 0xFC00000000 → ∀ w < 4, holds w → (∀ j < w, ¬ holds j) → Computes s x i d
         (BitVec.ofNat 64 ((4 * (A / 256 % 1024) + w) * 2 ^ 48 + slotBase x.g + tagLocal (E w) * 256 + A % 256)) 0) ∧
       (A < 0xFC00000000 → (∀ j < 4, ¬ holds j) → ∀ w < 4, tagValid (E w) = false → (∀ j < w, tagValid (E j) = true) →
         Computes s x i d (BitVec.ofNat 64 (9 * 2 ^ 60 + 4 * (A / 256 % 1024) + w)) 0) ∧
       (A < 0xFC00000000 → (∀ j < 4, ¬ holds j) → (∀ j < 4, tagValid (E j) = true) → Computes s x i d
         (BitVec.ofNat 64 ((if tagDirty (E v) then 11 else 10) * 2 ^ 60 + 4 * (A / 256 % 1024) + v)) 0)) ∧
     (i = .tfill n a b → accessReady s x.g x.sid false = true →
       (0xFC00000000 ≤ A → exec i s = .next (raiseAt s x 1 7 0 A 63)) ∧
       (A < 0xFC00000000 → slot / 4 ≠ A / 256 % 1024 → exec i s = .next (raiseAt s x 1 5 0 A 63)) ∧
       (tfillFault x.c A slot L = none → ∃ t, exec i s = .next t ∧ t.nextId = s1.nextId + 1 ∧
         tagEntry (coreAt t x.g) slot = BitVec.ofNat 64 (2 ^ 63 + n.toNat * 2 ^ 57 + L / 256 * 2 ^ 40 + A / 256) ∧
         (∀ q, q ≠ slot → tagEntry (coreAt t x.g) q = tagEntry x.c q) ∧
         (∃ c ∈ t.accs, c.id = s1.nextId ∧ c.gcn = x.g ∧ c.sid = x.sid ∧ c.kind = .fill slot n.toNat ∧ c.addr = slotBase x.g + L ∧
           c.data = BitVec.ofNat 64 (A / 256 * 256)) ∧ t.mem = s1.mem)) ∧
     (i = .tevict a → (tagValid e && tagDirty e) = false → exec i s = .next (retire gone x)) ∧
     (i = .tevict a → tagValid e = true → tagDirty e = true →
       (accessReady s x.g x.sid false = false → exec i s = .next (waitFor s x .access)) ∧
       (accessReady s x.g x.sid false = true → leavesPair x (tagSrc e * 256) = false →
         exec i s = .next (retire (newAccess gone x (.writeBack ((input s x i 0).toNat % 4096) e) (tagSrc e * 256) 0 0 false).2 x)) ∧
       (accessReady s x.g x.sid false = true → leavesPair x (tagSrc e * 256) = true → lockDue s x.g = false → ∀ l, x.c.lock = some l →
         ∃ S l', exec i s = .next S ∧ (coreAt S x.g).lock = some l' ∧ l'.release = l.release ++ [s1.nextId] ∧
           ∃ c ∈ S.accs, c.id = s1.nextId ∧ c.kind = .writeBack ((input s x i 0).toNat % 4096) e ∧ c.addr = tagSrc e * 256)) ∧
     (i = .tinval a → exec i s = .next (retire gone x))) ∧
  (∀ (s : State) (x : Iss) (i : Instr) (d a : RCode) (n k : BitVec 4) (q : BitVec 7), Issues s x i →
     let W := x.t.win n.toNat
     let A := (input s x i 0).toNat % 2 ^ 48
     let len := 2 ^ k.toNat
     let checks := fun (kind : BitVec 2) => exec i s = .next (if W.access &&& kind = kind ∧ W.base.toNat ≤ A ∧ A + len ≤ W.limit.toNat
       then retire (afterReads s x i) x else raiseAt s x 1 1 (BitVec.ofNat 64 len) A n.toNat)
     (i = .wba d n a → Computes s x i d (BitVec.ofNat 64 ((W.base.toNat + (input s x i 0).toNat) % 2 ^ 48)) 0) ∧
     (i = .wrd d n q → Computes s x i d (match q.toNat with
       | 0 => W.base.zeroExtend 64
       | 1 => W.limit.zeroExtend 64
       | 2 => BitVec.ofNat 64 (W.limit.toNat - W.base.toNat)
       | _ => BitVec.ofNat 64 (W.access.toNat * 2 ^ 36 + W.region.toNat * 2 ^ 16 + W.gen.toNat)) 0) ∧
     (i = .chkR n a k → checks 1) ∧ (i = .chkW n a k → checks 2) ∧ (i = .chkRw n a k → checks 3))

/-- R121 to R124: `trap` takes the software-trap exception: the strand issues nothing further and keeps its registers and its place,
and its task is given a fault with class 8, the code, ga as aux, and where and when it was raised. R77, R122: a word that its issuer may not execute takes the illegal-instruction fault 0x0001 and has no other effect. -/
def Obligations.WordsTakeExceptions : Prop :=
  (∀ (s : State) (x : Iss) (a code : RCode), Issues s x (.trap a code) →
     ∃ t, exec (.trap a code) s = .next t ∧
       strandAt? t x.g x.sid = some { x.t with stopped := true } ∧
       (∀ k u, (coreAt s x.g).task = some k → kget? s.tasks k = some u → ∃ f : FaultInfo, kget? t.tasks k = some { u with faults := u.faults ++ [f] } ∧
         f.cls = 8 ∧ f.code = code.toNat ∧ f.aux = input s x (.trap a code) 0 ∧ f.addr = 0 ∧ f.win = 63 ∧ f.gcn = x.g ∧
         f.sid = (if x.sid = 64 then 63 else x.sid) ∧ f.eng = (x.sid == 64) ∧ f.time = s.clk ∧ f.gang = false) ∧
       issuer? { t with cur := { gcn := x.g, slot := x.sid } } = none ∧ t.mem = s.mem) ∧
  (∀ (s : State) (x : Iss) (i : Instr), issuer? s = some x → (encode i).isSome → legalFor x i = false →
     exec i s = .next (raiseAt s x 0 1 0 0 63))

/-- R323, R324: what `rcnt` and `rfree` read; `reos.dn` pushes the end of stream; `reos.up` closes the incoming rill once. R319, R320, R324, R326: a value on its way lands in the receiver's next slot or is discarded by a closed rill; a returned credit and the
notice of a close reach the sender, each in its turn (R305); a stage takes a due checkpoint, which writes its cascade area (R327), and hands the marker
down. -/
def Obligations.RillsMoveValues : Prop :=
  (∀ (s : State) (x : Iss) (i : Instr) (d : RCode), Issues s x i →
     (i = .rcnt d → Computes s x i d (if x.qinOk = false then 0 else if x.c.rill.closed then 0x4000000000000000
       else BitVec.ofNat 64 (rillCount x.c.rill + if (takeValues 1 x.c.rill.inq).1 = [eos] then 2 ^ 63 else 0)) 0) ∧
     (i = .rfree d → Computes s x i d (if x.qoutOk = false then 0 else if x.c.rill.outClosed then 0x4000000000000000
       else BitVec.ofNat 64 x.c.rill.credits) 0) ∧
     (i = .reosDn → (x.qoutOk = false → exec i s = .next (illegal s x)) ∧
       (x.qoutOk = true → pushReady s x.g x.sid = true → exec i s = .next (retire (pushQout s x.g 0x8000000000000000) x))) ∧
     (i = .reosUp → (x.qinOk = false → exec i s = .next (illegal s x)) ∧
       (x.qinOk = true → ∃ t, exec i s = .next (retire t x) ∧ (coreAt t x.g).rill.closed = true ∧
         (x.c.rill.closed = true → t = s) ∧ (x.c.rill.closed = false → (coreAt t x.g).rill.inq = [] ∧
           ∀ h, stageCore s x.g true = some h → (coreAt t h).rill.noticeFlight = true)))) ∧
  (∀ (s : State) (g : Nat),
     let c := coreAt s g
     let turn := fun (up : Bool) (p : Post) => ∀ h, stageCore s g up = some h → firstOnWay s h g p = true
     (∀ m rest, c.rill.flight = m :: rest → turn true .value → ∃ t, exec (.rillValueLanding g) s = .next t ∧ (coreAt t g).rill.flight = rest ∧
       (c.rill.closed = true → (coreAt t g).rill.inq = c.rill.inq ∧ t.mem = s.mem) ∧ (c.rill.closed = false → (coreAt t g).rill.inq = c.rill.inq ++ [m] ∧
         (∀ v, m = .val v → (coreAt t g).rill.slot = (c.rill.slot + 1) % 8 ∧ (Memory.wf s.mem = true → ∀ b < 8,
           Memory.get t.mem (slotBase g + 0x13FF00 + 8 * (c.rill.slot % 8) + b) = v.extractLsb' (8 * b) 8)))) ∧
     (0 < c.rill.creditFlight → turn false .credit → ∃ t, exec (.rillCreditReturn g) s = .next t ∧ (coreAt t g).rill.credits = c.rill.credits + 1 ∧
       (coreAt t g).rill.creditFlight = c.rill.creditFlight - 1 ∧ (coreAt t g).rill.inq = c.rill.inq) ∧
     (c.rill.noticeFlight = true → turn false .notice → ∃ t, exec (.rillCloseNotice g) s = .next t ∧ (coreAt t g).rill.outClosed = true ∧
       (coreAt t g).rill.noticeFlight = false) ∧
     (∀ st q u, c.stage = some st → st.period ≠ 0 → c.strands.find? (fun p => p.1 != 64) = some (q, u) → u.wait = some .checkpoint →
       (∀ p ∈ u.pending, p.arrived = true) → (∀ h, st.down = some h → h ≠ g) →
       (if st.stage = 0 then st.due = true ∧ st.taken ≤ lastTaken s 16 g else c.rill.closed = false ∧ c.rill.inq.head? = some .marker) →
       ∃ t st', exec (.cascadeCheckpoint g) s = .next t ∧ (coreAt t g).stage = some st' ∧ st'.taken = st.taken + 1 ∧ st'.due = false ∧
         kget? st'.recs ((st.taken + 1) % 2) = some (recordOf u) ∧ kget? st'.recs (st.taken % 2) = kget? st.recs (st.taken % 2) ∧
         (st.stage ≠ 0 → (coreAt t g).rill.inq = c.rill.inq.tail) ∧ (Memory.wf s.mem = true → ∀ b,
           b < slotBase g + 0x13F000 ∨ slotBase g + 0x13FF00 ≤ b → Memory.get t.mem b = Memory.get s.mem b) ∧
         (∀ h, st.down = some h → (coreAt t h).rill.flight = (coreAt s h).rill.flight ++ [.marker])))

/-- R177, R183, R205, R305, R413: a load or a full/empty load is performed by the step of the place of its word; its value, extended to
64 bits, is bound to its pending entry with `hole` for a hole, and `ldt` leaves the word empty. R143, R145, R148: a `dld` or `dmk` reads
one 64-bit word at a time, in rising order (the model's choice, log entry 83), and with the last its register is bound. -/
def Obligations.LoadsArePerformed : Prop :=
  ∀ (s : State) (a : Access) (i : Instr), a.Ready s →
    ((placeOf s a.gcn a.addr = .own ∧ i = .valueArrival a.id) ∨ (placeOf s a.gcn a.addr = .remote ∧ i = .remoteRequest a.id) ∨
      (placeOf s a.gcn a.addr = .hbm ∧ i = .hbmAccess a.id)) →
    let arrived := fun (t : State) => if placeOf s a.gcn a.addr = .own then arrive t a.gcn a.sid a.id else t
    (∀ w, a.kind = .load w false → exec i s = .next (arrived (bindValue s a (.word (BitVec.ofNat 64 (readVal s a.addr w)))))) ∧
    (∀ w, a.kind = .load w true → 0 < w → w ≤ 8 → ∃ v : Word, v.toInt = sval (8 * w) (readVal s a.addr w) ∧ exec i s = .next (arrived (bindValue s a (.word v)))) ∧
    (a.kind = .ldf → exec i s = .next (arrived (bindValue s a (.word (BitVec.ofNat 64 (readVal s a.addr 8)))))) ∧
    (a.kind = .ldt → ∃ t, exec i s = .next t ∧ (holeAt s a.addr = false → isEmpty t a.addr = true) ∧
      (twinOf s a.addr = none → { t with empties := s.empties } = arrived (bindValue s a (.word (BitVec.ofNat 64 (readVal s a.addr 8)))))) ∧
    (∀ tag, a.kind = .dld tag ∨ a.kind = .dmk tag → a.done + 8 < a.size → a.vdata.toNat < 2 ^ (8 * a.done) →
      ∃ t b, exec i s = .next t ∧ t.mem = s.mem ∧ accAt? t a.id = some b ∧ b.done = a.done + 8 ∧
        b.vdata.toNat = a.vdata.toNat + readVal s ((a.addr + a.done) % 2 ^ 48) 8 * 2 ^ (8 * a.done)) ∧
    (∀ tag, a.kind = .dld tag ∨ a.kind = .dmk tag → a.size ≤ a.done + 8 → ∃ t, exec i s = .next t ∧ t.mem = s.mem ∧ accAt? t a.id = none ∧
      ∀ u p, strandAt? s a.gcn a.sid = some u → p ∈ u.pending → p.id = a.id → ∃ u' q, strandAt? t a.gcn a.sid = some u' ∧ q ∈ u'.pending ∧ q.id = a.id ∧
        (a.kind = .dld tag → q.value = some (.dist { bits := (a.takeWord s).vdata, tag := tag })) ∧
        (a.kind = .dmk tag → q.value = some (.dist { bits := makeDist (a.takeWord s).vdata.toNat, tag := tag })))

/-- R177, R183, R179: a store that reaches its word is written byte by byte, little-endian, outside holes, and no other byte of memory
changes, but that a lock-step pair holds it in both scratchpads (R210); `stp` and `stf` set the word full. R144, R148: a `dst` writes one 64-bit word at a
time, in rising order (the model's choice, log entry 83). -/
def Obligations.StoresArePerformed : Prop :=
  (∀ (s : State) (a : Access) (i : Instr) (w : Nat), a.Ready s → Memory.wf s.mem = true → a.addr + w ≤ 2 ^ 48 → s.poison = [] →
     ((placeOf s a.gcn a.addr = .own ∧ i = .storeAcknowledge a.id) ∨ (placeOf s a.gcn a.addr = .remote ∧ i = .remoteRequest a.id) ∨
       (placeOf s a.gcn a.addr = .hbm ∧ i = .hbmAccess a.id)) →
     (a.kind = .store w ∧ w ≤ 8 ∨ (a.kind = .stf ∨ a.kind = .stp) ∧ w = 8) →
     ∃ t, exec i s = .next t ∧
       (∀ b < 2 ^ 48, holeAt s b = false → a.addr ≤ b → b < a.addr + w → readByte t b = a.data.extractLsb' (8 * (b - a.addr)) 8) ∧
       (∀ b < 2 ^ 48, holeAt s b = false → twinByte s a.addr w b → readByte t b = a.data.extractLsb' (8 * (b - 2 ^ 21 - a.addr)) 8) ∧
       (∀ b < 2 ^ 48, holeAt s b = true ∨ ((b < a.addr ∨ a.addr + w ≤ b) ∧ ¬ twinByte s a.addr w b) → readByte t b = readByte s b) ∧
       (a.kind ≠ .store w → holeAt s a.addr = false → isEmpty t a.addr = false) ∧
       (placeOf s a.gcn a.addr = .own → accAt? t a.id = none)) ∧
  (∀ (s : State) (a : Access) (i : Instr), a.Ready s → Memory.wf s.mem = true → a.addr + 512 ≤ 2 ^ 48 → a.kind = .dst → a.done + 8 ≤ 512 →
     ((placeOf s a.gcn a.addr = .own ∧ i = .storeAcknowledge a.id) ∨ (placeOf s a.gcn a.addr = .remote ∧ i = .remoteRequest a.id) ∨
       (placeOf s a.gcn a.addr = .hbm ∧ i = .hbmAccess a.id)) →
     ∃ t, exec i s = .next t ∧
       (∀ b, b < 8 → holeAt s (a.addr + a.done + b) = false → readByte t (a.addr + a.done + b) = a.vdata.extractLsb' (8 * (a.done + b)) 8) ∧
       (∀ b < 2 ^ 48, b < a.addr + a.done ∨ a.addr + a.done + 8 ≤ b → ¬ twinByte s (a.addr + a.done) 8 b → readByte t b = readByte s b) ∧
       (a.done + 8 < 512 → ∃ c, accAt? t a.id = some c ∧ c.done = a.done + 8 ∧ c.performed = false))

/-- R118, R184, R200: an atomic is one indivisible step at its word: `cas` and `xadd` bind the old value and write the new one, an
arrival counts down and turns the phase, a decrement of 0 is the fault 0x0001; no other byte of memory changes, but in the second scratchpad of a lock-step pair (R210). -/
def Obligations.AtomicsArePerformed : Prop :=
  ∀ (s : State) (a : Access), a.Ready s → Memory.wf s.mem = true → a.addr % 8 = 0 → a.addr + 8 ≤ 2 ^ 48 → s.poison = [] →
    holeAt s a.addr = false →
    let v := readVal s a.addr 8
    let writes := fun (t : State) (n : Nat) => readVal t a.addr 8 = n % 2 ^ 64 ∧
      ∀ b < 2 ^ 48, b < a.addr ∨ a.addr + 8 ≤ b → ¬ twinByte s a.addr 8 b → readByte t b = readByte s b
    let bound := fun (t : State) => ∀ u p, strandAt? s a.gcn a.sid = some u → p ∈ u.pending → p.id = a.id →
      ∃ u' q, strandAt? t a.gcn a.sid = some u' ∧ q ∈ u'.pending ∧ q.id = a.id ∧ q.dst = p.dst ∧ q.value = some (.word (BitVec.ofNat 64 v))
    (∀ e, a.kind = .cas e → ∃ t, exec (.atomicPerform a.id) s = .next t ∧ bound t ∧ writes t (if e.toNat = v then a.data.toNat else v)) ∧
    (a.kind = .xadd → ∃ t, exec (.atomicPerform a.id) s = .next t ∧ bound t ∧ writes t (v + a.data.toNat)) ∧
    (∀ d, a.kind = .barArrive d → v % 2 ^ 24 ≠ 0 → v / 2 ^ 24 % 2 ^ 24 ≠ 0 → ∃ t, exec (.atomicPerform a.id) s = .next t ∧
      writes t (if v % 2 ^ 24 = 1 then (v / 2 ^ 48 + 1) % 2 ^ 16 * 2 ^ 48 + v / 2 ^ 24 % 2 ^ 24 * 2 ^ 24 + v / 2 ^ 24 % 2 ^ 24 else v - 1)) ∧
    (∀ d, a.kind = .barArrive d → (v % 2 ^ 24 = 0 ∨ v / 2 ^ 24 % 2 ^ 24 = 0) → exec (.atomicPerform a.id) s = .next (accFault s a 4 2 0 a.addr 63)) ∧
    (a.kind = .exitDec → v ≠ 0 → ∃ t, exec (.atomicPerform a.id) s = .next t ∧ strandAt? t a.gcn a.sid = none ∧ writes t (v - 1)) ∧
    (a.kind = .exitDec → v = 0 → exec (.atomicPerform a.id) s = .next (freeSlot (accFault s a 4 1 0 a.addr 63) a.gcn a.sid))

/-- R82, R171, R172, R179, R189: a bound value arrives at its strand; a performed store is acknowledged; a test that fails parks at the
tail of the wait list or, with a full table, is turned away and repeated after 256 cycles, and is dropped where its task has stopped (R122); the waiters on
a word retry in the order in which they parked once a test passes: a load, a store and a waiting word that pass complete, and one that fails
again goes back to the tail; a word whose answer comes from another core of the cluster is complete when that arrives in its turn (R305); the
chunk of a fill lands. -/
def Obligations.WaitsAndRetries : Prop :=
  ∀ (s : State) (a : Access) (n g sid : Nat),
    (accAt? s n = none → findPending s n = some (g, sid) → answerInTurn s n = true → exec (.valueArrival n) s = .next (arrive s g sid n)) ∧
    (accAt? s n = some a → isStore a.kind = true → a.performed = true → answerInTurn s n = true → exec (.storeAcknowledge n) s = .next (dropAcc s n)) ∧
    (accAt? s a.id = some a → a.performed = false → a.parked = false → a.mayRepeat s = true → coreHeld s a.gcn = false → mayPerform s a = true → guardHolds s a = false →
      testPasses s a = false →
      (a.kind = .ldf ∨ a.kind = .ldt ∨ a.kind = .stf ∨ a.kind = .join ∨ ∃ p, a.kind = .barWait p) →
      let i : Instr := match placeOf s a.gcn a.addr with
        | .own => if a.kind = .stf then .storeAcknowledge a.id else .valueArrival a.id
        | .remote => .remoteRequest a.id
        | .hbm => .hbmAccess a.id
      (stopsOn s a.gcn = true → ∃ t, exec i s = .next t ∧ t.mem = s.mem ∧ accAt? t a.id = none) ∧
      (stopsOn s a.gcn = false → waitTableFull s a.addr = false → ∃ t, exec i s = .next t ∧ t.mem = s.mem ∧ t.waiters = s.waiters ++ [a.id] ∧
        ∀ b ∈ t.accs, b.id = a.id → b.parked = true) ∧
      (stopsOn s a.gcn = false → waitTableFull s a.addr = true → a.refused = false → ∃ t, exec i s = .next t ∧ t.mem = s.mem ∧ t.waiters = s.waiters ∧
        ∀ b ∈ t.accs, b.id = a.id → b.refused = true ∧ b.since = s.clk ∧ b.mayRepeat s = false)) ∧
    (accAt? s a.id = some a → a.refused = true → (s.clk - a.since).toNat < 256 →
      exec (.waitTableRetry a.id) s = .refused (.notEnabled "WAIT_TABLE_RETRY") ∧ exec (.remoteRequest a.id) s = .refused (.notEnabled "REMOTE_REQUEST")) ∧
    (a.Ready s → a.refused = true → placeOf s a.gcn a.addr = .remote → (a.kind = .ldf ∨ a.kind = .ldt ∨ a.kind = .stf) →
      exec (.waitTableRetry a.id) s = exec (.remoteRequest a.id) s ∧ ∃ t, exec (.waitTableRetry a.id) s = .next t) ∧
    (waitersOn s (wordOf n) = [a.id] → accAt? s a.id = some a → testPasses s a = true → guardHolds s a = false → (a.kind = .ldf ∨ a.kind = .ldt) →
      ∃ t, exec (.feWaiterRetry n) s = .next t ∧ accAt? t a.id = none ∧
        (∀ u p, strandAt? s a.gcn a.sid = some u → p ∈ u.pending → p.id = a.id → ∃ u' q, strandAt? t a.gcn a.sid = some u' ∧ q ∈ u'.pending ∧
          q.id = a.id ∧ q.value = some (.word (BitVec.ofNat 64 (readVal s a.addr 8))))) ∧
    (waitersOn s (wordOf n) = [a.id] → accAt? s a.id = some a → testPasses s a = true → s.poison = [] → Memory.wf s.mem = true →
      a.addr + 8 ≤ 2 ^ 48 → holeAt s a.addr = false →
      (a.kind = .stf → a.addr % 8 = 0 → ∃ t c, exec (.feWaiterRetry n) s = .next t ∧ readVal t a.addr 8 = a.data.toNat ∧ isEmpty t a.addr = false ∧
        accAt? t a.id = some c ∧ c.performed = true ∧ c.parked = false) ∧
      (a.byMessage = false → (a.kind = .join ∨ ∃ p, a.kind = .barWait p) → ∃ t, exec (.feWaiterRetry n) s = .next t ∧ accAt? t a.id = none ∧
        t.mem = s.mem ∧ ∀ u, strandAt? s a.gcn a.sid = some u → strandAt? t a.gcn a.sid = some (advance u)) ∧
      (a.byMessage = true → (a.kind = .join ∨ ∃ p, a.kind = .barWait p) → ∃ t c, exec (.feWaiterRetry n) s = .next t ∧ accAt? t a.id = some c ∧
        c.performed = true ∧ c.parked = false ∧ t.mem = s.mem ∧ strandAt? t a.gcn a.sid = strandAt? s a.gcn a.sid)) ∧
    (accAt? s n = some a → a.performed = true → (a.kind = .join ∨ (∃ d, a.kind = .barArrive d) ∨ ∃ p, a.kind = .barWait p) →
      answerInTurn s n = true → ∃ t, exec (.valueArrival n) s = .next t ∧ accAt? t n = none ∧ t.mem = s.mem ∧
        ∀ u, strandAt? s a.gcn a.sid = some u → ∃ u', strandAt? t a.gcn a.sid = some u' ∧ u'.pc = (advance u).pc ∧ u'.wait = (advance u).wait) ∧
    (∀ b, waitersOn s (wordOf n) = [a.id, b.id] → a.id ≠ b.id → accAt? s a.id = some a → accAt? s b.id = some b → b.addr = a.addr →
      holeAt s a.addr = false → testPasses s a = true → guardHolds s a = false → a.kind = .ldt → (b.kind = .ldf ∨ b.kind = .ldt) →
      ∃ t c, exec (.feWaiterRetry n) s = .next t ∧ accAt? t a.id = none ∧ isEmpty t a.addr = true ∧ accAt? t b.id = some c ∧ c.parked = true ∧
        t.waiters = (s.waiters.filter fun m => m != a.id && m != b.id) ++ [b.id]) ∧
    (∀ slot win, accAt? s n = some a → a.kind = .fill slot win → mayPerform s a = true →
      (∀ b ∈ s.accs, b.id < a.id → lineBusy { s with accs := [b] } a.gcn (offOf a.addr) = false) →
      let w := ((strandAt? s a.gcn a.sid).map fun t => t.win win).getD default
      (chunkCheck s w (tenantOn s a.gcn) false a.data.toNat 256 = .fail →
        exec (.tagFillLanding n) s = .next (accFault s a 3 0x10 (regionAux w) a.data.toNat win)) ∧
      (chunkCheck s w (tenantOn s a.gcn) false a.data.toNat 256 = .pass → poisonedIn s a.data.toNat 256 = false →
        ∃ t, exec (.tagFillLanding n) s = .next (dropAcc t a.id) ∧
          (Memory.wf s.mem = true → a.addr + 256 ≤ 2 ^ 48 → ∀ j < 256, holeAt s (a.addr + j) = false →
            readByte t (a.addr + j) = readByte s (a.data.toNat + j)) ∧
          (a.addr % 8 = 0 → holeAt s a.addr = false → isEmpty t a.addr = false)))

/-- R207, R31, R45, R370: the first candidate that fits becomes a strand of the core with the lowest free sid and leaves its queue: a child
in the state of a new strand, a context with all that it carries (R376); the order is stolen entries, the start queue, contexts (refilled ones
before the arrival queue), the bottom of the deque. -/
def Obligations.StrandsAreAdmitted : Prop :=
  ∀ (s : State) (g : Nat), mayAdmit s g = true →
    let c := coreAt s g
    let created := fun (t : State) (u : Strand) (h : Child) (m : Room) => exec (.strandAdmission g) s = .next t ∧ strandAt? t g m.sid = some u ∧
      strandAt? s g m.sid = none ∧ (∀ j < m.sid, (strandAt? s g j).isSome = true) ∧ (∀ q, q ≠ m.sid → strandAt? t g q = strandAt? s g q) ∧
      u.pc = h.pc ∧ u.gen 0 = h.g0 ∧ u.gen 1 = h.g1 ∧ u.gen 2 = h.g2 ∧ (∀ q, 3 ≤ q.toNat → u.gen q = 0) ∧ u.lr = 0 ∧ u.pred = 1 ∧
      u.flags = 0 ∧ u.rnd = 0 ∧ u.tagc = 1 ∧ u.frames = [] ∧ u.pending = [] ∧ (∀ n, u.vreg n = 0) ∧ (∀ n, kget u.xptr n 0 = 0) ∧
      (∀ n, (u.dreg n).tag = 0 ∧ ∀ j < 64, (u.dreg n).bits.extractLsb' (64 * j) 64 = 0x100000000000#64) ∧
      u.tid = h.tid ∧ u.roaming = h.roaming ∧ u.carry = h.carry ∧ u.moves = 0 ∧ u.wins = windowsOn s g
    let fits := fun (h : Child) (m : Room) => roomFor c h.width h.shapeV h.shapeD = some m ∧ h.width ≤ spareEntries c
    (∀ h r m, candidates s g = .start h :: r → fits h m → ∃ t u, created t u h m ∧ (coreAt t g).startQ = c.startQ.tail) ∧
    (∀ h q m, c.stolen = h :: q → fits h m → ∃ t u, created t u h m ∧ (coreAt t g).stolen = q) ∧
    (∀ h m, c.stolen = [] → c.startQ = [] → c.refilled = none → c.spilled = [] → c.arrivals = [] → c.deque.getLast? = some h → fits h m →
      ∃ t u, created t u h m ∧ (coreAt t g).deque = c.deque.dropLast) ∧
    (∀ y m, c.stolen = [] → c.startQ = [] → (c.refilled = some y ∨ c.refilled = none ∧ c.spilled = [] ∧ c.arrivals.head? = some y) →
      roomFor c y.carry 0 0 = some m → y.carry ≤ spareEntries c →
      ∃ t u, exec (.strandAdmission g) s = .next t ∧ strandAt? t g m.sid = some u ∧ strandAt? s g m.sid = none ∧
        (∀ j < m.sid, (strandAt? s g j).isSome = true) ∧ u.pc = y.pc ∧ u.lr = y.lr ∧ u.pred = y.pred ∧ u.flags = y.flags ∧ u.rnd = y.rnd ∧
        u.tagc = y.tagc ∧ u.tid = y.tid ∧ u.carry = y.carry ∧ u.moves = y.moves ∧ u.roaming = true ∧ u.wins = windowsOn s g ∧
        (∀ q < y.carry, u.gen (BitVec.ofNat 7 q) = (if q < 120 then y.regs.getD q 0 else u.gen (BitVec.ofNat 7 q))) ∧
        (coreAt t g).refilled = none ∧ (coreAt t g).arrivals = (if c.refilled = some y then c.arrivals else c.arrivals.tail))

/-- R208: when entries are needed, the lowest resident frame of the strand that has the oldest is spilled, and only its residence changes; a spilled top frame
comes back to a strand that waits for it once there is room. R374, R375, R377, R378: the head of the arrival queue, if it is not admitted, spills to the lowest free slot of the spill area and is read back from there
unchanged; a forwarding entry lapses after 1,024 cycles; a forwarded message reaches the strand that waits for it at
the target of an entry of its task, and a copy of one that has arrived is dropped. -/
def Obligations.FramesAndContextsSpill : Prop :=
  (∀ (s : State) (g sid : Nat) (u : Strand),
     (entriesNeeded s g = true → strandAt? s g sid = some u → (sid, u) ∈ residents (coreAt s g) →
       (∃ f ∈ u.frames, f.resident = true ∧ ∀ p ∈ residents (coreAt s g), p ≠ (sid, u) → ∀ q ∈ p.2.frames, q.resident = true → f.age < q.age) →
       ∃ (t : State) (l r : List Frame) (f : Frame), exec (.frameSpill g) s = .next t ∧
         u.frames = l ++ f :: r ∧ f.resident = true ∧ (∀ q ∈ r, q.resident = false) ∧
         strandAt? t g sid = some { u with frames := l ++ { f with resident := false } :: r }) ∧
     (∀ f r, strandAt? s g sid = some u → u.frames = f :: r → u.wait = some .frame → f.resident = false → f.k + 2 ≤ spareEntries (coreAt s g) →
       ∃ t, exec (.frameRefill g sid) s = .next t ∧
         strandAt? t g sid = some { u with frames := { f with resident := true } :: r, wait := none })) ∧
  (∀ (s : State) (g n : Nat),
     (∀ y r, (coreAt s g).arrivals = y :: r → admitsArrival s g = false → (∃ j < 64, j ∉ (coreAt s g).spilled) → Memory.wf s.mem = true →
       y.regs.length = 24 → y.origin < 4096 → (y.carry = 8 ∨ y.carry = 16 ∨ y.carry = 24) →
       ∃ t i, exec (.contextSpill g) s = .next t ∧ i < 64 ∧ i ∉ (coreAt s g).spilled ∧ (∀ j < i, j ∈ (coreAt s g).spilled) ∧
         (coreAt t g).arrivals = r ∧ (coreAt t g).spilled = (coreAt s g).spilled ++ [i] ∧ spillCtx t g i = y) ∧
     (∀ i r, (coreAt s g).refilled = none → (coreAt s g).spilled = i :: r → mayAdmit s g = true →
       (∀ h, (coreAt s g).stolen.head? = some h ∨ (coreAt s g).startQ.head? = some h → roomFor (coreAt s g) h.width h.shapeV h.shapeD = none) →
       (roomFor (coreAt s g) (spillCtx s g i).carry 0 0).isSome = true →
       ∃ t, exec (.contextRefill g) s = .next t ∧ (coreAt t g).refilled = some (spillCtx s g i) ∧ (coreAt t g).spilled = r) ∧
     (∀ e r, (coreAt s g).fwds = e :: r → 1024 ≤ (s.clk - e.since).toNat → ∃ t, exec (.forwardingEntryExpiry g) s = .next t ∧ (coreAt t g).fwds = r) ∧
     (∀ h sid e u, e ∈ (coreAt s g).fwds → accAt? s n = none → findPending s n = some (h, sid) → answerInTurn s n = true → e.dst = h → h ≠ g →
       strandAt? s h sid = some u → u.roaming = true → u.tid = e.tid → exec (.forwardedMessage g n) s = .next (arrive s h sid n)) ∧
     ((coreAt s g).fwds ≠ [] → accAt? s n = none → findPending s n = none → exec (.forwardedMessage g n) s = .next s))

/-- R367, R369, R370: a thief asks its next victim; the victim gives up the top of its deque or answers empty; the entry becomes a
first candidate of the thief, behind those stolen before it (log entry 62); each message in its turn (R305); a full cycle of empty answers makes it back off for 256 cycles. -/
def Obligations.StealingMovesEntries : Prop :=
  ∀ (s : State) (g v : Nat),
    (∀ l, isThief s g = true → (coreAt s g).steal.backoff = none →
      (∀ t, taskOn s g = some t → victimsOf t g ((coreAt s g).steal.last.getD g) = v :: l) → ∃ t, exec (.stealRequest g) s = .next t ∧
        (coreAt t g).steal.asked = some v ∧ (coreAt t g).deque = (coreAt s g).deque) ∧
    (g ≠ v → (coreAt s g).steal.asked = some v → (coreAt s g).steal.answer = none → firstOnWay s g v .steal = true → ∃ t, exec (.stealRequest g) s = .next t ∧
      (coreAt t v).deque = (coreAt s v).deque.tail ∧ (coreAt t g).steal.answer = some ((coreAt s v).deque.head?)) ∧
    (∀ h, (coreAt s g).steal.answer = some (some h) → firstOnWay s ((coreAt s g).steal.asked.getD g) g .stolen = true → ∃ t, exec (.stealReply g) s = .next t ∧ (coreAt t g).stolen = (coreAt s g).stolen ++ [h] ∧
      (coreAt t g).steal.asked = none ∧ (candidates t g).head? = some (.stolen ((coreAt s g).stolen.headD h))) ∧
    ((coreAt s g).steal.answer = some none → firstOnWay s ((coreAt s g).steal.asked.getD g) g .stolen = true → ∃ t, exec (.stealReply g) s = .next t ∧ (coreAt t g).steal.asked = none ∧
      (coreAt t g).stolen = (coreAt s g).stolen ∧
      (∀ u, taskOn s g = some u → (coreAt s g).steal.backoff = none → ((coreAt t g).steal.backoff = some s.clk ↔
        (victimsOf u g g).length ≤ (coreAt s g).steal.empties + 1))) ∧
    (∀ c, (coreAt s g).steal.backoff = some c → 256 ≤ (s.clk - c).toNat → ∃ t, exec (.stealBackoffExpiry g) s = .next t ∧
      (coreAt t g).steal.backoff = none ∧ (coreAt t g).stolen = (coreAt s g).stolen)

/-- R372 to R376, R378: a migrating strand departs once nothing of its is outstanding; the target queues its context or refuses it; a
refused context is sent again after 256 cycles; an accepted one frees the old slot and leaves a forwarding entry; each message in its turn (R305). The
migration that begins is counted among a context's moves (log entry 16). -/
def Obligations.MigrationMovesStrands : Prop :=
  ∀ (s : State) (g sid h n : Nat) (u : Strand) (f : Flight),
    (strandAt? s g sid = some u → u.wait = some (.migrate h) → u.stopped = false → u.pending = [] → accsOf s g sid = [] →
      (∃ k, taskOn s g = some k ∧ k.goesOn g = true) → (∀ q ∈ s.flights, ¬(q.src = g ∧ q.sid = sid)) →
      ∃ t q, exec (.migrationDeparture g sid) s = .next t ∧ t.flights = s.flights ++ [q] ∧ q.src = g ∧ q.sid = sid ∧ q.dst = h ∧ q.phase = .sent ∧
        q.ctx.pc = savePc u ∧ q.ctx.origin = g ∧ q.ctx.moves = u.moves + 1 ∧ q.ctx.lr = u.lr ∧ q.ctx.pred = u.pred ∧ q.ctx.tid = u.tid ∧
        q.ctx.flags = u.flags ∧ q.ctx.rnd = u.rnd ∧ q.ctx.tagc = u.tagc ∧ q.ctx.carry = u.carry ∧
        (∀ j < 24, q.ctx.regs.getD j 0 = if j < u.carry then kget u.regs j 0 else 0)) ∧
    (flightAt? s n .sent = some f → firstOnWay s f.src f.dst (.context n) = true → (∀ q ∈ s.flights, q.id = n → q = f) → ∃ t, exec (.contextMessage n) s = .next t ∧
      ((coreAt s f.dst).arrivals.length < 32 → (coreAt t f.dst).arrivals = (coreAt s f.dst).arrivals ++ [f.ctx] ∧
        flightAt? t n .accepted = some { f with phase := .accepted }) ∧
      (32 ≤ (coreAt s f.dst).arrivals.length → (coreAt t f.dst).arrivals = (coreAt s f.dst).arrivals ∧
        flightAt? t n .refused = some { f with phase := .refused })) ∧
    (flightAt? s n .refused = some f → firstOnWay s f.dst f.src (.contextAnswer n) = true → (∀ q ∈ s.flights, q.id = n → q = f) → ∃ t, exec (.migrationRefusal n) s = .next t ∧ flightAt? t n .backoff = some { f with phase := .backoff, since := s.clk }) ∧
    (flightAt? s n .backoff = some f → 256 ≤ (s.clk - f.since).toNat → (∀ q ∈ s.flights, q.id = n → q = f) → ∃ t, exec (.migrationResend n) s = .next t ∧ flightAt? t n .sent = some { f with phase := .sent }) ∧
    (flightAt? s n .accepted = some f → firstOnWay s f.dst f.src (.contextAnswer n) = true → ∃ t e l, exec (.migrationAcceptance n) s = .next t ∧ strandAt? t f.src f.sid = none ∧
      (coreAt t f.src).fwds = l ++ [e] ∧ l.length ≤ max 15 ((coreAt s f.src).fwds.length - 1) ∧ e.sid = f.sid ∧ e.dst = f.dst ∧ e.tid = f.ctx.tid ∧ e.since = s.clk ∧
      flightAt? t n .accepted = none)

/-- R217, R219, R221, R243: a V-form word is put into the engine's queue with its pointer addresses and `rnd` captured, its pointer
registers advanced by their steps (R38), under `rep` once for each repeat, and, if it touches memory, its access counted; `vld` and `vst` with their address too, and a `vst` that leaves a
lock-step pair takes a place in its release buffer (R210). R223, R244, R245: moves between a strand's vector or pointer registers and its general registers, and `vx.sync`. -/
def Obligations.VectorWordsIssue : Prop :=
  (∀ (s : State) (x : Iss) (i : Instr), Issues s x i → (debugOn (afterReads s x i) x.g = true → xAudit i x.t = none) → x.c.vq.length < 2 →
     (∀ n ∈ xNums i, xAddr x.t n % 64 = 0) → (vecAccess i = true → accessReady s x.g x.sid false = true) →
     let queued := fun (ea : Nat) => ∃ t e, exec i s = .next t ∧ (coreAt t x.g).vq = x.c.vq ++ [e] ∧ e.instr = i ∧ e.sid = x.sid ∧
       e.rnd = x.t.rnd ∧ e.ea = ea ∧ e.xs = (xNums i).map (fun n => (n, BitVec.ofNat 48 (xAddr x.t n))) ∧ e.acc.isSome = vecAccess i ∧
       (∀ n, e.acc = some n → n = s.nextId ∧ ∃ a ∈ t.accs, a.id = n ∧ a.kind = .vector ∧ a.gcn = x.g ∧ a.sid = x.sid ∧
         (reachesOut i = true → a.addr = ea)) ∧ t.mem = s.mem ∧
       ∃ u, strandAt? t x.g x.sid = some u ∧ u = { advance x.t with xptr := u.xptr } ∧
         (∀ n ∉ xNums i, kget u.xptr n 0 = kget x.t.xptr n 0) ∧
         ∀ n ∈ xNums i, bits (kget u.xptr n 0) 0 48 = addr48 ((xAddr x.t n : Int) + sbits (kget x.t.xptr n 0) 48 16) ∧
           bits (kget u.xptr n 0) 48 16 = bits (kget x.t.xptr n 0) 48 16
     (queuedWord i = true → queued 0) ∧
     let ea := (input s x i 0).toNat % 2 ^ 48
     let audited := fun (dir : BitVec 2) => debugOn (afterReads s x i) x.g = true ∧ inWindow x.t ea 512 dir = false
     (∀ d g, i = .vld d g → ea % 64 = 0 → ¬ audited 1 → queued ea) ∧
     (∀ d g, i = .vst d g → ea % 64 = 0 → ¬ audited 2 →
       (leavesPair x ea = false → queued ea) ∧
       (leavesPair x ea = true → lockDue (afterReads s x i) x.g = false → ∃ t l l', exec i s = .next t ∧ x.c.lock = some l ∧ (coreAt t x.g).lock = some l' ∧
         l'.release = l.release ++ [s.nextId] ∧ ∃ e, (coreAt t x.g).vq = x.c.vq ++ [e] ∧ e.instr = i ∧ e.acc = some s.nextId))) ∧
  (∀ (s : State) (x : Iss) (i : Instr) (d r : RCode) (v : BitVec 6) (n : BitVec 5) (t p : BitVec 3), Issues s x i →
     let w := 8 * laneBytes t
     let L := 512 / laneBytes t
     (i = .vmovg d v n t → vecDone s x.g x.sid = true → let l := lane w (x.t.vreg v.toNat).toNat ((input s x i 0).toNat % L)
       Computes s x i d (if t.toNat < 3 then BitVec.ofInt 64 (sval w l) else BitVec.ofNat 64 l) 0) ∧
     (i = .vmovv v r n t → vecDone s x.g x.sid = true → ∃ V : Vec, exec i s = .next (retire (updStrand (afterReads s x i) x.g x.sid fun u =>
         { u with vregs := kset u.vregs v.toNat V }) x) ∧ ∀ j < L, lane w V.toNat j =
           if j = (input s x i 1).toNat % L then (input s x i 0).toNat % 2 ^ w else lane w (x.t.vreg v.toNat).toNat j) ∧
     (i = .vmovx p r → exec i s = .next (retire (updStrand (afterReads s x i) x.g x.sid fun u =>
         { u with xptr := kset u.xptr p.toNat (input s x i 0) }) x)) ∧
     (i = .vmovfx d p → Computes s x i d (kget x.t.xptr p.toNat 0) 0) ∧
     (i = .vxSync → vecDone s x.g x.sid = true → exec i s = .next (retire s x)))

/-- R218 to R222: the word at the head of the queue starts on a free engine once its channels hold its vectors and its memory operands
are ready, reading its sources then and consuming the vectors that its channels hold; at its completion its registers or the bytes of its own
slot that its pointer names are written, its flags merged and the engine is free. R232, R243: a `vst` frees it with its write in flight, and a `vld` with its bytes; what reaches another core keeps its turn (R305). R242: a core's n-th `vswap` off the diagonal completes with its
partner's n-th vector. -/
def Obligations.QueuedVectorsRun : Prop :=
  ∀ (s : State) (g : Nat) (u : Strand),
    (∀ e r, quiescing s g = false → (coreAt s g).vrun = none → (coreAt s g).vq = e :: r → channelFault s g e.instr = none →
      (∀ ch, (chNums e.instr).count ch ≤ (kget (coreAt s g).chans ch []).length) → vecMemReady s g e = true →
      poisonedSource s g e = none → kget? (coreAt s g).strands e.sid = some u →
      let o := vecOut e.instr e.rnd (vecSources s g u e.xs (usesOf e.instr).vs (coreAt s g).chans).1
      ∃ t run, exec (.vectorStart g) s = .next t ∧ (coreAt t g).vq = r ∧ (coreAt t g).vrun = some run ∧ run.entry = e ∧ run.flags = o.flags ∧ run.writes = o.writes.map (vecWrite e) ∧ t.mem = s.mem ∧
        ∀ ch, kget (coreAt t g).chans ch [] = (kget (coreAt s g).chans ch []).drop ((chNums e.instr).count ch)) ∧
    (∀ run, (coreAt s g).vrun = some run → run.partner = false → queuedWord run.entry.instr = true → kget? (coreAt s g).strands run.entry.sid = some u →
      (∀ w ∈ run.writes, ∃ n v, w = .reg n v) →
      ∃ t u', exec (.vectorComplete g) s = .next t ∧ (coreAt t g).vrun = none ∧ strandAt? t g run.entry.sid = some u' ∧
        (∀ n v, run.writes = [.reg n v] → u'.vreg n = v ∧ ∀ q, q ≠ n → u'.vreg q = u.vreg q) ∧
        (∀ n v m w, run.writes = [.reg n v, .reg m w] → n ≠ m → u'.vreg n = v ∧ u'.vreg m = w) ∧
        u'.flags = u.flags ||| run.flags ||| (if run.hole then fHole else 0) ∧ t.mem = s.mem) ∧
    (∀ run a V, (coreAt s g).vrun = some run → run.partner = false → queuedWord run.entry.instr = true → kget? (coreAt s g).strands run.entry.sid = some u →
      run.writes = [.mem a V] → a % 64 = 0 → Memory.wf s.mem = true →
      ∃ t u', exec (.vectorComplete g) s = .next t ∧ (coreAt t g).vrun = none ∧ strandAt? t g run.entry.sid = some u' ∧
        u'.flags = u.flags ||| run.flags ||| (if run.hole then fHole else 0) ∧
        (∀ b < 2 ^ 48, a ≤ b → b < a + 512 → ownBytes g b = true → holeAt s b = false → readByte t b = V.extractLsb' (8 * (b - a)) 8) ∧
        (∀ b < 2 ^ 48, b < a ∨ a + 512 ≤ b ∨ ownBytes g b = false ∨ holeAt s b = true → ¬ twinByte s a 512 b → readByte t b = readByte s b)) ∧
    (∀ run d a, (coreAt s g).vrun = some run → run.partner = false → run.entry.instr = .vld d a → d.toNat < 32 →
      kget? (coreAt s g).strands run.entry.sid = some u →
      let loads := fun (V : Vec) => ∃ t u', exec (.vectorComplete g) s = .next t ∧ (coreAt t g).vrun = none ∧ strandAt? t g run.entry.sid = some u' ∧
        u'.vreg d.toNat = V ∧ t.mem = s.mem
      ((∀ q, run.entry.acc.bind (accAt? s) = some q → q.performed = false) → vecTurn s run = true → poisonedIn s run.entry.ea 512 = false →
        loads (BitVec.ofNat 4096 (readVal s run.entry.ea 512))) ∧
      (∀ q, run.entry.acc.bind (accAt? s) = some q → q.performed = true → answerInTurn s q.id = true → q.bad = none → loads q.vdata)) ∧
    (∀ a : Access, a.Ready s → a.kind = .vector → startedVld s a = true → placeOf s a.gcn a.addr = .remote → ∃ t c, exec (.remoteRequest a.id) s = .next t ∧
      accAt? t a.id = some c ∧ c.performed = true ∧ c.vdata = BitVec.ofNat 4096 (readVal s a.addr 512) ∧ t.mem = s.mem) ∧
    (∀ run d a V n q, (coreAt s g).vrun = some run → run.partner = false → run.entry.instr = .vst d a → run.writes = [.mem run.entry.ea V] →
      run.entry.acc = some n → accAt? s n = some q → kget? (coreAt s g).strands run.entry.sid = some u →
      ∃ t u', exec (.vectorComplete g) s = .next t ∧ (coreAt t g).vrun = none ∧ accAt? t n = some { q with kind := .vst, vdata := V } ∧
        strandAt? t g run.entry.sid = some u' ∧ u'.flags = u.flags ||| (if anyHole s run.entry.ea 512 || run.hole then fHole else 0) ∧ t.mem = s.mem) ∧
    (∀ (a : Access) (i : Instr), a.Ready s → a.kind = .vst → Memory.wf s.mem = true → a.addr + 512 ≤ 2 ^ 48 → s.poison = [] →
      ((placeOf s a.gcn a.addr = .own ∧ i = .storeAcknowledge a.id) ∨ (placeOf s a.gcn a.addr = .remote ∧ i = .remoteRequest a.id) ∨
        (placeOf s a.gcn a.addr = .hbm ∧ i = .hbmAccess a.id)) →
      ∃ t, exec i s = .next t ∧
        (∀ b < 2 ^ 48, holeAt s b = false → a.addr ≤ b → b < a.addr + 512 → readByte t b = a.vdata.extractLsb' (8 * (b - a.addr)) 8) ∧
        (∀ b < 2 ^ 48, b < a.addr ∨ a.addr + 512 ≤ b → ¬ twinByte s a.addr 512 b → readByte t b = readByte s b)) ∧
    (∀ ch v, (coreAt s g).chanFlight.find? (fun p => p.1 == ch) = some (ch, v) → (kget (coreAt s g).chans ch []).length < 2 →
      ∃ t, exec (.channelVectorArrival g ch) s = .next t ∧ kget (coreAt t g).chans ch [] = kget (coreAt s g).chans ch [] ++ [v]) ∧
    (∀ p r, partnerOf g ≠ g → (coreAt s (partnerOf g)).vswapSent = p :: r → firstOnWay s (partnerOf g) g .swap = true →
      ∃ t, exec (.vswapVectorArrival g) s = .next t ∧ (coreAt t (partnerOf g)).vswapSent = r ∧
        (coreAt t g).vswapIn = if swapKnown (coreAt s g) p.1 then (coreAt s g).vswapIn else (coreAt s g).vswapIn ++ [p]) ∧
    (∀ run d a p, (coreAt s g).vrun = some run → run.partner = true → run.entry.instr = .vswap d a → d.toNat < 32 →
      (coreAt s g).vswapIn.find? (fun q => q.1 == (coreAt s g).vswapStarted) = some p → kget? (coreAt s g).strands run.entry.sid = some u →
      ∃ t u', exec (.vectorComplete g) s = .next t ∧ (coreAt t g).vrun = none ∧ strandAt? t g run.entry.sid = some u' ∧ u'.vreg d.toNat = p.2 ∧ t.mem = s.mem)

/-- R215, R226: what the integer words of the vector engine write in each lane, wrapped to the lane's width or clamped with `sat`. -/
def Obligations.VectorIntegerLanes : Prop :=
  ∀ (d a b : BitVec 6) (t : BitVec 3) (m : BitVec 2) (A B : Nat), t.toNat < 3 → A < 2 ^ 4096 → B < 2 ^ 4096 →
    let w := 8 * 2 ^ t.toNat
    let S := fun (v : Nat) (j : Nat) => sval w (lane w v j)
    let N := fun (v : Nat) (j : Nat) => lane w v j
    let is := fun (i : Instr) (f : Nat → Int) => ∃ R, vecOut i m [A, B] = { writes := [(d, false, R)], flags := 0 } ∧ R < 2 ^ 4096 ∧
      ∀ j < 4096 / w, lane w R j = (f j % 2 ^ w).toNat
    let clamps := fun (i : Instr) (lo hi : Int) (f : Nat → Int) => ∃ R F, vecOut i m [A, B] = { writes := [(d, false, R)], flags := F } ∧ R < 2 ^ 4096 ∧
      (∀ j < 4096 / w, lane w R j = (max lo (min hi (f j)) % 2 ^ w).toNat) ∧
      F = if ∃ j, j < 4096 / w ∧ (f j < lo ∨ hi < f j) then fSat else 0
    let lo : Int := -(2 ^ (w - 1))
    let hi : Int := 2 ^ (w - 1) - 1
    is (.vadd d a b t) (fun j => S A j + S B j) ∧
    is (.vsub d a b t) (fun j => S A j - S B j) ∧
    is (.vmul d a b t) (fun j => S A j * S B j) ∧
    is (.vmulh d a b t) (fun j => S A j * S B j / 2 ^ w) ∧
    is (.vmin d a b t) (fun j => min (S A j) (S B j)) ∧
    is (.vmax d a b t) (fun j => max (S A j) (S B j)) ∧
    is (.vminn d a b t) (fun j => min (N A j) (N B j)) ∧
    is (.vmaxn d a b t) (fun j => max (N A j) (N B j)) ∧
    clamps (.vadds d a b t) lo hi (fun j => S A j + S B j) ∧
    clamps (.vsubs d a b t) lo hi (fun j => S A j - S B j) ∧
    clamps (.vaddsn d a b t) 0 (2 ^ w - 1) (fun j => N A j + N B j) ∧
    clamps (.vsubsn d a b t) 0 (2 ^ w - 1) (fun j => (N A j : Int) - N B j) ∧
    clamps (.vabs d a t) lo hi (fun j => ((S A j).natAbs : Int)) ∧
    clamps (.vneg d a t) lo hi (fun j => -S A j) ∧
    is (.vshl d a b t) (fun j => N A j * 2 ^ N B j) ∧
    is (.vshr d a b t) (fun j => N A j / 2 ^ N B j) ∧
    is (.vsra d a b t) (fun j => S A j / 2 ^ N B j) ∧
    is (.vand d a b) (fun j => ((N A j &&& N B j : Nat) : Int)) ∧
    is (.vor d a b) (fun j => ((N A j ||| N B j : Nat) : Int)) ∧
    is (.vxor d a b) (fun j => ((N A j ^^^ N B j : Nat) : Int))

/-- R131 to R136, R138, R140, R141: a word of major 39 on a free engine, with no strand in front of it, occupies it and leaves an entry with its result: point by point
and with the common tag for equal tags, condensed from all pairings and with a fresh tag for different ones; the engine is released. -/
def Obligations.DistributionArithmetic : Prop :=
  ∀ (s : State) (x : Iss) (i : Instr) (d a b : BitVec 3) (k : BitVec 4), Issues s x i → x.c.distBusy = false → earlierWaits x.c x.sid = false →
    let A := x.t.dreg a.toNat
    let B := x.t.dreg b.toNat
    let val := fun (V : Vec) (e j : Nat) => (V.extractLsb' (512 * e + 64 * j) 32).toNat
    let wt := fun (V : Vec) (e j : Nat) => (V.extractLsb' (512 * e + 64 * j + 32) 16).toNat
    let gives := fun (S : State) (r : DReg) (f : Flags) =>
      exec i s = .next (issueLate (occupy S x) x (.dist d.toNat) k (.dist r) f)
    let pairs := (List.range 64).map fun n => (n / 8, n % 8)
    (∀ o : DOp, (i, o) ∈ [(.dadd d a b k, .add), (.dsub d a b k, .sub), (.dmul d a b k, .mul), (.dmax d a b k, .max), (.dmin d a b k, .min)] →
      (A.tag = B.tag → ∃ r : DReg, r.tag = A.tag ∧
        (∀ e < 8, ∀ j < 8, wt r.bits e j = wt A.bits e j ∧ val r.bits e j = (pairOp o (val A.bits e j) (val B.bits e j)).1 % 2 ^ 32) ∧
        gives (afterReads s x i) r ((pairs.map fun p =>
          (if wt A.bits p.1 p.2 = 0 then 0 else (pairOp o (val A.bits p.1 p.2) (val B.bits p.1 p.2)).2) |||
          (if wt A.bits p.1 p.2 = wt B.bits p.1 p.2 then 0 else fWmm)).foldl (fun f g => f ||| g) 0)) ∧
      (A.tag ≠ B.tag → let all := fun (e : Nat) => pairs.map fun p => ((pairOp o (val A.bits e p.1) (val B.bits e p.2)).1, wt A.bits e p.1 * wt B.bits e p.2)
        ∃ r : DReg, r.tag = x.t.tagc ∧
        (∀ e < 8, (∀ j < 8, wt r.bits e j = 4096) ∧ (List.range 8).map (val r.bits e) =
          (condense (all e)).1.map fun q => q.v % 2 ^ 32) ∧
        gives (updStrand (afterReads s x i) x.g x.sid fun t => { t with tagc := if t.tagc = 0xFFFF then 1 else t.tagc + 1 }) r
          (((List.range 8).map fun e => (pairs.map fun p => if wt A.bits e p.1 * wt B.bits e p.2 = 0 then 0 else
            (pairOp o (val A.bits e p.1) (val B.bits e p.2)).2).foldl (fun f g => f ||| g) (condense (all e)).2).foldl (fun f g => f ||| g) 0))) ∧
    (i = .dneg d a k → ∃ r : DReg, r.tag = A.tag ∧
      (∀ e < 8, ∀ j < 8, wt r.bits e j = wt A.bits e j ∧ val r.bits e j = val A.bits e j ^^^ 2 ^ 31) ∧ gives (afterReads s x i) r 0) ∧
    (∀ g, (coreAt s g).distBusy = true → exec (.distributionEngineRelease g) s = .next (updCore s g fun c => { c with distBusy := false }))

/-- R138, R143 to R147, R156 to R158: loads, stores, makes and retags of distribution registers; moments and quantiles into a vector
register or a general register. R371, R372: a roaming strand's access to the slot of another core of its gang makes it wait to migrate. -/
def Obligations.DistributionMovesAndExtraction : Prop :=
  ∀ (s : State) (x : Iss) (i : Instr) (d a : BitVec 3) (g : RCode) (k : BitVec 4) (n : BitVec 2), Issues s x i →
    let s1 := afterReads s x i
    let ea := (input s x i 0).toNat % 2 ^ 48
    let A := x.t.dreg a.toNat
    let val := fun (V : Vec) (e j : Nat) => (V.extractLsb' (512 * e + 64 * j) 32).toNat
    let wt := fun (V : Vec) (e j : Nat) => (V.extractLsb' (512 * e + 64 * j + 32) 16).toNat
    let tagged := updStrand s1 x.g x.sid fun t => { t with tagc := if t.tagc = 0xFFFF then 1 else t.tagc + 1 }
    let accesses := fun (width : Nat) (dir : BitVec 2) (t : State) => accessReady s x.g x.sid false = true →
      (ea % 64 = 0 → (debugOn s1 x.g = true → inWindow x.t ea width dir = true) → (dir = 2 → leavesPair x ea = false) → migration s1 x ea = .stay → exec i s = .next t) ∧
      (ea % 64 = 0 → (debugOn s1 x.g = true → inWindow x.t ea width dir = true) → Roams s x i ea (input s x i 0)) ∧
      (ea % 64 ≠ 0 → exec i s = .next (raiseAt s x 1 2 0 (input s x i 0).toNat 63))
    let E := fun (e : Nat) => (List.range 8).map fun j => ({ w := wt A.bits e j, v := val A.bits e j } : Point)
    let busy := occupy s1 x
    let lanes := fun (l : List (Nat × Flags)) => x.c.distBusy = false → earlierWaits x.c x.sid = false → ∃ V : Vec,
      (∀ e < 8, (V.extractLsb' (32 * e) 32).toNat = (l.getD e (0, 0)).1 % 2 ^ 32) ∧ V.toNat < 2 ^ 256 ∧
      exec i s = .next (issueLate busy x (.vec d.toNat) k (.vec V) (l.foldl (fun f p => f ||| p.2) 0))
    let one := fun (r : Nat × Flags) => x.c.distBusy = false → earlierWaits x.c x.sid = false →
      exec i s = .next (issueLate busy x (.gen g) k (.word (BitVec.ofNat 64 r.1)) r.2)
    (i = .dld d g k → accesses 512 1 (issueLoad tagged x (.dld x.t.tagc) ea 0 (.dist d.toNat) k false)) ∧
    (i = .dmk d g k → accesses 256 1 (issueLoad tagged x (.dmk x.t.tagc) ea 0 (.dist d.toNat) k false)) ∧
    (i = .dst a g → accesses 512 2 (retire (newAccess (holeFlag s1 x ea 512) x .dst ea 0 A.bits false).2 x)) ∧
    (i = .dtag d a g k → exec i s = .next (issueLate s1 x (.dist d.toNat) k (.dist { bits := A.bits, tag := (input s x i 0).truncate 16 }) 0)) ∧
    (i = .dsplat d g k → ∃ r : DReg, r.tag = x.t.tagc ∧
      (∀ e < 8, ∀ j < 8, wt r.bits e j = 4096 ∧ val r.bits e j = (input s x i 0).toNat % 2 ^ 32) ∧
      exec i s = .next (issueLate tagged x (.dist d.toNat) k (.dist r) 0)) ∧
    (i = .dmomV d a k n → lanes ((List.range 8).map fun e => moment (E e) (n.toNat + 1))) ∧
    (i = .dmomG a g k n → one (moment (E ((x.t.gen g).toNat % 8)) (n.toNat + 1))) ∧
    (i = .dqntV d a g k → lanes ((List.range 8).map fun e => quantile (E e) ((input s x i 0).toNat / 2 ^ 16 % 2 ^ 16))) ∧
    (i = .dqntG a g k → one (quantile (E ((x.t.gen g).toNat % 8)) ((x.t.gen g).toNat / 2 ^ 16 % 2 ^ 16)))

/-- R133, R134: the result of one pairing, and the eight points that condensation makes of points whose masses total 2^30: each bin of 2^27, in
the order of the values with NaNs last, is the mean of what falls in it, rounded once. R156, R157: a moment is the exact value of its sum rounded once; a quantile is the value of the first point, in ascending order, at
which the weight covered reaches the level. -/
def Obligations.CombinationAndExtraction : Prop :=
  ((∀ a b : Nat, let x := f32.decode a
     let y := f32.decode b
     let ext := fun (g : Bool) => if x.isNan || y.isNan then (0x7FC00000, if x.isSnan || y.isSnan then fNv else 0) else ((f32.minmax g a b).1, (0 : Flags))
     pairOp .add a b = f32.add 0 x y ∧ pairOp .sub a b = f32.add 0 x y.neg ∧ pairOp .mul a b = f32.mul 0 x y ∧ pairOp .max a b = ext true ∧
       pairOp .min a b = ext false) ∧
   (∀ L : List (Nat × Nat), (L.map fun p => p.2).sum = 2 ^ 30 →
     let v := fun (p : Nat × Nat) => f32.decode p.1
     ∃ S : List (Nat × Nat), S.Perm L ∧
       S.Pairwise (fun p q => (v p).isNan = true → (v q).isNan = true) ∧ S.Pairwise (fun p q => (v q).isNan = false → (v q).lt (v p) = false) ∧
       let c := fun (j : Nat) => ((S.take j).map fun p => p.2).sum
       let part := fun (b j : Nat) => min (c (j + 1)) ((b + 1) * 2 ^ 27) - max (c j) (b * 2 ^ 27)
       let holds := fun (b : Nat) (u : FVal → Bool) => (List.range S.length).any fun j => decide (0 < part b j) && u (v (S.getD j (0, 0)))
       let clash := fun (b : Nat) => !holds b FVal.isNan && holds b (· == .inf false) && holds b (· == .inf true)
       (condense L).1.length = 8 ∧ (condense L).2 = (if (List.range 8).any clash then fNv else 0) ∧ ∀ b < 8,
         let p := (condense L).1.getD b { w := 0, v := 0 }
         p.w = 4096 ∧ p.v = (if holds b FVal.isNan || clash b then 0x7FC00000 else if holds b (· == .inf false) then 0x7F800000
           else if holds b (· == .inf true) then 0xFF800000
           else (roundNear ((List.range S.length).map fun j => (part b j : Int) * units (S.getD j (0, 0)).1).sum (-176)).1))) ∧
  (∀ (E : List Point),
     let P := E.filter fun p => p.w != 0
     let M := (P.map fun p => (p.w : Int) * units p.v).sum
     (∀ n, 1 ≤ n → (∀ p ∈ P, (f32.decode p.v).isFin = true) → moment E n = if n = 1 then roundNear M (-149 - 15)
       else roundNear (P.map fun p => (p.w : Int) * (2 ^ 15 * units p.v - M) ^ n).sum (-(164 * n : Nat) - 15)) ∧
     (∀ n, (∃ p ∈ P, (f32.decode p.v).isNan = true) → (moment E n).1 = 0x7FC00000) ∧
     (∀ p, p < 2 ^ 16 → (P.map fun q => q.w).sum = 32768 → (∀ q ∈ P, (f32.decode q.v).isNan = false) → ∃ q ∈ P, quantile E p = (q.v, 0) ∧
       let less := (P.filter fun r => (f32.decode r.v).lt (f32.decode q.v)).map fun r => r.w
       let more := (P.filter fun r => (f32.decode q.v).lt (f32.decode r.v)).map fun r => r.w
       (less.sum = 0 ∨ 2 * less.sum < p) ∧ p ≤ 2 * (32768 - more.sum)))

/-- R250, R251, R283, R296, R347, R348: `mx.issue` reads a command record and puts it into the matrix queue; `mx.wait` ends once the
strand's commands are complete, with their flags; `cp.req` puts a request into the mailbox; `tspawn` and `tstat` ask the regulator and
leave the rotation until the answer; in a lock-step pair `tspawn` first waits for a checkpoint (R210). -/
def Obligations.RequestsToEngines : Prop :=
  ∀ (s : State) (x : Iss) (i : Instr) (d a b : RCode) (v : BitVec 5) (n : BitVec 4), Issues s x i →
    let s1 := afterReads s x i
    let u := input s x i 0
    let ea := u.toNat % 2 ^ 48
    let asks := fun (spawn : Bool) (w : Window) => exec i s = .next (waitFor { s1 with
      nextId := s1.nextId + 1, reqs := s1.reqs ++ [{ id := s1.nextId, gcn := x.g, sid := x.sid, d := d, spawn := spawn, win := w, arg := u, answer := none }] }
        x (.request s1.nextId))
    (∀ m : Option Vec, (i = .mxIssue a ∧ m = none) ∨ (i = .mxIssueMeta a v ∧ m = some (x.t.vreg v.toNat)) →
      (ea % 64 ≠ 0 → exec i s = .next (raiseAt s x 1 2 0 u.toNat 63)) ∧
      (ea % 64 = 0 → (debugOn s x.g = true → inWindow x.t ea 64 1 = true) → accsOf s x.g x.sid = [] → (m.isSome → vecDone s x.g x.sid = true) → x.c.mq.length < 2 →
        (ownBytes x.g ea = true → poisonedIn s ea 64 = false) → ∃ c : MCmd, exec i s = .next (retire (mergeFlags
          (updCore s1 x.g fun q => { q with mq := q.mq ++ [c] }) x.g x.sid (if ownBytes x.g ea = false ∨ anyHole s ea 64 = true then fHole else 0)) x) ∧
        c.record = (if ownBytes x.g ea then BitVec.ofNat 512 (readVal s ea 64) else 0) ∧ c.meta? = m ∧ c.sid = x.sid ∧ c.addr = ea ∧ c.pc = x.t.pc ∧ c.headOk = false)) ∧
    (i = .mxWait → (∀ m ∈ x.c.mq, m.sid ≠ x.sid) → (∀ r, x.c.mrun = some r → r.cmd.sid ≠ x.sid) →
      exec i s = .next (retire (updStrand s x.g x.sid fun t => { t with flags := t.flags ||| t.mxFlags, mxFlags := 0 }) x)) ∧
    (i = .cpReq a b → accsOf s x.g x.sid = [] →
      (x.c.epHalted = true → exec i s = .next (raiseAt s x 4 3 0 0 63)) ∧
      (x.c.epHalted = false → x.c.mailbox.length < 32 → exec i s = .next (retire (updCore s1 x.g fun c =>
        { c with mailbox := c.mailbox ++ [(u, input s x i 1)] }) x))) ∧
    (i = .tspawn d a n → (∀ q ∈ accsOf s x.g x.sid, q.performed = true) → x.c.lock = none → asks true (x.t.win n.toNat)) ∧
    (∀ l, i = .tspawn d a n → x.c.lock = some l → x.sid ∉ l.granted → exec i s = .next (waitFor s1 x .checkpoint)) ∧
    (i = .tstat d a → ∃ w, asks false w)

/-- R19, R285 to R289, R300, R302: `cp.start` captures the control block and its windows and makes the channel active; a channel number above
95 and a block that fails its check are engine faults whose records hold no word, the check that fails giving the code; a block with a byte in a
hole reads 0 there and sets `hole`. What becomes of a block outside the slot, of a `rel` that is no multiple of 8, and of a block that fails more
than one check is log entry 82. R296 to R300: the words of the movement program on an active or idle channel, the mailbox and the event queue, and `cp.halt`. -/
def Obligations.MovementProgramRuns : Prop :=
  (∀ (s : State) (x : Iss) (a b : RCode), Issues s x (.cpStart a b) →
     let i : Instr := .cpStart a b
     let ea := (input s x i 0).toNat % 2 ^ 48
     let n := (input s x i 1).toNat
     let blk : Blk := BitVec.ofNat 1024 (readVal (afterReads s x i) ea 128)
     let sw := x.t.win blk.swin
     let dw := x.t.win blk.dwin
     let slot := slotBase x.g
     let shape := blk.kind != 1 || (blkReserved.any fun p => bits blk p.1 p.2 != 0) || decide (9 < blk.esz) || ((List.range 4).any fun d => blk.ext d == 0) ||
       blk.stages == 1 || blk.stages == 0 && blk.rel != 0 || blk.stages != 0 && decide (0x140000 < blk.rel + 8 * blk.stages) ||
       blk.guard && (blk.stages != 0 || decide (dw.base.toNat < slot ∨ slot + 2 ^ 21 < dw.limit.toNat) || !ascends blk)
     let se := srcEnv blk sw
     let de := dstEnv blk dw
     let fails := if shape || decide (se.1 < de.2 ∧ de.1 < se.2) then some (0x11, 63)
       else if se.1 < sw.base.toNat ∨ (sw.limit.toNat : Int) < se.2 then some (0x12, blk.swin)
       else if de.1 < dw.base.toNat ∨ (dw.limit.toNat : Int) < de.2 then some (0x12, blk.dwin) else none
     let raised := fun (t : State) (code : Nat) (addr : Word) (win : Nat) => ∀ k u, x.c.task = some k → kget? s.tasks k = some u →
       ∃ e : FaultInfo, kget? t.tasks k = some { u with faults := u.faults ++ [e] } ∧ e.cls = 3 ∧ e.code = code ∧ e.aux = 0 ∧ e.addr = addr ∧
         e.win = win ∧ e.eng = true ∧ e.sid = 63 ∧ e.word = 0 ∧ e.gcn = x.g
     (96 ≤ n → ∃ t, exec i s = .next t ∧ (∀ q, chanAt (coreAt t x.g) q = chanAt x.c q) ∧ strandAt? t x.g x.sid = some { x.t with stopped := true } ∧
       raised t 0x11 (BitVec.ofNat 64 ea) 63) ∧
     (n < 96 → ea % 64 ≠ 0 → exec i s = .next (raiseAt (afterReads s x i) x 1 2 0 (input s x i 0).toNat 63)) ∧
     (n < 96 → ea % 64 = 0 → (debugOn (afterReads s x i) x.g = true → inWindow x.t ea 128 1 = true) → accsOf (afterReads s x i) x.g x.sid = [] →
       (chanAt x.c n).st = 0 → poisonedIn (afterReads s x i) ea 128 = false →
       blockFault blk x.g sw dw = fails ∧
       (∀ f, fails = some f → ∃ t u, exec i s = .next (retire t x) ∧ (∀ q, chanAt (coreAt t x.g) q = chanAt x.c q) ∧
         strandAt? t x.g x.sid = some u ∧ u.flags = x.t.flags ||| (if anyHole (afterReads s x i) ea 128 then fHole else 0) ∧
         raised t f.1 (BitVec.ofNat 64 ea) f.2) ∧
       (fails = none → ∃ t ch, exec i s = .next (retire t x) ∧
         chanAt (coreAt t x.g) n = ch ∧ ch.st = 1 ∧ ch.block = blk ∧ ch.blockAddr = ea ∧ ch.sw = sw ∧ ch.dw = dw ∧ ch.iter = 0 ∧ ch.todo = [] ∧
         ch.flight = [] ∧ ch.lost = [] ∧ ch.iterDone = 0 ∧ ch.bc = 0 ∧ ch.nb = 0 ∧ ch.landed = none ∧ (∀ q, q ≠ n → chanAt (coreAt t x.g) q = chanAt x.c q) ∧ t.mem = (afterReads s x i).mem ∧
         ∀ j < blk.stages, holeAt s (slotBase x.g + blk.rel + 8 * j) = false → isEmpty t (slotBase x.g + blk.rel + 8 * j) = true))) ∧
  (∀ (s : State) (x : Iss) (i : Instr) (d b : RCode) (p : BitVec 5), Issues s x i →
     let s1 := afterReads s x i
     let n := (input s x i 0).toNat % 128 % 96
     let ch := chanAt x.c n
     let pops := fun (S : State) (lo hi : Word) (got : Bool) =>
       exec i s = .next (retire (updStrand (writePair S x.g x.sid d lo hi) x.g x.sid fun t => t.setP p.toNat got) x)
     (i = .cpAbort b → (ch.st = 1 → exec i s = .next (retire (setChan s1 x.g n { ch with st := 4, owed := [] }) x)) ∧
       (ch.st ≠ 1 → exec i s = .next (retire s1 x))) ∧
     (i = .cpWait b → ch.st = 0 → exec i s = .next (retire s1 x)) ∧
     (i = .cpStatSt d b → ch.st = 0 → Computes s x i d (BitVec.ofNat 64 (min ch.iter (Blk.iters ch.block) * 2 ^ 48)) 0) ∧
     (i = .cpStatSt d b → ch.st ≠ 0 → x.c.events.length < 64 → Computes s x i d (BitVec.ofNat 64 (min ch.iter (Blk.iters ch.block) * 2 ^ 48 +
       if ch.st = 4 then 4 else if stageWaits s x.g ch then 2 else 1)) 0) ∧
     (i = .cpStatWm d b → Computes s x i d (if ch.st = 0 ∨ Blk.guard ch.block = false then 0 else BitVec.ofNat 64 ch.wm) 0) ∧
     (i = .cpStatBc d b → Computes s x i d (BitVec.ofNat 64 ch.bc) 0) ∧
     (i = .cpStatNb d b → Computes s x i d (BitVec.ofNat 64 ch.nb) 0) ∧
     (∀ m r, i = .cpMbox d p → x.c.mailbox = m :: r → pops (updCore s1 x.g fun c => { c with mailbox := r }) m.1 m.2 true) ∧
     (i = .cpMbox d p → x.c.mailbox = [] → (∀ k, x.c.task = some k → strandsLeft s1 k = false) → pops s1 0 0 false) ∧
     (∀ e r, i = .cpEv d p → x.c.events = e :: r → pops (updCore s1 x.g fun c => { c with events := r })
       (e.extractLsb' 0 64) (e.extractLsb' 64 64) true) ∧
     (i = .cpEv d p → x.c.events = [] → (∀ q ∈ x.c.channels, q.2.st = 0) → pops s1 0 0 false) ∧
     (i = .cpHalt → (∀ q ∈ x.c.channels, q.2.st = 0) → ∃ t, exec i s = .next (retire t x) ∧ (coreAt t x.g).epHalted = true ∧
       (coreAt t x.g).events = [] ∧ (coreAt t x.g).mailbox = []))

/-- R248, R250, R262, R265: the command at the head of the matrix queue is checked, its gate word tested and left full, and it starts
with its windows captured; a check that fails ends it with an engine fault that names its record. Code 1 before code 4 when a gate or
done field fails both head checks, and a gate test only with a free unit, are the model's (log entry 75). The codes of R265, R269, R270, R273, R275, R277, R313 and R504 that a check at the start gives, each by the condition that its table
names; where several fail, the order among them is the model's (log entries 75 and 76). -/
def Obligations.MatrixCommandsStart : Prop :=
  (∀ (s : State) (g : Nat) (m : MCmd) (rest : List MCmd), (coreAt s g).mq = m :: rest → engineOn s g = true → quiescing s g = false →
     let r : MRec := m.record
     let popped := updCore s g fun c => { c with mq := rest }
     let faulted := fun (code win : Nat) (t : State) => t.mem = s.mem ∧ (coreAt t g).mq = rest ∧ (coreAt t g).mrun = (coreAt s g).mrun ∧
       ∀ k u, (coreAt s g).task = some k → kget? s.tasks k = some u → ∃ f : FaultInfo, kget? t.tasks k = some { u with faults := u.faults ++ [f] } ∧
         f.cls = 3 ∧ f.code = code ∧ f.aux = m.record.extractLsb' 0 64 ∧ f.addr = BitVec.ofNat 64 m.addr ∧ f.word = 0 ∧ f.win = win ∧ f.eng = true ∧ f.sid = 63 ∧
         f.gcn = g ∧ f.time = s.clk
     let misplaced := r.gate % 8 ≠ 0 ∨ r.done % 8 ≠ 0
     let outside := 0x140000 ≤ r.gate ∨ 0x140000 ≤ r.done
     (m.headOk = false → (¬misplaced → ¬outside → exec (.matrixHeadCheck g) s = .next (updCore s g fun c => { c with mq := { m with headOk := true } :: rest })) ∧
       (misplaced → ∃ t, exec (.matrixHeadCheck g) s = .next t ∧ faulted 1 63 t) ∧
       (¬misplaced → outside → ∃ t, exec (.matrixHeadCheck g) s = .next t ∧ faulted 4 63 t)) ∧
     (m.headOk = true → r.gt = true → m.gateOk = false → (coreAt s g).mrun = none →
       (holeAt s (slotBase g + r.gate) = true ∨ isEmpty s (slotBase g + r.gate) = false) →
       exec (.matrixGateTest g) s = .next (updCore s g fun c => { c with mq := { m with gateOk := true } :: rest })) ∧
     (∀ op i, (i, op) ∈ [(Instr.mma g, 1), (.mmas g, 2), (.smma24 g, 8), (.smma48 g, 9), (.gather g, 10), (.gmma g, 11)] → r.op = op → m.headOk = true →
       (r.gt = true → m.gateOk = true) → (coreAt s g).mrun = none →
       (startFault s g m = none → ∃ run, exec i s = .next (updCore popped g fun c => { c with mrun := some run }) ∧ run.cmd = m ∧
         run.awin = coreWin s g m.sid r.awin ∧ run.bwin = coreWin s g m.sid r.bwin ∧ run.effectDone = false ∧
         run.flags = (if r.gt = true ∧ holeAt s (slotBase g + r.gate) = true then fHole else 0) ∧ run.landed = [] ∧ run.sent = s.nextId ∧
         run.chunks = if op = 10 then gatherChunks s g m else remoteChunks s g m) ∧
       (∀ f, startFault s g m = some f → ∃ t, exec i s = .next t ∧ faulted f.1 f.2 t)) ∧
     (∀ op i, (i, op) ∈ [(Instr.mma g, 1), (.mmas g, 2), (.smma24 g, 8), (.smma48 g, 9), (.gather g, 10), (.gmma g, 11)] → r.op = op → m.headOk = true →
       r.gt = true → m.gateOk = false → exec i s = .refused (.notEnabled (match op with
         | 1 => "MMA" | 2 => "MMAS" | 8 => "SMMA24" | 9 => "SMMA48" | 10 => "GATHER" | _ => "GMMA")))) ∧
  (∀ (s : State) (g : Nat) (m : MCmd),
     let r : MRec := m.record
     let v := m.meta?.getD 0
     let fault := startFault s g m
     let product := r.op ∈ [1, 2, 8, 9, 11]
     let G := if r.op = 8 then 4 else 8
     let base := slotBase g
     let w := fun (n : Nat) => coreWin s g m.sid n
     let idx := fun (i : Nat) => meta16 v (2 * i)
     let inMates := fun (a : Nat) => isSpad a = true ∧ slotOf a / 16 = g / 16 ∧ slotOf a ≠ g
     let aStart := fun (i : Nat) => r.aoff + i * r.astride
     let aLen := rowBytes r.afmt (if r.ta then r.M else if r.op = 8 ∨ r.op = 9 then r.K / 2 else r.K)
     let aRow := fun (i : Nat) => i < (if r.ta then r.K else r.M)
     let bLen := rowBytes r.bfmt (if r.tb then r.K else r.N)
     let bStart := fun (i : Nat) => r.boff + i * r.bstride
     let bRow := fun (i : Nat) => i < (if r.tb then r.N else r.K)
     let aAt := fun (i : Nat) => if r.asrc = 1 then ((w r.awin).base.toNat + aStart i) % 2 ^ 48 else base + aStart i
     let bBase := fun (o : Nat) => if r.op = 11 then ∃ q < idx 0, (if q = 0 then 0 else idx q) < idx (q + 1) ∧ o = r.boff + q * r.sbstride else o = r.boff
     let bAt := fun (o i : Nat) => if r.bsrc = 1 then ((w r.bwin).base.toNat + o + i * r.bstride) % 2 ^ 48 else base + o + i * r.bstride
     let bad := r.op ∉ [1, 2, 3, 4, 5, 6, 8, 9, 10, 11] ∨ bits r 21 3 ≠ 0 ∨ bits r 28 4 ≠ 0 ∨ bits r 104 24 ≠ 0 ∨ bits r 168 24 ≠ 0 ∨ bits r 240 16 ≠ 0 ∨
       bits r 405 43 ≠ 0 ∨ (r.op ≠ 10 ∧ (128 < r.M ∨ 128 < r.N ∨ 15 < r.t0 + (r.M + 31) / 32 * ((r.N + 31) / 32) - 1)) ∨
       ((product ∨ r.op = 10) ∧ r.K = 0) ∨ (product ∧ (r.afmt ∉ [0, 3, 4, 5, 6, 7, 8, 9] ∨ r.bfmt ∉ [0, 3, 4, 5, 6, 7, 8, 9] ∨ r.asrc = 3 ∨ r.bsrc = 3)) ∨
       (r.op = 2 ∧ r.K % 32 ≠ 0) ∨ ((r.op = 8 ∨ r.op = 9) ∧ r.K % G ≠ 0) ∨ ((r.op = 4 ∨ r.op = 5) ∧ r.asrc ≠ 0) ∨ (r.op = 4 ∧ r.afmt ≠ 7) ∨
       (r.op = 10 ∧ 1 < r.asrc) ∨ (r.op = 11 ∧ 1 < r.bsrc) ∨
       ((r.op = 8 ∨ r.op = 9) ∧ 512 < r.sa + (r.M - 1) * r.sastride + r.K / (if r.op = 8 then 8 else 4))
     (bad → fault = some (1, 63)) ∧
     (∀ c n, fault = some (c, n) → c ∈ [1, 2, 3, 4, 5, 6, 7, 8, 9, 10, 11] ∧ (n = 63 ∨ (c ∈ [2, 3, 5] ∧ (n = r.awin ∨ n = r.bwin)))) ∧
     (s.service = .reduced → product → ((r.afmt ≠ 5 ∧ r.afmt ≠ 6) ∨ (r.bfmt ≠ 5 ∧ r.bfmt ≠ 6)) → fault = some (1, 63)) ∧
     (badCmd r = false → s.service = .full →
       (8 ≤ r.op → m.meta? = none → fault = some (8, 63)) ∧
       (r.op = 3 ∨ r.op = 6 → fault = none) ∧
       (r.op = 10 → m.meta? = some v → g < 65536 →
         let reads := fun (i : Nat) => i < r.M ∧ idx i ≠ 0xFFFF
         let src := fun (i : Nat) => r.aoff + idx i * r.astride
         let meets := r.asrc = 0 ∧ ∃ i, reads i ∧ src i < r.boff + (r.M - 1) * r.bstride + r.K ∧ r.boff < src i + r.K
         let high := (r.asrc = 0 ∧ ∃ i, reads i ∧ 0x140000 < src i + r.K) ∨ ∃ i < r.M, 0x140000 < bStart i + r.K
         let far := fun (i : Nat) => ((w r.awin).base.toNat + src i) % 2 ^ 48
         (meets → fault = some (1, 63)) ∧
         (¬ meets → high → fault = some (4, 63)) ∧
         (¬ meets → ¬ high → r.asrc = 1 → (∃ i, reads i ∧ (far i < (w r.awin).base.toNat ∨ (w r.awin).limit.toNat < far i + r.K)) → fault = some (5, r.awin)) ∧
         (¬ meets → ¬ high → r.asrc = 0 → fault = none) ∧
         (¬ meets → ¬ high → r.asrc = 1 → (∀ i, reads i → (w r.awin).base.toNat ≤ far i ∧ far i + r.K ≤ (w r.awin).limit.toNat ∧ isHbm (far i) = true ∧
           isHbm (far i + r.K - 1) = true) → fault = none)) ∧
       (r.op = 11 → m.meta? = some v → idx 0 < 256 →
         (idx 0 = 0 ∨ (∃ k, k + 1 < idx 0 ∧ idx (k + 2) < idx (k + 1)) ∨ idx (idx 0) ≠ r.M) → fault = some (6, 63)) ∧
       ((r.op = 8 ∨ r.op = 9) → m.meta? = some v → (∃ i < r.M, ∃ h < r.K / G, keptOk G v (r.sa + i * r.sastride) h = false) → fault = some (7, 63)) ∧
       (r.op = 4 ∨ r.op = 5 →
         let skew := ∃ i < r.M, (base + aStart i) % fmtAlign r.afmt ≠ 0
         let high := ∃ i < r.M, 0x140000 < aStart i + rowBytes r.afmt r.N
         (skew → fault = some (2, 63)) ∧ (¬ skew → high → fault = some (4, 63)) ∧ (¬ skew → ¬ high → fault = none)) ∧
       (product → (8 ≤ r.op → m.meta? = some v) → (r.op = 11 → raggedOk v r.M = true) →
         (r.op = 8 ∨ r.op = 9 → ∀ i < r.M, ∀ h < r.K / G, keptOk G v (r.sa + i * r.sastride) h = true) →
         let aSkew := if r.asrc = 2 then 1 < (if r.ta then r.K else r.M) ∧ r.astride % fmtAlign r.afmt ≠ 0 else ∃ i, aRow i ∧ aAt i % fmtAlign r.afmt ≠ 0
         let bSkew := ∃ o, bBase o ∧ if r.bsrc = 2 then 1 < (if r.tb then r.N else r.K) ∧ r.bstride % fmtAlign r.bfmt ≠ 0
           else ∃ i, bRow i ∧ bAt o i % fmtAlign r.bfmt ≠ 0
         let aFar := r.asrc = 1 ∧ ∃ i, aRow i ∧ ¬(inMates (aAt i) ∧ inMates (aAt i + aLen - 1))
         let bFar := r.bsrc = 1 ∧ ∃ o i, bBase o ∧ bRow i ∧ ¬(inMates (bAt o i) ∧ inMates (bAt o i + bLen - 1))
         let high := (r.asrc = 0 ∧ ∃ i, aRow i ∧ 0x140000 < aStart i + aLen) ∨
           (r.bsrc = 0 ∧ ∃ o i, bBase o ∧ bRow i ∧ 0x140000 < o + i * r.bstride + bLen) ∨
           (r.op = 2 ∧ ((∃ i < r.M, 0x140000 < r.sa + i * r.sastride + r.K / 32) ∨ ∃ j < r.N, 0x140000 < r.sb + j * r.sbstride + r.K / 32))
         let aOut := r.asrc = 1 ∧ ∃ i, aRow i ∧ (aAt i < (w r.awin).base.toNat ∨ (w r.awin).limit.toNat < aAt i + aLen)
         let bOut := r.bsrc = 1 ∧ ∃ o i, bBase o ∧ bRow i ∧ (bAt o i < (w r.bwin).base.toNat ∨ (w r.bwin).limit.toNat < bAt o i + bLen)
         let win := fun (src n : Nat) => if src = 1 then n else 63
         let needsA := (((if r.ta then r.K else r.M) - 1) * r.astride + aLen + 511) / 512
         let needsB := (((if r.tb then r.N else r.K) - 1) * r.bstride + bLen + 511) / 512
         let needs := fun (n : Nat) => (if r.asrc = 2 ∧ r.aoff % 64 = n then needsA else 0) + (if r.bsrc = 2 ∧ r.boff % 64 = n then needsB else 0)
         let code : Nat → Option Nat := fun n => match kget? s.streams (streamKey g n) with
           | none => some 9
           | some st =>
             if st.valid = false ∨ bits st.entry (128 + g % 16) 1 = 0 ∨ bits st.entry (144 + 3 * (g % 16)) 3 ≠ 0 then some 9
             else if bits st.entry 96 32 ≠ 0 ∧ bits st.entry 96 32 < kget st.taken (g % 16) 0 + needs n then some 10
             else if debugOn s g = true ∧ min (bits st.entry (192 + 4 * (g % 16)) 4) (bits st.entry 88 4) < needs n then some 11
             else none
         (aSkew → fault = some (2, win r.asrc r.awin)) ∧
         (¬ aSkew → bSkew → fault = some (2, win r.bsrc r.bwin)) ∧
         (¬ aSkew → ¬ bSkew →
           (aFar → fault = some (3, r.awin)) ∧
           (¬ aFar → bFar → fault = some (3, r.bwin)) ∧
           (¬ aFar → ¬ bFar → high → fault = some (4, 63)) ∧
           (¬ aFar → ¬ bFar → ¬ high → aOut → fault = some (5, r.awin)) ∧
           (¬ aFar → ¬ bFar → ¬ high → ¬ aOut → bOut → fault = some (5, r.bwin)) ∧
           (¬ aFar → ¬ bFar → ¬ high → ¬ aOut → ¬ bOut →
             (∀ c, r.asrc = 2 → code (r.aoff % 64) = some c → fault = some (c, 63)) ∧
             (∀ c, (r.asrc = 2 → code (r.aoff % 64) = none) → r.bsrc = 2 → code (r.boff % 64) = some c → fault = some (c, 63)) ∧
             ((r.asrc = 2 → code (r.aoff % 64) = none) → (r.bsrc = 2 → code (r.boff % 64) = none) → fault = none))))))

/-- R255, R256, R261: `tzero`, `tload`, `tstore` and `tscale` act on each element of the block when they start; a `tstore` of a lock-step pair writes both
scratchpads (R210). -/
def Obligations.TileCommands : Prop :=
  ∀ (s : State) (g : Nat) (m : MCmd) (rest : List MCmd), (coreAt s g).mq = m :: rest → engineOn s g = true → quiescing s g = false → m.headOk = true →
    ((MRec.gt m.record) = true → m.gateOk = true) → (coreAt s g).mrun = none → startFault s g m = none → s.poison = [] → Memory.wf s.mem = true →
    let r : MRec := m.record
    let C := fun (t : State) (i j : Nat) => (kget (coreAt t g).tiles (tileIndex r.t0 r.N i j) 0).toNat
    let row := fun (i : Nat) => slotBase g + r.aoff + i * r.astride
    let runs := fun (i : Instr) (P : State → Prop) => ∃ t run, exec i s = .next t ∧ (coreAt t g).mq = rest ∧ (coreAt t g).mrun = some run ∧ run.cmd = m ∧
      run.effectDone = true ∧ P t
    let others := fun (t : State) => ∀ n, (∀ i < r.M, ∀ j < r.N, n ≠ tileIndex r.t0 r.N i j) → kget (coreAt t g).tiles n 0 = kget (coreAt s g).tiles n 0
    (r.op = 3 → runs (.tzero g) fun t => others t ∧ t.mem = s.mem ∧ ∀ i < r.M, ∀ j < r.N, C t i j = 0) ∧
    (r.op = 4 → runs (.tload g) fun t => others t ∧ t.mem = s.mem ∧ ∀ i < r.M, ∀ j < r.N, C t i j = readVal s (row i + 4 * j) 4) ∧
    (r.op = 6 → runs (.tscale g) fun t => others t ∧ t.mem = s.mem ∧ ∀ i < r.M, ∀ j < r.N, C t i j = (match f32.decode (C s i j) with
      | .nan _ => 0x7FC00000
      | .inf _ => C s i j
      | .fin n k e => (f32.round 0 n k (e + (r.K % 256 : Nat) - 127)).1 % 2 ^ 32)) ∧
    (r.op = 5 → g < 2560 → r.M = 1 ∨ rowBytes r.afmt r.N ≤ r.astride →
      runs (.tstore g) fun t => (coreAt t g).tiles = (coreAt s g).tiles ∧
        (∀ i < r.M, ∀ b < rowBytes r.afmt r.N, holeAt s (row i + b) = false →
          (readByte t (row i + b)).toNat = pack (fmtBits r.afmt) ((List.range r.N).map fun j => (outElem r.afmt (C s i j)).1) / 2 ^ (8 * b) % 256 ∧
          isEmpty t (row i + b) = false) ∧
        ∀ a < 2 ^ 48, (∀ i < r.M, (a < row i ∨ row i + rowBytes r.afmt r.N ≤ a) ∧ ¬ twinByte s (row i) (rowBytes r.afmt r.N) a) → readByte t a = readByte s a)

/-- R248, R251, R257, R258, R263, R274, R512: remote chunks arrive in order, behind what fences have passed to their banks (R384); the chunks of a gather land in any order; a product writes
its tiles, the block's elements and no others, when it completes, and a completed command leaves its done word, its flags (R259) and a
free unit. -/
def Obligations.MatrixCommandsComplete : Prop :=
  ∀ (s : State) (g : Nat) (run : MRun), (coreAt s g).mrun = some run → s.poison = [] → Memory.wf s.mem = true → g < 2560 →
    let r : MRec := run.cmd.record
    let ends := fun (t : State) => exec (.matrixCommandComplete g) s = .next t ∧ (coreAt t g).mrun = none ∧
      (r.dn = true → r.done % 8 = 0 → r.done + 8 ≤ 0x100000 → coreDisabled s g = false →
        readVal t (slotBase g + r.done) 8 = r.dval ∧ isEmpty t (slotBase g + r.done) = false) ∧
      (∀ a < 2 ^ 48, (r.dn = true → (a < slotBase g + r.done ∨ slotBase g + r.done + 8 ≤ a) ∧ ¬ twinByte s (slotBase g + r.done) 8 a) → readByte t a = readByte s a)
    (∀ c rest, run.chunks = c :: rest → r.op ≠ 10 → pathClear s g run.sent [(c.src, c.len)] = true → chunkCheck s (if c.iter = 0 then run.awin else run.bwin) (tenantOn s g) false c.src c.len = .pass →
      ∃ q, exec (.remoteOperandChunkArrival g) s = .next (updCore s g fun k => { k with mrun := some q }) ∧ q.cmd = run.cmd ∧ q.chunks = rest ∧
        (∀ j < c.len, kget q.buf (c.src + j) 0 = readByte s (c.src + j)) ∧
        ∀ a, (a < c.src ∨ c.src + c.len ≤ a) → kget q.buf a 0 = kget run.buf a 0) ∧
    (∀ n c, r.op = 10 → run.chunks[n]? = some c → c.dst + c.len ≤ 2 ^ 48 → c.len ≤ 512 → (c.zero = true ∨ r.asrc = 0 ∨ pathClear s g run.sent [(c.src, c.len)] = true ∧
        chunkCheck s run.awin (tenantOn s g) false c.src c.len = .pass) →
      ∃ t q, exec (.gatherChunkLanding g n) s = .next t ∧ (coreAt t g).mrun = some q ∧ q.chunks = run.chunks.eraseIdx n ∧
        (∀ j < c.len, holeAt s (c.dst + j) = false → readByte t (c.dst + j) = (if c.zero then 0 else readByte s (c.src + j)) ∧ isEmpty t (c.dst + j) = false) ∧
        ∀ a < 2 ^ 48, (a < c.dst ∨ c.dst + c.len ≤ a) → ¬ twinByte s c.dst c.len a → readByte t a = readByte s a) ∧
    (run.chunks = [] → isProduct r.op = false → (r.op = 10 ∨ run.effectDone = true) →
      ∃ t, ends t ∧ (coreAt t g).tiles = (coreAt s g).tiles ∧ ∀ u, strandAt? s g run.cmd.sid = some u →
        strandAt? t g run.cmd.sid = some { u with mxFlags := u.mxFlags ||| run.flags ||| (if r.dn = true ∧ holeAt s (slotBase g + r.done) = true then fHole else 0) }) ∧
    (run.chunks = [] → isProduct r.op = true → streamsReady (coreAt s g) run.cmd = true →
      let v := run.cmd.meta?.getD 0
      let element := fun (i j : Nat) => dotGroups ((r.K + 31) / 32)
        (((aMatrix s g run).1.getD i []).zip ((bMatrix s g run (bFor r v i)).1.getD j [])) (scaleExps s g r i j)
        (if r.acc then (kget (coreAt s g).tiles (tileIndex r.t0 r.N i j) 0).toNat else 0) 0
      ∃ t, ends t ∧ (∀ n, (∀ i < r.M, ∀ j < r.N, n ≠ tileIndex r.t0 r.N i j) → kget (coreAt t g).tiles n 0 = kget (coreAt s g).tiles n 0) ∧
        (∀ u, strandAt? s g run.cmd.sid = some u → (∀ i < r.M, bFor r v i ∈ bOffsets run.cmd) →
          ∃ f : Flags, strandAt? t g run.cmd.sid = some { u with mxFlags := f } ∧ ∀ b < 9, (f.getLsbD b = true ↔
            (u.mxFlags ||| run.flags ||| (aMatrix s g run).2).getLsbD b = true ∨ (∃ q ∈ bOffsets run.cmd, (bMatrix s g run q).2.getLsbD b = true) ∨
            (∃ i < r.M, ∃ j < r.N, (element i j).2.getLsbD b = true) ∨
            (fHole.getLsbD b = true ∧ ((r.dn = true ∧ holeAt s (slotBase g + r.done) = true) ∨
              ∃ x ∈ touched s g run.cmd, x.src = 0 ∧ anyHole s x.lo (x.hi - x.lo) = true)))) ∧
        ∀ i < r.M, ∀ j < r.N, bFor r v i ∈ bOffsets run.cmd →
          (kget (coreAt t g).tiles (tileIndex r.t0 r.N i j) 0).toNat = (element i j).1 % 2 ^ 32)

/-- R258, R259: a group of up to 32 finite products is summed exactly and added to the accumulator with one rounding, nearest even; a NaN
among the products or as the accumulator, an infinity times zero, and infinities of both signs, the accumulator's among them, give the quiet
NaN; infinities of one sign give that infinity. -/
def Obligations.ProductsRoundOncePerGroup : Prop :=
  ∀ (l : List (FVal × FVal)) (c : Nat), l.length ≤ 32 →
    let dot := dotGroups 1 (l.map fun p => (some p.1, p.2)) [0] c 0
    let inRange := fun (x : FVal) => match x with
      | .fin _ m e => m < 2 ^ 24 ∧ -149 ≤ e
      | _ => False
    let units149 := fun (x : FVal) => match x with
      | .fin n m e => (if n then -1 else 1) * ((m * 2 ^ (e + 149).toNat : Nat) : Int)
      | _ => 0
    let zeroTimesInf := fun (p : FVal × FVal) => ∃ n q e, p = (.inf n, .fin q 0 e) ∨ p = (.fin n 0 e, .inf q)
    let infinite := fun (p : FVal × FVal) (neg : Bool) => ∃ x y, (x != y) = neg ∧
      (p = (.inf x, .inf y) ∨ ∃ k e, 0 < k ∧ (p = (.inf x, .fin y k e) ∨ p = (.fin x k e, .inf y)))
    ((∀ p ∈ l, inRange p.1 ∧ inRange p.2) → (f32.decode c).isFin = true →
      let S : Int := (l.map fun p => units149 p.1 * units149 p.2).sum + units149 (f32.decode c) * 2 ^ 149
      dot.1 = if S = 0 then 0 else (f32.round 0 (decide (S < 0)) S.natAbs (-298)).1) ∧
    ((∃ p ∈ l, p.1.isNan = true ∨ p.2.isNan = true) → dot.1 = 0x7FC00000) ∧
    ((∃ p ∈ l, zeroTimesInf p) → dot.1 = 0x7FC00000 ∧ dot.2 &&& fNv ≠ 0) ∧
    ((∃ p ∈ l, infinite p false) → (∃ p ∈ l, infinite p true) → dot.1 = 0x7FC00000 ∧ dot.2 &&& fNv ≠ 0) ∧
    ((f32.decode c).isNan = true → dot.1 = 0x7FC00000) ∧
    (∀ n, (∀ p ∈ l, p.1.isNan = false ∧ p.2.isNan = false ∧ ¬ zeroTimesInf p ∧ ¬ infinite p (!n)) → (f32.decode c).isNan = false →
      ((∃ p ∈ l, infinite p n) → dot = if f32.decode c = .inf (!n) then (0x7FC00000, fNv) else (if n then 0xFF800000 else 0x7F800000, 0)) ∧
      ((∀ p ∈ l, ¬ infinite p n) → f32.decode c = .inf n → dot = (c, 0)))

/-- R290 to R298: the channel next in turn issues its next chunk, whose source is read then; a chunk lands with its words full; both come behind what fences have passed to their banks (R384); an iteration
whose chunks have landed leaves its number in its release word and its record, which waits for room in the event queue; a finished or aborted channel becomes
idle with its record. The cycles that bank arbitration adds for a local read are a free value (log entry 84); a channel that owes a record issues on
(log entry 77). -/
def Obligations.CopyEngineSteps : Prop :=
  ∀ (s : State) (g n : Nat), n < 96 → g < 2560 → s.poison = [] → Memory.wf s.mem = true →
    let c := coreAt s g
    let ch := chanAt c n
    let last := Blk.iters ch.block
    let record := fun (kind it : Nat) => BitVec.ofNat 128 (Blk.tag ch.block * 2 ^ 64 + it * 2 ^ 48 + kind * 2 ^ 32 + n)
    let enters := fun (t : State) (kind it : Nat) => (coreAt t g).events = if haltWaits c then c.events else c.events ++ [record kind it]
    (∀ k rest, engineOn s g = true → channelsRun s g = true → releaseFull s g k = false → c.rr = n → (beginIter ch).st = 1 → (beginIter ch).todo = k :: rest →
      pathClear s g s.nextId [(k.src, k.len)] = true → copyCheck s g (beginIter ch) k = (.pass, false) →
      ∃ t q f, exec (.copyChunkIssue g) s = .next t ∧ (coreAt t g).rr = (n + 1) % 96 ∧ chanAt (coreAt t g) n = q ∧ q.todo = rest ∧
        q.flight = ch.flight ++ [f] ∧ f.chunk = k ∧ f.bytes = readBytes s k.src k.len ∧ q.iter = (if rest = [] then ch.iter + 1 else ch.iter) ∧
        q.bc = ch.bc + (if sameBank g k then 1 else 0) + (if readsLocal g k then Config.freeHeld s.nextId else 0) ∧ f.id = s.nextId ∧
        (∀ l, c.lock = some l → outsidePair s g k = true → ∃ l', (coreAt t g).lock = some l' ∧ l'.release = l.release ++ [s.nextId]) ∧ (∀ m, m ≠ n → chanAt (coreAt t g) m = chanAt c m) ∧ t.mem = s.mem) ∧
    (∀ j f, ch.flight[j]? = some f → heldNo s g f.id = false → pathClear s g f.id [(f.chunk.dst, f.chunk.len)] = true → f.bytes.length = f.chunk.len → f.chunk.len ≤ 512 → f.chunk.dst + f.chunk.len ≤ 2 ^ 48 →
      ∃ t q, exec (.copyChunkLanding g n j) s = .next t ∧ chanAt (coreAt t g) n = q ∧ q.flight = ch.flight.filter (fun p => p.id != f.id) ∧ q.nb = ch.nb + f.chunk.len ∧
        (∀ b < f.chunk.len, holeAt s (f.chunk.dst + b) = false →
          readByte t (f.chunk.dst + b) = f.bytes.getD b 0 ∧ isEmpty t (f.chunk.dst + b) = false) ∧
        ∀ a < 2 ^ 48, (a < f.chunk.dst ∨ f.chunk.dst + f.chunk.len ≤ a) → ¬ twinByte s f.chunk.dst f.chunk.len a → readByte t a = readByte s a) ∧
    (engineOn s g = true → channelsRun s g = true → ch.st = 1 → ch.begun = false → Blk.stages ch.block ≠ 0 → ch.iter ≤ last →
      (holeAt s (releaseWord g ch.block ch.iter) = true ∨ isEmpty s (releaseWord g ch.block ch.iter) = true) →
      exec (.copyStageReleased g n) s = .next (setChan s g n { ch with begun := true, todo := iterChunks ch.block ch.sw ch.dw ch.iter })) ∧
    (∀ it, ch.st = 1 → Blk.stages ch.block ≠ 0 ∨ Blk.ie ch.block = true → ch.iterDone ≤ it → it ≤ last → it < ch.iter → it ∉ ch.early →
      (∀ f ∈ ch.flight ++ ch.lost, f.chunk.iter ≠ it) → (∀ m, ch.iterDone ≤ m → m < it → m ∈ ch.early ∨ ∃ f ∈ ch.flight ++ ch.lost, f.chunk.iter = m) →
      let room := haltWaits c = true ∨ c.events.length < 64
      ∃ t q, exec (.copyIterationLanded g n) s = .next t ∧ chanAt (coreAt t g) n = q ∧ q.flight = ch.flight ∧ (it < q.iterDone ∨ it ∈ q.early) ∧
        (it = ch.iterDone → ch.early = [] → q.iterDone = it + 1 ∧ q.early = []) ∧
        (Blk.ie ch.block = true → ch.owed = [] → room → enters t 1 it ∧ q.owed = []) ∧
        (Blk.ie ch.block = true → ch.owed ≠ [] ∨ ¬ room → q.owed = ch.owed ++ [it] ∧ (coreAt t g).events = c.events) ∧
        (Blk.ie ch.block = false → (coreAt t g).events = c.events) ∧
        (Blk.stages ch.block = 0 → t.mem = s.mem) ∧
        (Blk.stages ch.block ≠ 0 → it < 2 ^ 64 → let a := releaseWord g ch.block it
          a % 8 = 0 → holeAt s a = false → readVal t a 8 = it ∧ isEmpty t a = false)) ∧
    (∀ it rest, ch.st = 1 → Blk.stages ch.block ≠ 0 ∨ Blk.ie ch.block = true → endingIter ch = none → ch.owed = it :: rest →
      (haltWaits c = true ∨ c.events.length < 64) → ∃ t, exec (.copyIterationLanded g n) s = .next t ∧
        chanAt (coreAt t g) n = { ch with owed := rest } ∧ enters t 1 it ∧ t.mem = s.mem) ∧
    (ch.st = 1 → last < ch.iter → ch.flight = [] → ch.lost = [] → (Blk.stages ch.block ≠ 0 ∨ Blk.ie ch.block = true → last < ch.iterDone ∧ ch.owed = []) →
      (haltWaits c = true ∨ c.events.length < 64) → ∃ t, exec (.copyCommandComplete g n) s = .next t ∧
        chanAt (coreAt t g) n = { ch with st := 0 } ∧ enters t 2 last ∧ t.mem = s.mem) ∧
    (ch.st = 4 → ch.flight = [] → ch.lost = [] → (haltWaits c = true ∨ c.events.length < 64) → ∃ t, exec (.copyAbortComplete g n) s = .next t ∧
        chanAt (coreAt t g) n = { ch with st := 0 } ∧ enters t 3 last ∧ t.mem = s.mem)

/-- R309 to R312: the next block of a stream is read once, when its release word is full; it is delivered to a subscriber within its
window; once every subscriber has consumed it, its release word is set empty. -/
def Obligations.StreamsMoveBlocks : Prop :=
  ∀ (s : State) (cl st k : Nat) (r : Stream), kget? s.streams (cl * 64 + st) = some r → r.valid = true → s.poison = [] →
    let e := r.entry
    let slot := slotBase (cl * 16 + bits e 84 4)
    let ring := max (bits e 88 4) 1
    let rel := fun (b : Nat) => slot + bits e 0 21 + 8 * (b % ring)
    let now := fun (t : State) => kget? t.streams (cl * 64 + st)
    (engineOn s (cl * 16 + bits e 84 4) = true → channelsRun s (cl * 16 + bits e 84 4) = true → (bits e 96 32 = 0 ∨ r.read < bits e 96 32) → r.read < r.released + ring → isEmpty s (rel r.read) = false →
      let q := { r with read := r.read + 1, held := kset r.held r.read (readVec s (slot + bits e 32 21 + 512 * (r.read % ring))) }
      exec (.streamBlockRead cl st) s = .next { s with streams := kset s.streams (cl * 64 + st) q }) ∧
    (∀ v, k < 16 → channelsRun s (cl * 16 + k) = true → bits e (128 + k) 1 = 1 → kget? r.held (kget r.delivered k 0) = some v → kget r.delivered k 0 < kget r.taken k 0 + streamWin e k →
      ∃ t q, exec (.streamBlockDeliver cl st k) s = .next t ∧ now t = some q ∧ kget q.delivered k 0 = kget r.delivered k 0 + 1 ∧
        (∀ m, m ≠ k → kget q.delivered m 0 = kget r.delivered m 0) ∧ q.read = r.read ∧ q.released = r.released ∧ q.taken = r.taken ∧
        (bits e (144 + 3 * k) 3 = 0 → kget (coreAt t (cl * 16 + k)).streamBufs st [] = kget (coreAt s (cl * 16 + k)).streamBufs st [] ++ [v]) ∧
        (bits e (144 + 3 * k) 3 ≠ 0 → (coreAt t (cl * 16 + k)).chanFlight = (coreAt s (cl * 16 + k)).chanFlight ++ [(bits e (144 + 3 * k) 3 - 4, v)])) ∧
    (r.released < r.read → (∀ m < 16, bits e (128 + m) 1 = 1 → r.released < kget r.taken m 0) →
      ∃ t, exec (.streamBlockRelease cl st) s = .next t ∧ now t = some { r with released := r.released + 1 } ∧ t.mem = s.mem ∧
        (holeAt s (rel r.released) = false → isEmpty t (rel r.released) = true))

/-- R212, R213, R404: a due checkpoint of a lock-step pair saves its strands and tiles and lets its held stores go, in their order; a first
mismatch rolls the pair back to it, the undo log replayed newest first, whatever its length, so that each byte is as the oldest entry holds it; a
second one before the next checkpoint has completed is the machine fault 0x0002. That the deque, the k registers, the full/empty bits, the poison,
the faults raised since, the vectors consumed and the requests made go back too, and that a pair whose task has stopped has no mismatch, is log entry 34; that the leading core's record stands for the pair is
log entry 9. -/
def Obligations.LockstepSteps : Prop :=
  ∀ (s : State) (g : Nat) (l : Lock), (coreAt s g).lock = some l →
    let c := coreAt s g
    ((lockDue s g = true ∨ ∃ p ∈ c.strands, p.2.wait = some .checkpoint ∧ p.1 ∉ l.granted) → lockDrains s g = false → enginesIdle c = true →
      (∀ p ∈ c.strands, p.2.pending = []) → (∀ a ∈ s.accs, a.gcn = g → a.performed = true ∨ heldBack s a = true) →
      (∀ r ∈ s.reqs, r.gcn ≠ g) → ∃ t l', exec (.lockstepCheckpoint g) s = .next t ∧ (coreAt t g).lock = some l' ∧ l'.release = [] ∧ l'.drain = l.release ∧
        l'.undo = [] ∧ l'.bits = [] ∧ l'.bad = [] ∧ l'.lastCkpt = s.clk ∧ l'.missed = l.missed ∧ l'.count = l.count + 1 ∧ l'.tiles = c.tiles ∧
        l'.strands = c.strands.map (fun p => (p.1, savedStrand p.2)) ∧ (∀ p ∈ c.strands, p.2.wait = some .checkpoint → p.1 ∈ l'.granted) ∧
        (Memory.wf s.mem = true → ∀ b, (∀ h, h = g ∨ h = g + 1 → b < slotBase h + 0x100000 ∨ slotBase h + 0x140000 ≤ b) →
          Memory.get t.mem b = Memory.get s.mem b)) ∧
    (lockDue s g = true ↔ 64 ≤ l.release.length ∨ 1024 ≤ l.undo.length ∨ l.lastCkpt.toNat + 1024 ≤ s.clk.toNat) ∧
    let again := l.missed = some l.count ∨ lockDrains s g = true ∧ l.missed = some (l.count - 1)
    (stopsOn s g = false → ¬ again → ∃ t l', exec (.lockstepMismatch g) s = .next t ∧ (coreAt t g).strands = l.strands ∧ (coreAt t g).tiles = l.tiles ∧
      (coreAt t g).deque = l.deque ∧ (coreAt t g).kregs = l.kregs ∧ (coreAt t g).lock = some l' ∧ l'.missed = some l.count ∧ l'.count = l.count ∧
      l'.release = [] ∧ l'.undo = [] ∧
      (let covers := fun (p : Nat × List Byte) (b : Nat) => p.1 ≤ b ∧ b < p.1 + 64 ∨ p.1 + 2 ^ 21 ≤ b ∧ b < p.1 + 2 ^ 21 + 64
       Memory.wf s.mem = true → (∀ p ∈ l.undo, p.2.length = 64) →
        (∀ newer a v older r, l.undo = older ++ (a, v) :: newer → r < 64 →
          ((∀ p ∈ older, ¬ covers p (a + r)) → Memory.get t.mem (a + r) = v.getD r 0) ∧
          ((∀ p ∈ older, ¬ covers p (a + 2 ^ 21 + r)) → Memory.get t.mem (a + 2 ^ 21 + r) = v.getD r 0)) ∧
        (∀ b, (∀ p ∈ l.undo, ¬ covers p b) → Memory.get t.mem b = Memory.get s.mem b)) ∧
      (∀ w, w ∈ t.poison ↔ w ∈ l.bad ∨ w ∈ s.poison ∧ ∀ p ∈ l.undo, w / 64 * 64 ≠ p.1 ∧ w / 64 * 64 ≠ p.1 + 2 ^ 21) ∧
      (∀ pre a e post, l.bits = pre ++ (a, e) :: post → (∀ p ∈ post, p.1 ≠ a ∧ p.1 + 2 ^ 21 ≠ a) → (a ∈ t.empties ↔ e = true)) ∧
      (∀ n, kget (coreAt t g).chans n [] = (l.chUsed.filter fun p => p.1 == n).map (fun p => p.2) ++ kget c.chans n []) ∧
      (∀ k u old new, c.task = some k → kget? s.tasks k = some u → u.faults = old ++ new → (old.filter fun f => f.gcn == g).length = l.faults →
        (∀ f ∈ new, f.gcn = g ∧ f.cls ≠ 6 ∧ ¬(f.cls = 5 ∧ f.code = 1) ∧ f ∉ old) → kget? t.tasks k = some { u with faults := old }) ∧
      ∀ r ∈ t.reqs, r.gcn ≠ g) ∧
    (stopsOn s g = false → again → ∃ t, exec (.lockstepMismatch g) s = .next t ∧ ∀ k u, c.task = some k → kget? s.tasks k = some u →
      ∃ f : FaultInfo, kget? t.tasks k = some { u with faults := u.faults ++ [f] } ∧ f.cls = 5 ∧ f.code = 2 ∧ f.aux = BitVec.ofNat 64 l.count) ∧
    (stopsOn s g = true → exec (.lockstepMismatch g) s = .refused (.notEnabled "LOCKSTEP_MISMATCH"))

/-- R337, R339, R347, R348, R477: the next launch record becomes a held task in the lowest free slot, or is refused with the least code
that applies; a spawned record likewise, with the answer to its strand; `tstat` is answered with the state, 15 for no such task. A doorbell
counts only from the endpoint that its tenant is bound to (R476). Which free slot a task takes (log entry 17), a doorbell from elsewhere
ignored (entry 37) and the answer 0x11 for a spawn record that holds a poisoned word (entry 21) are the model's. -/
def Obligations.TasksAreAccepted : Prop :=
  ∀ (s : State) (h : HostHdr) (tenant q tail n : Nat) (r : Queue) (T : Tenant), h.tenant = tenant → kget? s.tenants tenant = some T →
    kget? T.queues q = some r →
    let off := 256 * (r.head % 2 ^ r.lslots)
    let base := ((kget? s.regions r.lring).map fun e => e.base).getD 0
    let rec_ := BitVec.ofNat 2048 (readVal s (base + off) 256)
    let handle := fun (k : Nat) => BitVec.ofNat 64 (k * 2 ^ 32 + nextUse (kget s.slotUse k 0))
    let accepted := fun (t : State) (k : Nat) (R : BitVec 2048) (ten que : Nat) (l : BitVec 32) => ∃ u, kget? t.tasks k = some u ∧ u.record = R ∧
      u.tenant = ten ∧ u.queue = que ∧ u.launch = l ∧ u.handle = handle k ∧ (u.state = 0 ∨ u.state = 6) ∧ u.members = [] ∧ u.faults = []
    let answered := fun (t : State) (c : Req) (v : Word) => reqAt? t n = some { c with answer := some v }
    (exec (.doorbell h q tail) s = .next (if h.endpoint = T.endpoint ∧ r.tail ≤ tail ∧ tail ≤ r.head + 2 ^ r.lslots
      then updQueue s tenant q fun r => { r with tail := tail } else s)) ∧
    (∀ k, r.head < r.tail → inService s = true → draining s tenant = false → ringCheck s tenant r.lring off 256 false = .pass →
      refusal s rec_ tenant none = none → newSlot s = some k → ∃ t, exec (.launchRecordRead tenant q) s = .next t ∧
        accepted t k rec_ tenant q (BitVec.ofNat 32 T.nextLaunch) ∧ queueAt t tenant q = some { r with head := r.head + 1 } ∧ t.mem = s.mem) ∧
    (∀ code, r.head < r.tail → inService s = true → draining s tenant = false → ringCheck s tenant r.lring off 256 false = .pass →
      refusal s rec_ tenant none = some code → r.cseq - r.cfreed < 2 ^ r.cslots → ∃ t, exec (.launchRecordRead tenant q) s = .next t ∧
        t.tasks = s.tasks ∧ queueAt t tenant q = some { r with head := r.head + 1, cseq := r.cseq + 1 }) ∧
    (∀ c U k, reqAt? s n = some c → c.spawn = true → c.answer = none → taskOn s c.gcn = some U →
      let a := addr48 ((c.win.base.toNat : Int) + c.arg.toNat)
      let R := spawnRecord (BitVec.ofNat 2048 (readVal s a 256)) U
      let parent := some (BitVec.ofNat 64 (U.f 1344 64))
      (spawnCheck s U.tenant c.win a = .fail → ∃ t, exec (.tspawnRequest n) s = .next t ∧ answered t c 0x8000000000000011 ∧ t.tasks = s.tasks) ∧
      (∀ code, spawnCheck s U.tenant c.win a = .pass → refusal s R U.tenant parent = some code →
        ∃ t, exec (.tspawnRequest n) s = .next t ∧ answered t c (BitVec.ofNat 64 (2 ^ 63 + code)) ∧ t.tasks = s.tasks) ∧
      (spawnCheck s U.tenant c.win a = .pass → refusal s R U.tenant parent = none → newSlot s = some k →
        ∃ t, exec (.tspawnRequest n) s = .next t ∧ answered t c (handle k) ∧ accepted t k R U.tenant U.queue U.launch)) ∧
    (∀ c, reqAt? s n = some c → c.spawn = false → c.answer = none → ∃ t, exec (.tstatRequest n) s = .next t ∧
      answered t c (match taskByHandle s (tenantOn s c.gcn) c.arg with
        | none => 15
        | some p => BitVec.ofNat 64 p.2.state)) ∧
    (∀ c v, reqAt? s n = some c → c.answer = some v → exec (.regulatorAnswer n) s =
      .next (dueNow (updStrand { s with reqs := s.reqs.filter fun x => x.id != n } c.gcn c.sid advance) c.gcn c.sid n c.d v))

/-- R364, R476, R478: the tenant's endpoint frees completion slots below a count; a fence wait is answered, at the endpoint that asked, once
the fence has reached its value, or after its timeout (in cycles: the model's choice, log entry 37). A wait from an endpoint to which
neither the tenant nor a master is bound is ignored (log entry 37). R26, R409, R421, R476, R479, R484 to R488: a host's chunk is transferred or refused by one of R479's codes (the order of the tests: the
model's choice, log entry 40) while its region does not move; a submitted slot is taken, its chunks checked, read and sent in one step (the
model's choice, log entry 49), protected under the group's key (entry 90); received chunks land full, but for a poisoned word that they cover
in part; a packet of another view, under another key or from a device not on the roster is dropped; acknowledgements end the slot. -/
def Obligations.HostsExchangeData : Prop :=
  (∀ (s : State) (h : HostHdr) (q head f v timeout n now : Nat) (r : Queue) (T : Tenant), kget? s.tenants h.tenant = some T →
     kget? T.queues q = some r →
     (exec (.completionHead h q head) s = .next (if h.endpoint = T.endpoint ∧ r.cfreed ≤ head ∧ head ≤ r.cseq
       then updQueue s h.tenant q fun r => { r with cfreed := head } else s)) ∧
     (fenceValue T f = some now → exec (.fenceWait h f v timeout) s = .next (
       if h.endpoint ≠ T.endpoint ∧ ∀ p ∈ s.mgmt, p.2 ≠ h.endpoint then s
       else if v ≤ now then { s with outbox := s.outbox ++ [.fence h.endpoint h.tenant f now false] }
       else { s with nextId := s.nextId + 1, fenceWaits := s.fenceWaits ++ [{ id := s.nextId, endpoint := h.endpoint, tenant := h.tenant,
                                                                              fence := f, value := v, timeout := timeout, start := s.clk }] })) ∧
     (∀ w, s.fenceWaits.find? (fun w => w.id == n) = some w → w.tenant = h.tenant → fenceValue T w.fence = some now →
       w.timeout ≤ (s.clk - w.start).toNat →
       exec (.fenceWaitTimeout n) s = .next { s with fenceWaits := s.fenceWaits.filter (fun c => c.id != n),
                                                     outbox := s.outbox ++ [.fence w.endpoint h.tenant w.fence now true] })) ∧
  (∀ (s : State) (x : Transfer) (p : GroupPacket) (i c : Nat) (R : Region) (q : SendQ) (run : SendRun), inService s = true → Memory.wf s.mem = true →
     let a := ((kget? s.regions x.region).map fun e => e.base).getD 0 + x.offset
     let tells := fun (i : Instr) (t : State) (m : Msg) => exec i s = .next { t with outbox := t.outbox ++ [m] }
     let kept := fun (a n b : Nat) => b / 8 * 8 ∈ s.poison ∧ (b / 8 * 8 < a ∨ a + n < b / 8 * 8 + 8)
     let lands := fun (t : State) (a : Nat) (l : List Byte) =>
       (∀ j < l.length, holeAt s (a + j) = false → ¬kept a l.length (a + j) → readByte t (a + j) = l.getD j 0 ∧ isEmpty t (a + j) = false) ∧
       (∀ b < 2 ^ 48, (b < a ∨ a + l.length ≤ b ∨ kept a l.length b) → ¬twinByte s a l.length b → readByte t b = readByte s b) ∧ t.outbox = s.outbox
     ((∀ E, kget? s.regions x.region = some E → E.state ≠ 2) → 0 < x.len → a % 512 + x.len ≤ 512 → a + x.len ≤ 2 ^ 48 → (x.write = true → x.bytes.length = x.len) →
       (transferCode s x ≠ 0 → tells (.hostTransferChunk x) s (.host x.endpoint x.tenant (transferCode s x) [])) ∧
       (transferCode s x = 0 → x.write = false → tells (.hostTransferChunk x) s (.host x.endpoint x.tenant 0 (readBytes s a x.len))) ∧
       (transferCode s x = 0 → x.write = true → ∃ t, tells (.hostTransferChunk x) t (.host x.endpoint x.tenant 0 []) ∧ lands t a x.bytes)) ∧
     (∀ G, p.bytes ≠ [] → p.bytes.length ≤ 512 → p.dreg < 2 ^ 20 → kget? s.groups p.group = some G →
       let b := ((kget? s.regions p.dreg).map fun e => e.base).getD 0 + p.doff
       let packet := leBytes 4 p.view.toNat ++ leBytes 4 p.dreg ++ leBytes 2 p.dgen.toNat ++ leBytes 8 p.doff ++ leBytes 1 (if p.flag then 1 else 0) ++ p.bytes
       let taken := p.view = G.number ∧ (G.roster = true → p.member ∈ G.members) ∧ ∀ k, G.key = some k → p.tss = Config.tssTag k packet
       (¬ taken → exec (.collectiveChunkReceive p) s = .next s) ∧
       (taken → receiveCheck s G p = .fail →
         tells (.collectiveChunkReceive p) s (.chunkAck p.group p.member false)) ∧
       (taken → receiveCheck s G p = .pass → b + p.bytes.length ≤ 2 ^ 48 →
         ∃ t, tells (.collectiveChunkReceive p) t (.chunkAck p.group p.member true) ∧ lands t b p.bytes)) ∧
     (∀ G, kget? s.sendqs i = some q → kget? s.regions q.region = some R → kget? s.groups q.group = some G → q.run = none → R.state = 1 →
       R.base + 64 * q.next + 56 ∈ s.empties →
       let b := BitVec.ofNat 512 (readVal s (R.base + 64 * q.next) 64)
       let l := slotChunks s b
       (bits b 416 32 ≠ G.number.toNat → exec (.groupSendSlotTake i) s = .next (endSlot s i q q.next 3)) ∧
       (bits b 416 32 = G.number.toNat → l ≠ [] → (∀ k ∈ l, sourceCheck s R.owner b k = .pass) → ∃ t r, exec (.groupSendSlotTake i) s = .next t ∧
         kget? t.sendqs i = some { q with run := some r } ∧ r.slot = q.next ∧ r.record = b ∧ r.flagSent = false ∧
         r.unacked.map (fun u => u.2) = l.map (fun k => readBytes s k.src k.len) ∧ t.mem = s.mem ∧
         t.outbox = s.outbox ++ l.map fun c =>
           let data := readBytes s c.src c.len
           let at_ := bits b 304 48 + c.dst
           .chunk q.group G.number (bits b 404 12) (bits b 364 20) (BitVec.ofNat 16 (bits b 384 16)) at_ false data (match G.key with
             | none => 0
             | some k => Config.tssTag k (leBytes 4 G.number.toNat ++ leBytes 4 (bits b 364 20) ++ leBytes 2 (bits b 384 16) ++ leBytes 8 at_ ++ [0] ++ data)))) ∧
     (kget? s.sendqs i = some q → q.run = some run → (∃ u ∈ run.unacked, u.1 = c) →
       exec (.collectiveChunkAck i c false) s = .next (endSlot s i q run.slot 2) ∧
       ((∃ u ∈ run.unacked, u.1 ≠ c) → exec (.collectiveChunkAck i c true) s = .next
         { s with sendqs := kset s.sendqs i { q with run := some { run with unacked := run.unacked.filter fun u => u.1 != c } } }) ∧
       ((∀ u ∈ run.unacked, u.1 = c) → (bits run.record 192 1 = 0 ∨ run.flagSent = true) →
         exec (.collectiveChunkAck i c true) s = .next (endSlot s i q run.slot 1))))

/-- R332, R338, R341 to R344, R350 to R353, R356, R427: a releasable task gets its method, its conversions or the no-method trap; a gang goes
onto free cores with its windows, escapement processors and start messages, or takes the dispatch fault; a bound handler takes its stage's
core, scrubbed first in a confidential cascade (R468); the first strands enter their queues, but none of a task that a fault has met. Which plan of conversions a task gets, and that it is looked up again when they have ended, is
the model's reading (log entry 24). -/
def Obligations.TasksReachTheirCores : Prop :=
  ∀ (s : State) (k i j : Nat) (T : Task) (cores : List Nat), kget? s.tasks k = some T →
    (T.state = 0 ∨ T.state = 1 → T.deps = [] → T.faults = [] → releasable s k T = true →
      (lookup s T = .method i → T.state = 1 ∨ T.method ≠ some i ∨ T.image ≠ mImage (kget s.methods i 0) →
        exec (.taskRelease k) s = .next (updTask s k fun u => { u with state := 0, method := some i, image := mImage (kget s.methods i 0) })) ∧
      (∀ plan l v, lookup s T = .convert plan → insertAll s k T (planSteps plan) = some (l, v) →
        ∃ t, exec (.taskRelease k) s = .next t ∧ kget? t.tasks k = some { T with state := 1, method := none, deps := l } ∧ t.mem = s.mem ∧
          l.length = (planSteps plan).length ∧ (∀ n ∉ l, n ≠ k → kget? t.tasks n = kget? s.tasks n) ∧
          ∀ n q e, l[n]? = some q → (planSteps plan)[n]? = some e → kget? s.tasks q = none ∧ ∃ c, kget? t.tasks q = some c ∧ c.state = 0 ∧
            c.kind = .conversion k ∧ c.method = some e.2 ∧ c.image = mImage (kget s.methods e.2 0) ∧ c.tenant = T.tenant ∧ c.queue = T.queue ∧
            c.order = T.order - (l.length - n) ∧ ∀ R, kget? s.regions e.1 = some R → R.extent < 2 ^ 48 →
              c.reg 0 = e.1 ∧ c.f 20 2 = 3 ∧ c.f 80 48 = R.extent ∧ c.nrec = 1 ∧ c.prio = T.prio ∧ c.f 1672 12 = 1) ∧
      (lookup s T = .nothing → ∃ t u f, exec (.taskRelease k) s = .next t ∧ kget? t.tasks k = some u ∧ u.state = 5 ∧ u.faults = [f] ∧ f.cls = 8 ∧
        f.code = 0x100 ∧ f.aux.toNat / 2 ^ 32 = T.f 1600 32 ∧ u.members = T.members)) ∧
    (T.state = 0 → T.deps = [] → T.faults = [] → releasable s k T = true → inService s = true → s.switching = false → T.method = some i →
      lookup s T = .method i → (kget? s.images T.image.toNat).isSome = true → boundTo s T = none → placementOk s T cores = true →
      outranked s k T = false → savedFirst s k (takenBy T cores) = false →
      (∀ f, dispatchFault s T (imageAt s T).header = some f → ∃ t u e, exec (.gangPlacement k cores) s = .next t ∧ kget? t.tasks k = some u ∧
        u.state = 5 ∧ u.faults = [e] ∧ e.cls = 1 ∧ e.code = 1 ∧ e.win = f.1 ∧ e.aux = f.2) ∧
      (dispatchFault s T (imageAt s T).header = none → ∃ t u, exec (.gangPlacement k cores) s = .next t ∧ kget? t.tasks k = some u ∧ u.state = 2 ∧
        u.members = sortNat cores ∧ u.placedAt = s.clk ∧ u.spawnsLeft.map (fun p => p.1) = List.range cores.length ∧ (T.lockStep = false → t.mem = s.mem) ∧
        ∀ g ∈ cores, (coreAt t g).task = some k ∧ (coreAt t g).strands.map (fun p => p.1) = [64] ∧ (coreAt t g).tagTab = [] ∧ (coreAt t g).tiles = [] ∧
          ∃ ep, strandAt? t g 64 = some ep ∧ ep.tid = T.handle ∧ (∀ n, ep.win n = kget (taskWindows s T) n Window.empty))) ∧
    (∀ g j, T.state = 0 → T.deps = [] → T.faults = [] → releasable s k T = true → inService s = true → s.switching = false → T.method = some i →
      lookup s T = .method i → (kget? s.images T.image.toNat).isSome = true → T.bound = some g → boundTo s T = some j → boundReady s j g = true → j ≠ k →
      savedFirst s k [] = false → dispatchFault s T (imageAt s T).header = none → ∃ t u, exec (.gangPlacement k [g]) s = .next t ∧ kget? t.tasks k = some u ∧ u.state = 2 ∧
        u.members = [g] ∧ (coreAt t g).task = some k ∧ (coreAt t g).rill = (coreAt s g).rill ∧
        (coreAt t g).stage = (coreAt s g).stage.map (fun q => { q with period := 0, due := false }) ∧
        ∀ J, kget? s.tasks j = some J → J.f 1344 64 ≠ 0 → T.lockStep = false → ∀ a, slotBase g ≤ a → a < slotBase g + 0x180000 →
          Memory.get t.mem a = 0 ∧ a ∉ t.poison ∧ a ∉ t.empties) ∧
    (∀ g h, T.state = 2 → T.started = false → T.stopped = false → T.faults = [] → T.saved = false → T.members.head? = some g → T.spawnsLeft.find? (fun p => p.1 == 0) = some (0, h) →
      ∃ t u, exec (.startMessage k) s = .next t ∧ (coreAt t g).startQ = (coreAt s g).startQ ++ [h] ∧ kget? t.tasks k = some u ∧ u.started = true) ∧
    (∀ g h, T.started = true → T.stopped = false → T.faults = [] → T.saved = false → j ≠ 0 → T.members[j]? = some g → T.spawnsLeft.find? (fun p => p.1 == j) = some (j, h) →
      (∀ p ∈ T.spawnsLeft, spawnsBefore T j p.1 = false) →
      ∃ t u, exec (.spawnMessage k j) s = .next t ∧ (coreAt t g).startQ = (coreAt s g).startQ ++ [h] ∧ kget? t.tasks k = some u ∧
        u.spawnsLeft = T.spawnsLeft.filter fun p => p.1 != j) ∧
    (T.faults ≠ [] → exec (.startMessage k) s = .refused (.notEnabled "START_MESSAGE") ∧
      exec (.spawnMessage k j) s = .refused (.notEnabled "SPAWN_MESSAGE"))

/-- R338, R345, R357, R361, R362, R364: a task whose strands and engines are done enters its completion flush; the walk writes back granule by
granule; the commit clears the tag tables and sets tags; the record, the fence and the cores follow; then the task may retire. That the cores are
freed with the completion record (log entry 27), what `waitersFree` notes (entry 86) and that `unreported` keeps a faulted task that retires before
its record is written (entry 95) are the model's. -/
def Obligations.TasksComplete : Prop :=
  ∀ (s : State) (k : Nat) (T : Task), kget? s.tasks k = some T →
    (T.state = 2 → T.started = true → T.faults = [] → T.quiesce = .no → T.saved = false → namesMoving s T = false → strandsLeft s k = false →
      (∀ g ∈ coresOf s k T, coreDone s g = true) → chooseConsumer s k T = none →
      exec (.taskCompletion k) s = .next (updTask s k fun u => { u with state := 3, cursor := 0 })) ∧
    (∀ r a, T.state = 3 → T.faults = [] → T.saved = false → T.quiesce = .no → curGranule s T = some (r, a) →
      (granuleTags s k T a = [] → exec (.granuleStep k) s = .next (updTask s k fun u => { u with cursor := cursorAfter s T r a })) ∧
      (∀ g slot e, granuleTags s k T a = [(g, slot, e)] → chunkCheck s (walkWin s T e) T.tenant true (tagAddr e) 256 = .pass →
        poisonedIn s (slotBase g + tagLocal e * 256) 256 = false → lineBad s (writeRanges s T) (tagAddr e) = none → ∃ t u, exec (.granuleStep k) s = .next t ∧ kget? t.tasks k = some u ∧
          u.cursor = cursorAfter s T r a ∧ u.faults = [] ∧ kget? (coreAt t g).tagTab slot = some (e &&& ~~~(1 <<< 62 : Word)))) ∧
    (T.state = 3 → T.faults = [] → T.saved = false → T.quiesce = .no → curGranule s T = none → curPhase T.cursor ≠ 3 →
      (∀ a ∈ s.accs, a.gcn ∉ coresOf s k T) → T.consumer = none → T.producer = none → ∃ t u, exec (.cisternCommit k) s = .next t ∧
        kget? t.tasks k = some u ∧ curPhase u.cursor = 3 ∧ u.waitersFree = (bits T.cursor 60 1 == 0) ∧ t.mem = s.mem ∧ (∀ g ∈ coresOf s k T, (coreAt t g).tagTab = []) ∧
        (∀ n e i R, T.isHandler = false → T.method = some n → kget? s.methods n = some e → i < T.nrec → mOmask e i = true →
          (∀ j < T.nrec, i < j → mOmask e j = true → T.reg j ≠ T.reg i) → kget? s.regions (T.reg i) = some R →
          ∃ R', kget? t.regions (T.reg i) = some R' ∧ R' = { R with tag := BitVec.ofNat 16 (mOut e i) })) ∧
    (∀ q N, T.kind = .user → kget? s.tenants T.tenant = some N → kget? N.queues T.queue = some q → q.cseq - q.cfreed < 2 ^ q.cslots →
      (T.state = 3 → curPhase T.cursor = 3 → T.consumer = none → T.producer = none → T.faults = [] → T.saved = false → T.bound = none →
        ∃ t u N', exec (.completionRecord k) s = .next t ∧ kget? t.tasks k = some u ∧ u.state = 4 ∧ u.completed = true ∧ u.slotHeld = some (T.queue, q.cseq) ∧
          kget? t.tenants T.tenant = some N' ∧ (∀ v, fenceValue N (fenceOf T) = some v → fenceValue N' (fenceOf T) = some ((v + T.f 1280 48) % 2 ^ 64)) ∧
          ∀ g ∈ coresOf s k T, (coreAt t g).task = none) ∧
      (T.completed = false → T.producer = none → T.state = 6 ∨ T.state = 5 ∧ T.quiet = true → ∃ t u, exec (.completionRecord k) s = .next t ∧ kget? t.tasks k = some u ∧
        u.state = T.state ∧ u.completed = true)) ∧
    (T.state = 4 ∨ T.state = 6 ∨ T.state = 5 ∧ T.quiet = true → slotFreed s T = true → (∀ p ∈ s.tasks, (p.2.state = 0 → T.handle ∉ p.2.preds) ∧
      p.2.producer ≠ some k ∧ p.2.consumer ≠ some k) → exec (.taskRetirement k) s = .next
        { s with tasks := kdel s.tasks k, unreported := if T.state = 5 ∧ T.recorded = false then s.unreported ++ [T] else s.unreported })

/-- R122, R331, R338, R405, R406: a faulted task stops on every core, a confined stage fault on its stage alone, whose waiting tests wait on; once everything outstanding
has landed the task enters state 5, its written regions are marked and its cores are free. That the cores are freed when the stop ends is
the model's (log entry 27). -/
def Obligations.FaultedTasksStop : Prop :=
  ∀ (s : State) (k : Nat) (T : Task) (f : FaultInfo), kget? s.tasks k = some T → firstFault T.faults = some f → T.quiet = false →
    (∀ g ∈ T.faults, vecSettled s g = true) →
    let stoppedOn := fun (t : State) (g : Nat) => (∀ p ∈ (coreAt t g).strands, p.2.stopped = true) ∧ (coreAt t g).deque = [] ∧ (coreAt t g).startQ = [] ∧
      (coreAt t g).arrivals = [] ∧ (coreAt t g).spilled = [] ∧ (coreAt t g).vq = [] ∧ (coreAt t g).mq = [] ∧ (coreAt t g).mrun = (coreAt s g).mrun
    (T.stopped = false → T.confined = none → T.period = 0 ∨ T.state ≠ 2 ∨ 2 ≤ T.faults.length ∨ confinable f = false ∨ T.spawnsLeft ≠ [] →
      ∃ t u, exec (.taskStop k) s = .next t ∧ kget? t.tasks k = some u ∧ u.stopped = true ∧ u.faults = T.faults ∧ u.spawnsLeft = [] ∧ t.mem = s.mem ∧
        ∀ g ∈ coresOf s k T, stoppedOn t g) ∧
    (T.stopped = false → T.confined = none → T.period ≠ 0 → T.state = 2 → T.faults.length = 1 → confinable f = true → T.spawnsLeft = [] →
      ∃ t u, exec (.taskStop k) s = .next t ∧ kget? t.tasks k = some u ∧ u.confined = some f.gcn ∧ u.stopped = false ∧ u.state = 2 ∧ stoppedOn t f.gcn ∧
        t.mem = s.mem ∧ ((coreAt s f.gcn).vq = [] → (coreAt s f.gcn).vrun = none → t.accs = s.accs ∧ t.waiters = s.waiters) ∧
        ∀ g, g ≠ f.gcn → (coreAt t g).strands = (coreAt s g).strands ∧ (coreAt t g).task = (coreAt s g).task) ∧
    (T.stopped = true → (∀ g ∈ coresOf s k T, coreQuiet s g = true) → T.carried = [] → T.confined = none → T.bound = none →
      ∃ t u, exec (.taskStop k) s = .next t ∧ kget? t.tasks k = some u ∧ u.state = 5 ∧ u.quiet = true ∧ u.faults = T.faults ∧
        (T.f 1344 64 = 0 → t.mem = s.mem) ∧ (∀ g ∈ coresOf s k T, (coreAt t g).task = none ∧ (coreAt t g).tagTab = []) ∧
        (∀ i R, i < T.nrec → bit1 (T.recBits i) 21 = true → kget? s.regions (T.reg i) = some R → kget? t.regions (T.reg i) = some { R with inc := true }))

/-- R124, R126, R127, R408, R409: the fault record of a stopped task, or of one that has retired meanwhile, is written into a free run of its
tenant's ring and its handler is spawned; a failing core is withheld, and the task on it, if there is one, faulted; an uncorrectable word is
poisoned. That a task which retires before its record is written waits in `unreported` for it is the model's (log entry 95). -/
def Obligations.FaultRecordsAreWritten : Prop :=
  (∀ (s : State) (k : Nat) (T : Task) (N : Tenant) (f : FaultInfo) (r : FaultRing) (R : Region) (run : List Nat),
    kget? s.tasks k = some T → kget? s.tenants T.tenant = some N → firstFault T.faults = some f →
    let slot := run.headD 0
    ((∀ q ∈ s.unreported, handleSlot q.handle ≠ k) → T.quiet = true → T.recorded = false → N.ring = some r → freeRun r (slotsNeeded T false) = some run → (newSlot s).isSome = true → T.nrec ≤ 8 →
      ∃ t N' r', exec (.faultRecordWrite k) s = .next t ∧ kget? t.tasks k = some { T with recorded := true, ringSlots := run } ∧
        kget? t.tenants T.tenant = some N' ∧ N'.ring = some r' ∧ r'.seq = r.seq + 1 ∧ (∀ q ∈ run, kget? r'.used q = some slot) ∧
        t.ownerRing = s.ownerRing ++ [BitVec.ofNat 512 (recordBits T f r.seq)] ∧
        (kget? s.regions r.region = some R → R.state = 1 → Memory.wf s.mem = true → R.base + 128 * r.slots ≤ 2 ^ 48 →
          (∀ b < 128 * r.slots, holeAt s (R.base + b) = false) → readVal t (R.base + 128 * slot) 64 = recordBits T f r.seq % 2 ^ 512 ∧
            readVal t (R.base + 128 * slot + 64) 8 = T.handle.toNat ∧ readVal t (R.base + 128 * slot + 72) 8 = (R.base + 128 * slot) % 2 ^ 64) ∧
        (∀ op m, handlerOp T N.handler.toNat = some op → (entriesOf s T 1).find? (fun p => mOp p.2 == op) = some m → ∃ j H, kget? t.tasks j = some H ∧
          H.kind = .handler T.handle ∧ H.tenant = T.tenant ∧ H.queue = T.queue ∧ H.ringSlots = run ∧ H.method = some m.1 ∧ H.image = mImage m.2 ∧ H.state = 0 ∧
          H.prio = T.prio)) ∧
    (∀ n, s.unreported = [T] → handleSlot T.handle = n → T.quiet = true → T.recorded = false → N.ring = some r → freeRun r (slotsNeeded T false) = some run →
      (newSlot s).isSome = true → ∃ t, exec (.faultRecordWrite n) s = .next t ∧ t.unreported = [] ∧
        t.ownerRing = s.ownerRing ++ [BitVec.ofNat 512 (recordBits T f r.seq)])) ∧
  (∀ (s : State) (g unit addr : Nat), g < 2560 → 1 ≤ unit → unit ≤ 5 → ∃ t, exec (.gangCoreUncorrectableError g unit addr) s = .next t ∧
    (coreAt t g).withheld = true ∧ (coreAt t g).strands = (coreAt s g).strands ∧ t.mem = s.mem ∧ (∀ h, h ≠ g → coreAt t h = coreAt s h) ∧
    ((coreAt s g).task = none → t.tasks = s.tasks) ∧
    ∀ k T, (coreAt s g).task = some k → kget? s.tasks k = some T → ∃ e : FaultInfo, kget? t.tasks k = some { T with faults := T.faults ++ [e] } ∧
      e.cls = 5 ∧ e.code = 1 ∧ e.gcn = g ∧ e.aux = BitVec.ofNat 64 unit ∧ e.addr = (if unit = 1 then BitVec.ofNat 64 addr else 0) ∧
      (e.gang = true ↔ 1 < T.members.length)) ∧
  (∀ (s : State) (a : Nat), a < 2 ^ 40 ∨ (2 ^ 40 ≤ a ∧ a < 2 ^ 40 + 2560 * 2 ^ 21 ∧ (a - 2 ^ 40) % 2 ^ 21 < 0x180000 ∧
      coreDisabled s ((a - 2 ^ 40) / 2 ^ 21) = false) → exec (.uncorrectableData a) s = .next { s with poison := sinsert s.poison (a / 8 * 8) })

/-- R363, R450 to R455, R506: a task is asked to stop at the end of its slice; a gang at rest is saved and its cores are freed, or stands
quiesced in place; quiescence is cancelled and tried again; the save slots of all gangs that leave must be free, else the task quiesces for what
else is due; a saved or held task resumes, behind saved tasks that need cores of a retiring cluster (R462). -/
def Obligations.TasksArePreempted : Prop :=
  ∀ (s : State) (k : Nat) (T : Task), kget? s.tasks k = some T →
    let slots := s.saves.length + ((s.tasks.filter fun p => p.2.quiesce == .slice).map fun p => p.2.members.length).sum +
      (if T.quiesce = .slice then 0 else T.members.length) +
      ((s.tasks.filter fun p => p.1 != k && holdsStage s k p.2 && p.2.quiesce != .slice).map fun p => p.2.members.length).sum
    let quiesced := fun (t : State) (q : Quiesce) => t = updTask s k fun u => { u with quiesce := q, retry := none, stopAt := s.clk }
    (∀ N, kget? s.tenants T.tenant = some N → T.state = 2 ∨ T.state = 3 → T.saved = false → T.quiesce = .no → T.retry = none → T.held = false → T.stopped = false → T.stops = false →
      0 < N.slice → N.slice ≤ (s.clk - T.placedAt).toNat →
      (∀ g ∈ coresOf s k T, s.retiring.contains (clusterOf g) = false) → (∃ p ∈ s.tasks, wantsCores s T p.1 p.2 = true) →
      (s.tasks.map fun p => p.1).Nodup → (slots ≤ 3072 → ∃ t, exec (.sliceExpiry k) s = .next t ∧ t.cores = s.cores ∧ t.mem = s.mem ∧
        kget? t.tasks k = some { T with quiesce := .slice, stopAt := s.clk } ∧
        ∀ j U, j ≠ k → kget? s.tasks j = some U → (holdsStage s k U = false → kget? t.tasks j = some U) ∧
          (holdsStage s k U = true → U.retry = none → U.quiesce = .no → kget? t.tasks j = some { U with quiesce := .slice, stopAt := s.clk })) ∧
        (3072 < slots → exec (.sliceExpiry k) s = .refused (.notEnabled "SLICE_EXPIRY"))) ∧
    (T.quiesce = .slice → T.state = 2 → T.held = false → T.stopped = false → T.stops = false → T.faults = [] ∨ T.confined ≠ none → T.bound = none →
      (∀ p ∈ s.tasks, holdsStage s k p.2 = false) →
      (∀ g ∈ coresOf s k T, needsCheckpoint s T g = false ∧ s.retiring.contains (clusterOf g) = false) → gangAtRest s k T = true → ∃ t u, exec (.quiescenceComplete k) s = .next t ∧ kget? t.tasks k = some u ∧ u.saved = true ∧ u.quiesce = .no ∧
        u.state = 2 ∧ ∀ g ∈ coresOf s k T, (coreAt t g).task = none ∧ (∀ a ∈ t.accs, a.gcn ≠ g) ∧ ∃ v ∈ t.saves, v.slot = k ∧ v.gcn = g ∧ T.members[v.member]? = some g ∧
          v.bytes = s.mem.filter (fun p => decide (slotBase g ≤ p.1) && decide (p.1 < slotBase g + 0x180000)) ∧
          (rollsBack T = false → v.core.strands = (coreAt s g).strands.map fun p => (p.1, savedStrand p.2))) ∧
    ((T.quiesce = .service ∨ ∃ r, T.quiesce = .compact r) → T.held = false → T.stopped = false → T.stops = false →
      T.faults = [] ∨ T.confined ≠ none → (∀ g ∈ coresOf s k T, needsCheckpoint s T g = false) →
      gangAtRest s k T = true → ∃ t u, exec (.quiescenceComplete k) s = .next t ∧ kget? t.tasks k = some u ∧ u.held = true ∧ t.cores = s.cores ∧ t.mem = s.mem) ∧
    (T.quiesce ≠ .no → T.held = false → (∃ g ∈ coresOf s k T, startedWork (coreAt s g) = true) →
      65536 ≤ (s.clk - T.stopAt).toNat → exec (.quiescenceCancel k) s = .next (updTask s k fun u => { u with retry := some (T.quiesce, s.clk), quiesce := .no })) ∧
    (∀ q c, T.retry = some (q, c) → 2 ^ 20 ≤ (s.clk - c).toNat → T.stopped = false → T.stops = false →
      let leaves := q = .slice ∧ ∃ g ∈ coresOf s k T, s.retiring.contains (clusterOf g) = true
      (leaves → ∃ t, exec (.quiescenceRetry k) s = .next t ∧ quiesced t (nextQuiesce s T)) ∧
      (q ≠ .slice → ∃ t, exec (.quiescenceRetry k) s = .next t ∧ quiesced t q) ∧
      (¬ leaves → q = .slice → (s.tasks.map fun p => p.1).Nodup →
        (slots ≤ 3072 → ∃ t, exec (.quiescenceRetry k) s = .next t ∧ t.cores = s.cores ∧ t.mem = s.mem ∧
          kget? t.tasks k = some { T with quiesce := .slice, retry := none, stopAt := s.clk }) ∧
        (3072 < slots → nextQuiesce s T ≠ .no → ∃ t, exec (.quiescenceRetry k) s = .next t ∧ quiesced t (nextQuiesce s T)) ∧
        (3072 < slots → nextQuiesce s T = .no → exec (.quiescenceRetry k) s = .refused (.notEnabled "QUIESCENCE_RETRY")))) ∧
    (T.saved = false → T.held = true → (T.quiesce = .service ∨ ∃ r, T.quiesce = .compact r) → s.switching = false → namesMoving s T = false →
      ∃ t u, exec (.taskResume k) s = .next t ∧ kget? t.tasks k = some u ∧ u.held = false ∧ u.quiesce = .no ∧ u.state = T.state) ∧
    (T.saved = true → s.switching = false → (∀ f ∈ T.faults, T.confined = some f.gcn) → coresBack s k T = true → namesMoving s T = false → T.lockStep = false →
      (needsRetiring s k = true ∨ ∀ p ∈ s.tasks, p.1 ≠ k → p.2.saved = true → needsRetiring s p.1 = false) →
      (∀ v ∈ s.saves, ∀ w ∈ s.saves, v.slot = k → w.slot = k → v.gcn = w.gcn → v = w) →
      ∃ t u, exec (.taskResume k) s = .next t ∧ kget? t.tasks k = some u ∧ u.saved = false ∧ u.placedAt = s.clk ∧ (∀ v ∈ t.saves, v.slot ≠ k) ∧
        ∀ v ∈ s.saves, v.slot = k → (coreAt t v.gcn).task = some k ∧ (coreAt t v.gcn).member = v.member ∧
          (coreAt t v.gcn).strands.map (fun p => p.1) = v.core.strands.map (fun p => p.1))

/-- R418, R456, R457, R462, R463, R470: a compaction moves a region's bytes and writes its entry in one step; a sweep goes on line by
line; an unused retiring cluster and an emptied channel's range are withdrawn. Which stranded region moves next and to where, one at a time
to the lowest free range, is the model's (log entry 42). -/
def Obligations.RegionsMoveAndUnitsRetire : Prop :=
  ∀ (s : State) (r : Nat) (e : Region), kget? s.regions r = some e →
    (∀ new, e.state = 2 → e.moveTo = some new → (∀ p ∈ holders s r, p.2.held = true) → namedInFlush s r = false → Memory.wf s.mem = true → ∃ t, exec (.compactionEntryWrite r) s = .next t ∧
      kget? t.regions r = some { e with base := new, gen := e.gen + 1, state := 1, moveTo := none } ∧
      (∀ j < e.extent, Memory.get t.mem (new + j) = Memory.get s.mem (e.base + j)) ∧
      (∀ a, (a < new ∨ new + e.extent ≤ a) → Memory.get t.mem a = Memory.get s.mem a) ∧
      (∀ j < e.extent, (new + j ∈ t.empties ↔ e.base + j ∈ s.empties))) ∧
    (e.rekey = true → e.state ≠ 0 → exec (.rekeySweepStep r) s = .next (updRegion s r fun q =>
      if e.sweep < e.extent then { q with sweep := e.sweep + 256 } else { q with rekey := false, sweep := 0 })) ∧
    (∀ cl, s.retiring.contains cl = true → clusterInUse s cl = false → ∃ t, exec (.clusterRetirementEffect cl) s = .next t ∧ cl ∈ t.retired ∧ cl ∉ t.retiring ∧
      t.tasks = s.tasks ∧ t.mem = s.mem ∧ ∀ g, clusterOf g = cl → coreDisabled t g = true) ∧
    (∀ st ch, (st, ch) ∈ s.chanPending → stranded s (st, ch) = [] → ∃ t, exec (.channelRetirementEffect st ch) s = .next t ∧
      t.chanRetired = s.chanRetired ++ [(st, ch)] ∧ (st, ch) ∉ t.chanPending ∧ t.mem = s.mem) ∧
    (∀ st ch new, (st, ch) ∈ s.chanPending → stranded s (st, ch) ≠ [] → (noRoom s (st, ch) = true → (st, ch) ∈ s.chanTold) → nextMove s (st, ch) = some (r, new) →
      ∃ t, exec (.channelRetirementEffect st ch) s = .next t ∧ kget? t.regions r = some { e with state := 2, moveTo := some new } ∧
        t.chanRetired = s.chanRetired)

/-- R474, R475, R509, R510: a request of a kind that is not listed gets status 1; until reduced service a request gets status 3 and has no
effect; one that belongs to the owner gets status 2 from any other master; ownership is claimed, handed over, kept alive and lost. A reply is
the request's header with its status, then the data. Masters are those whose endpoints the device descriptor records. The data of a status
reply (log entry 38), seconds counted in cycles (entry 46), status 3 before status 2 (entry 37), and a request held back or answered busy
behind one that waits, but for the arrival of a keepalive (entry 89), and a handover's destination as its first argument (entry 98) are the model's. -/
def Obligations.OwnershipIsKept : Prop :=
  ∀ (s : State) (h : ReqHdr), (kget? s.mgmt h.master).isSome = true → s.service ≠ .halted →
    let header := fun (n : Nat) => h.kind % 2 ^ 8 + h.master % 2 ^ 8 * 2 ^ 8 + h.tenant % 2 ^ 8 * 2 ^ 16 + n * 2 ^ 24 + h.seq % 2 ^ 32 * 2 ^ 32 + h.arg.toNat * 2 ^ 64
    let sent := fun (t : State) (n : Nat) (data : List Word) => { t with outbox := t.outbox ++ [.reply h.master (leBytes 16 (header n)) data] }
    let first := ∀ p ∈ s.reqWait, p = (h.master, h.seq)
    let replies := fun (kind : Nat) (i : Instr) (t : State) (n : Nat) (data : List Word) => first → h.kind = kind →
      exec i s = .next (sent { t with reqWait := kdel t.reqWait h.master } n data)
    let owned := fun (i : Instr) (kind : Nat) => ∃ (n m q : Nat) (d : RegionDesc) (w : Word) (w1 : BitVec 128) (w2 : BitVec 256) (w5 : BitVec 512) (b c : List Byte)
      (l : RevocationList) (w10 : BitVec 1024) (v : ViewRecord) (r : RosterRecord), (i, kind) ∈ [
      (.tenantCreate h n m q, 3), (.launchQueueCreate h n m ⟨w2, q, q⟩, 3), (.fenceCreate h n ⟨m, q⟩, 3), (.faultRingRegister h n m, 3), (.faultSlotFree h n m, 3),
      (.regionCreate h d, 4), (.regionFree h n, 4), (.regionRevoke h n, 4), (.regionCompact h n m, 4), (.regionRekey h n, 4), (.incompleteMarkClear h n, 4),
      (.memoryWindowInstall h n m w1, 5), (.partitionRecordInstall h w2, 6), (.sliceSet h n m, 6), (.powerCapSet h n, 6), (.methodEntryInstall h n w5, 7),
      (.imageInstall h n b, 7), (.revocationListInstall h l, 8), (.linkDomainCreate h w10, 9), (.linkDomainDelete h n, 9), (.landingBind h n m w q, 9),
      (.keyInstall h b c, 10), (.keyDestroy h w, 10), (.clusterRetire h n, 11), (.channelRetire h n m, 11), (.returnToService h n, 11), (.portSplit h n, 12),
      (.viewInstall h v, 13), (.rosterInstall h r, 13), (.groupSendQueueBind h n m q q, 13), (.migrationRound h n, 14), (.migrationFinalRound h n, 14)]
    let late := fun (n sec : Nat) (since : BitVec 64) => n * sec ≤ (s.clk - since).toNat
    let hz := if s.service = .full then 3600000000 else 1800000000
    (∀ i kind, owned i kind →
      (first → h.kind = 0 ∨ 15 < h.kind → exec i s = .next (sent s 1 [])) ∧
      (first → h.kind = kind → inService s = false → exec i s = .next (sent s 3 [])) ∧
      (s.reqWait = [] → h.kind = kind → inService s = true → s.owner ≠ some h.master → exec i s = .next (sent s 2 [])) ∧
      (¬ first → ∃ r, exec i s = if Config.busyReply s.nextId = true then .next (sent { s with nextId := s.nextId + 1 } 4 []) else .refused r)) ∧
    replies 1 (.statusRead h) s 0 (statusData s h.tenant) ∧
    (s.owner = none → replies 2 (.ownershipClaim h) { s with owner := some h.master, ownerSeen := s.clk } 0 []) ∧
    (s.owner.isSome = true → replies 2 (.ownershipClaim h) s 1 []) ∧
    (∀ dst, s.owner = some h.master → (kget? s.mgmt dst).isSome = true → dst ≠ h.master → h.arg = BitVec.ofNat 64 dst →
      replies 2 (.ownershipHandover h dst) { s with handover := some (dst, s.clk), outbox := s.outbox ++ [.handover dst] } 0 []) ∧
    (∀ c, s.handover = some (h.master, c) → ¬late hz 10 c → replies 2 (.handoverAck h) { s with owner := some h.master, handover := none, ownerSeen := s.clk } 0 []) ∧
    (∀ d c, s.handover = some (d, c) → late hz 10 c → exec .handoverLapse s = .next { s with handover := none }) ∧
    (s.owner = some h.master → replies 2 (.keepalive h) { s with ownerSeen := s.clk } 0 []) ∧
    (s.owner = some h.master → h.kind = 2 → s.ownerSeen ≠ s.clk → ∃ t, exec (.keepalive h) s = .next t ∧ t.ownerSeen = s.clk) ∧
    (s.owner = some h.master → late hz 30 s.ownerSeen → exec .ownershipLoss s = .next { s with owner := none, handover := none })

/-- R416 to R419, R456, R460, R470, R479, R483, R509: the owner creates, frees, revokes, moves and rekeys regions and clears their marks, a
moved region with its old generation and mark; a free of a region in use waits; a master queries those of a tenant that it serves. Which
tenants it serves and the reply to a compaction at its acceptance (log entry 37), the data words of a query's reply (entry 38), how a request
waits (entry 89), and that one whose header names another region is refused (entry 98) are the model's. -/
def Obligations.RegionsAreManaged : Prop :=
  ∀ (s : State) (h : ReqHdr) (d : RegionDesc) (r : Nat) (e : Region), (kget? s.mgmt h.master).isSome = true → inService s = true → s.owner = some h.master →
    (∀ p ∈ s.reqWait, p = (h.master, h.seq)) → h.kind = 4 →
    let sent := fun (t : State) (n : Nat) (data : List Word) =>
      { t with reqWait := kdel t.reqWait h.master, outbox := t.outbox ++ [.reply h.master (leBytes 16 (headerBits { h with status := n })) data] }
    let ok := fun (n : Nat) (i : Instr) (P : State → Prop) =>
      (h.arg = BitVec.ofNat 64 n → ∃ t, exec i s = .next (sent t 0 []) ∧ P t) ∧ (h.arg ≠ BitVec.ofNat 64 n → exec i s = .next (sent s 1 []))
    (∀ g, createRefused s d = false → h.tenant = d.owner → g = (d.moved.map fun m => m.1).getD (genOf s d.number + 1) → g ≠ 0xFFFF → ok d.number (.regionCreate h d) fun t => ∃ R, kget? t.regions d.number = some R ∧ R.base = d.base ∧
      R.extent = d.extent ∧ R.owner = d.owner ∧ R.tag = d.tag ∧ R.state = 1 ∧ R.gen = g ∧ R.inc = (d.moved.map fun m => m.2).getD false ∧
      (∀ j < d.extent, Memory.get t.mem (d.base + j) = 0 ∧ d.base + j ∉ t.empties ∧ d.base + j ∉ t.poison) ∧
      (Memory.wf s.mem = true → ∀ a, (a < d.base ∨ d.base + d.extent ≤ a) → Memory.get t.mem a = Memory.get s.mem a) ∧
      ∀ n, n ≠ d.number → kget? t.regions n = kget? s.regions n) ∧
    (createRefused s d = true ∨ h.tenant ≠ d.owner → exec (.regionCreate h d) s = .next (sent s 1 [])) ∧
    (kget? s.regions r = some e → e.state ≠ 0 → regionNamed s r = false → ok r (.regionFree h r) fun t =>
      kget? t.regions r = some { e with state := 0, moveTo := none, rekey := false, sweep := 0 } ∧ t.mem = s.mem) ∧
    (kget? s.regions r = some e → e.state ≠ 0 → regionNamed s r = true → s.reqWait = [] → h.arg = BitVec.ofNat 64 r →
      exec (.regionFree h r) s = .next { s with reqWait := [(h.master, h.seq)] }) ∧
    (kget? s.regions r = some e → e.state ≠ 0 → ok r (.regionRevoke h r) fun t => kget? t.regions r = some { e with state := 3, moveTo := none } ∧
      ∀ k T, kget? s.tasks k = some T → (T.state ≤ 3 → names s T r = true → ∃ f : FaultInfo, kget? t.tasks k = some { T with faults := T.faults ++ [f] } ∧
        f.cls = 6 ∧ f.code = 1 ∧ f.aux = BitVec.ofNat 64 (r + e.gen.toNat * 2 ^ 20)) ∧ (names s T r = false → kget? t.tasks k = some T)) ∧
    (∀ base, kget? s.regions r = some e → moveOk s r e base = true → namedInFlush s r = false → e.rekey = false → ok r (.regionCompact h r base) fun t =>
      kget? t.regions r = some { e with state := 2, moveTo := some base } ∧ t.mem = s.mem) ∧
    (kget? s.regions r = some e → e.state = 1 → e.prot = true → e.rekey = false → e.wver ≠ 0xFFFFFFFF → ok r (.regionRekey h r) fun t =>
      t = updRegion s r fun q => { q with wver := q.wver + 1, sweep := 0, rekey := true }) ∧
    (kget? s.regions r = some e → e.state ≠ 0 → ok r (.incompleteMarkClear h r) fun t => t = updRegion s r fun q => { q with inc := false }) ∧
    (∀ q : ReqHdr, (kget? s.mgmt q.master).isSome = true → (∀ p ∈ s.reqWait, p.1 = q.master → p.2 = q.seq) → q.kind = 4 → kget? s.regions r = some e → e.state ≠ 0 →
      let data := [BitVec.ofNat 64 (regionBits e / 2 ^ 64), BitVec.ofNat 64 (regionBits e / 2 ^ 128), BitVec.ofNat 64 (e.owner * 2 ^ 58 + e.state.toNat * 2 ^ 56)]
      let answer := fun (n : Nat) (l : List Word) => .next
        { s with reqWait := kdel s.reqWait q.master, outbox := s.outbox ++ [.reply q.master (leBytes 16 (headerBits { q with status := n })) l] }
      exec (.regionQuery q r) s = if q.arg = BitVec.ofNat 64 r ∧ e.owner = q.tenant ∧ masterServes s q.master q.tenant = true then answer 0 data else answer 1 [])

/-- R126, R340, R420, R422, R453, R462, R463, R473, R476, R478, R483 to R486, R507: the owner creates tenants, queues and fences, these also
with the counts of an old device, registers rings, installs windows, partitions, slices, methods, views and rosters, sets the power cap and
retires clusters and channels. The event of a channel's retirement, kind 3 with tenant 0xFF once there is no room (log entries 32 and 42), and
the request that installs the fabric manager's key (entry 90) are the model's. So is what each header must name, and the refusal of one that
names another (entry 98). -/
def Obligations.TenantsAreManaged : Prop :=
  ∀ (s : State) (h : ReqHdr) (t : Nat) (N : Tenant), (kget? s.mgmt h.master).isSome = true → inService s = true → s.owner = some h.master →
    (∀ p ∈ s.reqWait, p = (h.master, h.seq)) →
    let sent := fun (t : State) (n : Nat) (data : List Word) =>
      { t with reqWait := kdel t.reqWait h.master, outbox := t.outbox ++ [.reply h.master (leBytes 16 (headerBits { h with status := n })) data] }
    let agrees := fun (tn an : Option Nat) => (∀ x, tn = some x → h.tenant = x) ∧ ∀ x, an = some x → h.arg = BitVec.ofNat 64 x
    let ok := fun (kind : Nat) (tn an : Option Nat) (i : Instr) (P : State → Prop) => h.kind = kind →
      (agrees tn an → ∃ u, exec i s = .next (sent u 0 []) ∧ P u) ∧ (¬ agrees tn an → exec i s = .next (sent s 1 []))
    let refused := fun (kind : Nat) (i : Instr) => h.kind = kind → exec i s = .next (sent s 1 [])
    let becomes := fun (M : Tenant) => { s with tenants := kset s.tenants t M }
    (∀ ep hd, (t < 64 → kget? s.tenants t = none → ok 3 (some t) (some ep) (.tenantCreate h t ep hd) fun u => ∃ M, kget? u.tenants t = some M ∧ M.endpoint = ep ∧
      M.handler = BitVec.ofNat 32 hd ∧ M.queues = [] ∧ M.fences = [] ∧ M.ring = none ∧ M.part = none ∧ M.nextLaunch = 1) ∧
      (64 ≤ t ∨ (kget? s.tenants t).isSome = true → refused 3 (.tenantCreate h t ep hd))) ∧
    (kget? s.tenants t = some N →
      (∀ q written freed (b : BitVec 256), q < 16 → kget? N.queues q = none → N.ring.isSome = true → bits b 40 4 ≠ 0 → bits b 16 4 ≠ 0 → bits b 16 4 ≤ 12 →
        ringFits s t (bits b 44 20) (32 * 2 ^ bits b 40 4) = true → ringFits s t (bits b 20 20) (256 * 2 ^ bits b 16 4) = true →
        bits b 64 64 ≤ bits b 128 64 → bits b 128 64 ≤ bits b 64 64 + 2 ^ bits b 16 4 → freed ≤ written → written ≤ freed + 2 ^ bits b 40 4 →
        ok 3 (some t) (some q) (.launchQueueCreate h t q ⟨b, written, freed⟩) fun u => ∃ Q, queueAt u t q = some Q ∧ Q.fence = bits b 192 64 ∧ Q.tail = bits b 128 64 ∧
          Q.head = bits b 64 64 ∧ Q.cring = bits b 44 20 ∧
          Q.cslots = bits b 40 4 ∧ Q.lring = bits b 20 20 ∧ Q.lslots = bits b 16 4 ∧ Q.cseq = written ∧ Q.cfreed = freed) ∧
      (∀ i v, i < 4096 → v < 2 ^ 64 → kget? N.fences i = none → ok 3 (some t) (some i) (.fenceCreate h t ⟨i, v⟩) fun u => u = becomes { N with fences := kset N.fences i v }) ∧
      (∀ r R, kget? s.regions r = some R → N.ring = none → R.state = 1 → R.owner = t → isSpad R.base = false → 16 * 128 ≤ R.extent →
        ok 3 (some t) (some r) (.faultRingRegister h t r) fun u => u = becomes { N with ring := some { region := r, slots := R.extent / 128, next := 0, seq := 0, used := [] } }) ∧
      (∀ r slot, N.ring = some r → kget? r.used slot = some slot → handlerUses s t slot = false → ok 3 (some t) (some slot) (.faultSlotFree h t slot) fun u =>
        ∃ M R, kget? u.tenants t = some M ∧ M.ring = some R ∧ R.used = r.used.filter (fun p => p.2 != slot) ∧ R.next = r.next ∧ u.mem = s.mem) ∧
      (∀ i (w : BitVec 128), i < 16 → bits w 0 48 % 4096 = 0 → bits w 48 48 % 4096 = 0 →
        (bits w 48 48 ≤ 0xFC00000000 ∨ 2 ^ 40 ≤ bits w 0 48 ∨ bits w 48 48 ≤ bits w 0 48) → ok 5 (some t) (some i) (.memoryWindowInstall h t i w) fun u =>
          u = becomes { N with wins := kset N.wins i w }) ∧
      (∀ i (w : BitVec 128), bits w 0 48 % 4096 ≠ 0 ∨ bits w 48 48 % 4096 ≠ 0 ∨ 16 ≤ i → refused 5 (.memoryWindowInstall h t i w)) ∧
      (∀ c, (c = 0 ∨ 2 ^ 16 ≤ c ∧ c ≤ 2 ^ 32 → ok 6 (some t) (some c) (.sliceSet h t c) fun u => u = becomes { N with slice := c }) ∧
        (c ≠ 0 → c < 2 ^ 16 ∨ 2 ^ 32 < c → refused 6 (.sliceSet h t c))) ∧
      (∀ p : BitVec 256, bits p 0 6 = t → partRefused s p = false → ok 6 (some t) none (.partitionRecordInstall h p) fun u =>
        (∃ M, kget? u.tenants t = some M ∧ M.part = some p ∧ M.queues = N.queues) ∧ t ∈ u.partOrder ∧ u.mem = s.mem) ∧
      (∀ p : BitVec 256, bits p 0 6 = t → partRefused s p = true → refused 6 (.partitionRecordInstall h p))) ∧
    (∀ i (m : BitVec 512), methodRefused i m = false → ok 7 none (some i) (.methodEntryInstall h i m) fun u => u = { s with methods := kset s.methods i m }) ∧
    (∀ w, let rated := if s.order = .zn9m2560L then 3600 else 3300
      (1500 ≤ w ∧ w ≤ rated → ok 6 none (some w) (.powerCapSet h w) fun u => u = { s with powerCap := w }) ∧ (w < 1500 ∨ rated < w → refused 6 (.powerCapSet h w))) ∧
    (∀ p, p < 16 → p ∉ s.split → p ∉ s.splitPending → ok 12 none (some p) (.portSplit h p) fun u => u = { s with splitPending := sinsert s.splitPending p }) ∧
    (∀ c, c < 160 → c ∉ s.disabled → c ∉ s.retired → c ∉ s.retiring → (∀ p ∈ s.tasks, p.2.saved = false) → ok 11 none (some c) (.clusterRetire h c) fun u =>
      u = { s with retiring := sinsert s.retiring c }) ∧
    (∀ st ch E, st < 16 → ch < 32 → (st, ch) ∉ s.chanRetired → (st, ch) ∉ s.chanPending → kget? s.mgmt h.master = some E → ok 11 none (some st) (.channelRetire h st ch) fun u =>
      u.chanPending = s.chanPending ++ [(st, ch)] ∧ u.outbox = s.outbox ++ (if noRoom s (st, ch) = true ∧ Config.delivered s.eventSeq = true
        then [.event 3 E 0xFF s.clk [BitVec.ofNat 64 (st * 2 ^ 8 + ch)]] else [])) ∧
    (∀ g, g < 2560 → coreDisabled s g = false → (coreAt s g).withheld = true → (coreAt s g).task = none → ok 11 none (some g) (.returnToService h g) fun u =>
      coreAt u g = Core.idle ∧ ∀ b < 0x180000, Memory.get u.mem (slotBase g + b) = 0) ∧
    (∀ i r port g G R, kget? s.groups g = some G → kget? s.regions r = some R → kget? s.sendqs i = none → R.state = 1 → R.owner = G.tenant → 128 ≤ R.extent →
      R.extent ≤ 16384 → (∀ p ∈ s.sendqs, p.2.region ≠ r) → portExists s port = true → ok 13 none (some i) (.groupSendQueueBind h i r port g) fun u =>
        u = { s with sendqs := kset s.sendqs i { region := r, port := port, group := g, next := 0, run := none } }) ∧
    (∀ v : ViewRecord, v.members.length ≤ 16 → (∀ G, kget? s.groups v.group = some G → G.number < v.number) → v.ct.length = 1568 → v.key.length = 72 →
      if (Config.keyUnwrap v.ct v.key).1 = 0xA6A6A6A6A6A6A6A6
      then ok 13 (some v.tenant) (some v.group) (.viewInstall h v) fun u => kget? u.groups v.group =
        some { number := v.number, members := v.members, roster := false, tenant := v.tenant, key := some (Config.keyUnwrap v.ct v.key).2 }
      else refused 13 (.viewInstall h v)) ∧
    (∀ v : RosterRecord, (∀ k, v.manager = some k → ok 13 none none (.rosterInstall h v) fun u => u = { s with fabricKey := some k }) ∧
      (v.manager = none → s.fabricKey = none → refused 13 (.rosterInstall h v)) ∧
      (∀ k, v.manager = none → s.fabricKey = some k → (∀ G, kget? s.groups v.group = some G → G.number < v.number) →
        if Config.lmsVerifies k (rosterBytes v) v.signature = true
        then ok 13 (some v.tenant) (some v.group) (.rosterInstall h v) fun u => kget? u.groups v.group =
          some { number := v.number, members := v.members, roster := true, tenant := v.tenant, key := none }
        else refused 13 (.rosterInstall h v)))

/-- R424, R434 to R436, R439 to R441, R465 to R467, R472, R481, R482: images, translations, revocation lists, link domains, keys, attestation
reports and migration rounds. What a device's keys give is left open: each such request is granted or refused by it. The model's choices: a
key goes into the lowest free slot (log entry 17), a landing is bound as one `br` word (entry 36), a report is the reply's data in words (entry
38), a round ends the round before it, the first reporting none (entry 48), a revocation list is verified in the order of `listBytes` (entry 50),
a translation needs verified firmware (entry 91), and a request whose header names another tenant or argument is refused (entry 98). -/
def Obligations.ImagesAndKeysAreManaged : Prop :=
  ∀ (s : State) (h : ReqHdr) (dom i k t : Nat) (N : Tenant) (D : Domain) (im : Image), (kget? s.mgmt h.master).isSome = true → inService s = true → s.owner = some h.master →
    (∀ p ∈ s.reqWait, p = (h.master, h.seq)) →
    let sent := fun (t : State) (n : Nat) (data : List Word) =>
      { t with reqWait := kdel t.reqWait h.master, outbox := t.outbox ++ [.reply h.master (leBytes 16 (headerBits { h with status := n })) data] }
    let agrees := fun (tn an : Option Nat) => (∀ x, tn = some x → h.tenant = x) ∧ ∀ x, an = some x → h.arg = BitVec.ofNat 64 x
    let ok := fun (kind : Nat) (tn an : Option Nat) (i : Instr) (data : List Word) (P : State → Prop) => h.kind = kind →
      (agrees tn an → ∃ u, exec i s = .next (sent u 0 data) ∧ P u) ∧ (¬ agrees tn an → exec i s = .next (sent s 1 []))
    let refused := fun (kind : Nat) (i : Instr) => h.kind = kind → exec i s = .next (sent s 1 [])
    let landing := fun (u : State) (j : Nat) => peekRaw u (0xFD00000000 + dom * 0x800 + 4 * j) 4
    (∀ base img, (kget? s.images (bits (headerOf img) 0 64) = none → storeFits s base (bits (headerOf img) 192 32) = true →
      (if tagVerifies img = true ∧ BitVec.ofNat 32 (bits (headerOf img) 64 32) ∉ s.revVers
        then ok 7 none (some base) (.imageInstall h base img) [] fun u => kget? u.images (bits (headerOf img) 0 64) = some { header := headerOf img, base := base, amap := bodyMap img }
        else refused 7 (.imageInstall h base img)))) ∧
    (∀ o : PraowFile, s.service ≠ .halted → s.dieOk.length = 4 → exec (.translation o) s = .next (match translate s o with
      | .image b => { s with sealed := s.sealed ++ [.image b], transCount := s.transCount + 1 }
      | .refused c p => { s with sealed := s.sealed ++ [.refused c p] })) ∧
    (∀ l : RevocationList, s.revSeq < l.seq → if Config.lmsVerifies Config.thrummanKey (listBytes l) l.signature = true
      then ok 8 none none (.revocationListInstall h l) [] fun u => u.revSeq = l.seq ∧ u.revVers = l.vers ∧
        ∀ n m, kget? s.methods n = some m → revokedBy s l.vers (bits m 192 64) = true → kget? u.methods n = some 0
      else refused 8 (.revocationListInstall h l)) ∧
    (∀ d : BitVec 1024, bits d 0 10 = dom → kget? s.domains dom = none → bits d 54 4 ≤ 9 → bits d 47 7 % 8 = 0 → 8 ≤ bits d 47 7 → bits d 47 7 ≤ 120 →
      bits d 41 6 ≤ 32 → bits d 37 4 ≤ 8 → Memory.wf s.mem = true → ok 9 none none (.linkDomainCreate h d) [] fun u =>
        kget? u.domains dom = some { record := d, bound := [] } ∧ ∀ j < 2 ^ bits d 54 4, landing u j = 0x80078FE1) ∧
    (kget? s.domains dom = some D → (∀ p ∈ s.tasks, p.2.state ≤ 3 → taskInDomain s p.2 dom = false) → Memory.wf s.mem = true → dom < 1024 → bits D.record 54 4 ≤ 9 →
      ok 9 none (some dom) (.linkDomainDelete h dom) [] fun u => kget? u.domains dom = none ∧ ∀ j < 2 ^ bits D.record 54 4, landing u j = 0x80078FE1) ∧
    (∀ id : Word, kget? s.domains dom = some D → kget? s.images id.toNat = some im → bindRefused D im id dom i k = false → dom < 1024 → Memory.wf s.mem = true →
      bits D.record 54 4 ≤ 9 → ok 9 none (some dom) (.landingBind h dom i id k) [] fun u => kget? u.domains dom = some { D with bound := kset D.bound i id } ∧
        landing u i = brWord (0xFD00000000 + dom * 0x800 + 4 * i) (exportAt s im k) % 2 ^ 32) ∧
    (∀ n ct wrapped, freeKeySlot s = some n → ct.length = 1568 → wrapped.length = 72 → (kget? s.tenants h.tenant).isSome = true →
      let K : KeySlot := { gen := keyGen s n, held := some (h.tenant, Config.deviceWrap (Config.keyUnwrap ct wrapped).2) }
      if (Config.keyUnwrap ct wrapped).1 = 0xA6A6A6A6A6A6A6A6
      then ok 10 none none (.keyInstall h ct wrapped) [keyHandle h.tenant (keyGen s n) n] fun u => u = { s with keys := kset s.keys n K }
      else refused 10 (.keyInstall h ct wrapped)) ∧
    (∀ w : Word, keyHeld s (bits w 58 6) w = true → keyInUse s w = false → ok 10 none (some w.toNat) (.keyDestroy h w) [] fun u =>
      u = { s with keys := kset s.keys (bits w 0 12) { gen := keyGen s (bits w 0 12) + 1, held := none } } ∧ keyHeld u (bits w 58 6) w = false) ∧
    (∀ nonce id, kget? s.images id.toNat = some im → if s.attestUsed < Config.hssCapacity
      then h.kind = 15 → ∃ b, exec (.attestationReport h nonce 0 id) s = .next (sent { s with
          attestUsed := s.attestUsed + 1 } 0 (byteWords (b ++ Config.hssSign s.attestUsed b))) ∧ b.length = 224 ∧ leNat ((b.drop 4).take 64) = nonce.toNat
      else refused 15 (.attestationReport h nonce 0 id)) ∧
    (kget? s.tenants t = some N → N.migr = none → ok 14 (some t) none (.migrationRound h t) [] fun u => ∃ M, kget? u.tenants t = some M ∧
      M.migr = some { round := 1, log := [], final := false, ran := [] }) ∧
    (∀ m, kget? s.tenants t = some N → N.migr = some m → m.final = false → let dirty := dirtySet s t N m
      (ok 14 (some t) none (.migrationRound h t) (dirty.map fun g => BitVec.ofNat 64 g) fun u => ∃ M, kget? u.tenants t = some M ∧
        M.migr = some { round := m.round + 1, log := [], final := false, ran := [] }) ∧
      ok 14 (some t) none (.migrationFinalRound h t) (dirty.map fun g => BitVec.ofNat 64 g) fun u => ∃ M q, kget? u.tenants t = some M ∧ M.migr = some q ∧
        q.round = m.round + 1 ∧ q.final = true ∧ q.log = [] ∧ draining u t = true)

/-- R209, R414, R462, R473, R502 to R508: verified firmware brings the package up; clusters are tested; reduced and then full service begin;
limits of power and heat, refresh and retries change timing alone; a thermal trip resets the package. What survives a reset and a trip (log
entry 44), the trip's event with tenant 0xFF (entry 32), the switch of clocks (entry 47), and the training that ends with the start of a
service or a die's self-test, and what waits for it (entry 91), are the model's. -/
def Obligations.ServiceComesUp : Prop :=
  ∀ (s : State) (fw : List Bool) (n cl : Nat),
    let afterReset := fun (t : State) => t = { State.reset with
      service := t.service, dieOk := t.dieOk, order := s.order, disabled := s.disabled, mgmt := s.mgmt, eventSeq := t.eventSeq, attestUsed := s.attestUsed, outbox := t.outbox, sched := s.sched }
    (fw.length = 4 → ∃ t, exec (.packageReset fw) s = .next t ∧ afterReset t ∧ t.outbox = s.outbox ∧ t.eventSeq = s.eventSeq ∧
      t.service = if fw.all (fun b => b) then .bringUp else .halted) ∧
    (s.service = .bringUp → s.dieOk.length = 4 → (∀ p < 16, p ∈ s.trained) → exec .reducedServiceStart s = .next
      { s with service := .reduced, dieLinks := List.range 4, stacksBasic := List.range 16 }) ∧
    (s.service = .bringUp → (∃ p < 16, p ∉ s.trained) → ∃ r, exec .reducedServiceStart s = .refused r) ∧
    (∀ pass, s.service = .bringUp ∨ s.service = .reduced → s.dieOk.length = 4 → (∀ p < 16, p ∈ s.trained) → cl < 160 → s.disabled.contains cl = false → kget? s.tested cl = none →
      ∃ t, exec (.clusterSelfTestResult cl pass) s = .next t ∧ kget? t.tested cl = some pass ∧ (pass = true → t.retired = s.retired) ∧
        (pass = false → cl ∈ t.retired) ∧ (∀ n < 4, n ∈ t.dieLinks ∧ 4 * (cl / 40) + n ∈ t.stacksBasic) ∧ t.tasks = s.tasks) ∧
    (∀ pass, s.service = .bringUp → (∃ p < 16, p ∉ s.trained) → ∃ r, exec (.clusterSelfTestResult cl pass) s = .refused r) ∧
    (s.dieOk.length ≠ 4 → ∃ r, exec (.linkTraining n) s = .refused r) ∧
    (s.service = .reduced → allTested s = true → s.switching = false → ∃ t, exec .fullServiceSwitch s = .next t ∧ t.switching = true ∧ t.service = .reduced ∧
      t.stacksFine = List.range 16 ∧ ∀ p ∈ t.tasks, gangRuns p.2 = true → p.2.quiesce ≠ .no ∨ ∃ c, p.2.retry = some (.service, c)) ∧
    (s.service = .reduced → allTested s = true → s.switching = true → (∀ p ∈ s.tasks, gangRuns p.2 = false) →
      exec .fullServiceSwitch s = .next { s with service := .full, switching := false }) ∧
    (n < 4 → n ∉ s.throttled → exec (.thermalThrottle n) s = .next { s with throttled := sinsert s.throttled n }) ∧
    (n ∈ s.throttled → exec (.throttlingEnd n) s = .next { s with throttled := sdel s.throttled n }) ∧
    (n < 4 → ∃ t, exec (.thermalTrip n) s = .next t ∧ afterReset t ∧ t.service = .bringUp ∧
      ∀ m E, s.owner = some m → kget? s.mgmt m = some E → t.eventSeq = s.eventSeq + 1 ∧
        t.outbox = s.outbox ++ if Config.delivered s.eventSeq = true then [.event 6 E 0xFF s.clk [BitVec.ofNat 64 n, 0]] else []) ∧
    (n ≤ s.powerCap → exec (.powerWindowExpiry n) s = .next { s with powerLast := n }) ∧
    exec (.refresh n) s = .next { s with clk := s.clk + BitVec.ofNat 64 n } ∧
    exec (.linkLayerRetry n) s = .next { s with clk := s.clk + BitVec.ofNat 64 n } ∧
    (n < 16 → exec (.patrolScrub n) s = .next s) ∧
    (n < 16 → s.service ≠ .halted → s.dieOk.length = 4 → ∃ t, exec (.linkTraining n) s = .next t ∧ n ∈ t.trained ∧ n ∉ t.splitPending ∧ (n ∈ s.splitPending → n ∈ t.split) ∧
      (n ∉ s.splitPending → t.split = s.split) ∧ t.mem = s.mem)

/-- R228 to R230: what the float, compare, logic and select words of the vector engine write in each lane, and the flags of all lanes. -/
def Obligations.VectorFloatLanes : Prop :=
  ∀ (d a b : BitVec 6) (t : BitVec 3) (m : BitVec 2) (A B C : Nat), A < 2 ^ 4096 → B < 2 ^ 4096 → C < 2 ^ 4096 →
    let F := fmtOf t
    let w := laneBits t
    let L := laneCount t
    let v := fun (V j : Nat) => F.decode (lane w V j)
    let all := fun (f : Nat → Nat × Flags) => ((List.range L).map fun j => (f j).2).foldl (fun g h => g ||| h) 0
    let is := fun (i : Instr) (f : Nat → Nat × Flags) => ∃ R, vecOut i m [A, B, C] = { writes := [(d, false, R)], flags := all f } ∧ R < 2 ^ 4096 ∧
      ∀ j < L, lane w R j = (f j).1 % 2 ^ w
    let cond := fun (r : Bool × Flags) => ((if r.1 then 2 ^ w - 1 else 0, r.2) : Nat × Flags)
    let logic := fun (i : Instr) (g : Bool → Bool → Bool → Bool) => ∃ R, vecOut i m [A, B, C] = { writes := [(d, false, R)], flags := 0 } ∧ R < 2 ^ 4096 ∧
      ∀ j < 4096, R.testBit j = g (A.testBit j) (B.testBit j) (C.testBit j)
    (3 ≤ t.toNat →
      is (.vfadd d a b t) (fun j => F.add m (v A j) (v B j)) ∧
      is (.vfsub d a b t) (fun j => F.add m (v A j) (v B j).neg) ∧
      is (.vfmul d a b t) (fun j => F.mul m (v A j) (v B j)) ∧
      is (.vfdiv d a b t) (fun j => F.div m (v A j) (v B j)) ∧
      is (.vfmac d a b t) (fun j => F.mac m (v C j) (v A j) (v B j)) ∧
      is (.vfmin d a b t) (fun j => F.minmax false (lane w A j) (lane w B j)) ∧
      is (.vfmax d a b t) (fun j => F.minmax true (lane w A j) (lane w B j)) ∧
      is (.vfabs d a t) (fun j => (lane w A j % 2 ^ (w - 1), 0)) ∧
      is (.vfneg d a t) (fun j => ((lane w A j + 2 ^ (w - 1)) % 2 ^ w, 0)) ∧
      is (.vfsqrt d a t) (fun j => F.sqrt m (v A j)) ∧
      is (.vfscl d a b t) (fun j => F.mac m (v C j) (v A j) (.fin false 1 ((lane 8 B (j / 32) : Int) - 127))) ∧
      is (.vceq d a b t) (fun j => cond (F.cmpEq (lane w A j) (lane w B j))) ∧
      is (.vclt d a b t) (fun j => cond (F.cmpLt false (lane w A j) (lane w B j))) ∧
      is (.vcle d a b t) (fun j => cond (F.cmpLt true (lane w A j) (lane w B j)))) ∧
    (t.toNat < 3 →
      is (.vceq d a b t) (fun j => cond (decide (lane w A j = lane w B j), 0)) ∧
      is (.vclt d a b t) (fun j => cond (decide (sval w (lane w A j) < sval w (lane w B j)), 0)) ∧
      is (.vcle d a b t) (fun j => cond (decide (sval w (lane w A j) ≤ sval w (lane w B j)), 0)) ∧
      is (.vcltn d a b t) (fun j => cond (decide (lane w A j < lane w B j), 0))) ∧
    logic (.vand d a b) (fun x y _ => x && y) ∧ logic (.vor d a b) (fun x y _ => x || y) ∧ logic (.vxor d a b) (fun x y _ => x ^^ y) ∧
    logic (.vandn d a b) (fun x y _ => x && !y) ∧ logic (.vsel d a b) (fun x y z => if z then x else y)

/-- R67 to R71, R227, R234, R235, R239 to R241: sums of products, widened pairs, what a conversion makes of one lane, conversions that keep or
fill the destination, four-bit elements, reductions into lane 0 with integers and with floats, and rearrangements, lane by lane. -/
def Obligations.VectorOtherLanes : Prop :=
  ∀ (d a b : BitVec 6) (t s : BitVec 3) (n : BitVec 1) (p : BitVec 2) (m : BitVec 2) (P : BitVec 3) (A B C : Nat), A < 2 ^ 4096 → B < 2 ^ 4096 → C < 2 ^ 4096 →
    let w := laneBits t
    let L := laneCount t
    let S := fun (V j : Nat) => sval w (lane w V j)
    let is := fun (i : Instr) (v : List Nat) (u k : Nat) (f : Nat → Nat) => ∃ R, vecOut i m v = { writes := [(d, false, R)], flags := 0 } ∧
      R < 2 ^ 4096 ∧ ∀ j < k, lane u R j = f j
    let wide := fun (i : Instr) (f : Int → Int → Int) => ∃ lo hi, vecOut i m [A, B] = { writes := [(d, false, lo), (d, true, hi)], flags := 0 } ∧
      lo < 2 ^ 4096 ∧ hi < 2 ^ 4096 ∧ ∀ j < L, sval (2 * w) (lane (2 * w) (if j % 2 = 0 then lo else hi) (j / 2)) = f (S A j) (S B j)
    let F := fmtOf t
    let isF := fun (i : Instr) (u k : Nat) (f : Nat → Nat) (fl : Flags) => ∃ R, vecOut i m [A, B] = { writes := [(d, false, R)], flags := fl } ∧
      R < 2 ^ 4096 ∧ ∀ j < k, lane u R j = f j
    let clamped := fun (lo hi v : Int) (u : Nat) => (((max lo (min hi v)) % 2 ^ u).toNat, if v < lo ∨ hi < v then fSat else (0 : Flags))
    let ints := fun (u : Nat) (nat : Bool) (v : FVal) =>
      let r := if nat then floatToInt m 0 (2 ^ u - 1) v else floatToInt m (-(2 ^ (u - 1))) (2 ^ (u - 1) - 1) v
      (((r.1 % 2 ^ u).toNat, r.2) : Nat × Flags)
    let floats := fun (G : FFmt) (v : FVal) => match v with
      | .nan q => ((G.cnan, if q then fNv else 0) : Nat × Flags)
      | .inf q => G.infinity q
      | .fin q k e => G.round m q k e
    let any := fun (k : Nat) (f : Nat → Flags) => ((List.range k).map f).foldl (fun g h => g ||| h) 0
    let zeroAbove := fun (k : Nat) (f : Nat) => fun (j : Nat) => if j = 0 then f % 2 ^ k else 0
    (t.toNat < 2 → is (.vdot d a b t) [A, B, C] 32 128 (fun j =>
        ((sval 32 (lane 32 C j) + ((List.range (32 / w)).map fun k => S A (32 / w * j + k) * S B (32 / w * j + k)).sum) % 2 ^ 32).toNat) ∧
      wide (.vwadd d a b t) (fun x y => x + y) ∧ wide (.vwmul d a b t) (fun x y => x * y)) ∧
    (t.toNat < 3 → is (.vradd d a t) [A, B] 32 128 (zeroAbove 32 ((sval 32 (lane 32 B 0) + ((List.range L).map (S A)).sum) % 2 ^ 32).toNat) ∧
      is (.vrmax d a t) [A, B] w L (zeroAbove w ((((List.range L).map (S A)).foldl max (S B 0)) % 2 ^ w).toNat) ∧
      is (.vrmin d a t) [A, B] w L (zeroAbove w ((((List.range L).map (S A)).foldl min (S B 0)) % 2 ^ w).toNat)) ∧
    (let ws := laneBits s
     let K := 4096 / max ws w
     let src := if ws < w then p.toNat * K else 0
     let dst := if w < ws then p.toNat * K else 0
     p.toNat * min ws w < max ws w → ∀ N : Bool, ∃ R fl, vecOut (if N then .vcvtn d a n p s t else .vcvt d a n p s t) m [A, B] = { writes := [(d, false, R)], flags := fl } ∧
       R < 2 ^ 4096 ∧
       (∀ j < K, lane w R (dst + j) = (convertLane m s (n == 1) t N (lane ws A (src + j))).1 % 2 ^ w) ∧
       (w < ws → ∀ j < L, (j < dst ∨ dst + K ≤ j) → lane w R j = lane w B j) ∧
       fl = ((List.range K).map fun j => (convertLane m s (n == 1) t N (lane ws A (src + j))).2).foldl (fun g h => g ||| h) 0) ∧
    (∀ (X : Nat) (N : Bool), let ws := laneBits s
       X < 2 ^ ws → let v : Int := if n = 1 then (X : Int) else sval ws X
       convertLane m s (n == 1) t N X =
         if s.toNat < 3 ∧ t.toNat < 3 then (if ws < w then ((v % 2 ^ w).toNat, 0) else if N then clamped 0 (2 ^ w - 1) v w
           else clamped (-(2 ^ (w - 1))) (2 ^ (w - 1) - 1) v w)
         else if s.toNat < 3 then F.round m (decide (v < 0)) v.natAbs 0
         else if t.toNat < 3 then ints w N ((fmtOf s).decode X) else floats F ((fmtOf s).decode X)) ∧
    (P.toNat < 2 * laneBytes t →
      let four := fun (j : Nat) => lane 4 A (P.toNat * L + j)
      let up := fun (j : Nat) => if t.toNat < 3 then ((sval 4 (four j) % 2 ^ w).toNat, 0) else F.ofInt m (sval 4 (four j))
      let down := fun (j : Nat) => if t.toNat < 3 then clamped (-8) 7 (sval w (lane w A j)) 4 else ints 4 false (F.decode (lane w A j))
      let quad := fun (j : Nat) => decodeQuad (lane 16 A (P.toNat * L / 4 + j))
      let out := fun (j : Nat) => match (quad (j / 4)).1.getD (j % 4) (.int 0) with
        | .int v => if t.toNat < 3 then ((v % 2 ^ w).toNat, 0) else F.ofInt m v
        | .out e => if t.toNat < 3 then ints w false (f8e4.decode e) else floats F (f8e4.decode e)
      isF (.vcvt4 d a 0 P t) w L (fun j => (up j).1 % 2 ^ w) (any L fun j => (up j).2) ∧
      isF (.vcvt4 d a 1 P t) 4 1024 (fun k => if P.toNat * L ≤ k ∧ k < P.toNat * L + L then (down (k - P.toNat * L)).1 % 16 else lane 4 B k)
        (any L fun j => (down j).2) ∧
      isF (.vunpk4 d a P t) w L (fun j => (out j).1 % 2 ^ w) (any L (fun j => (out j).2) ||| any (L / 4) fun j => (quad j).2)) ∧
    (3 ≤ t.toNat →
      let vs := f32.decode (lane 32 B 0) :: (List.range L).map fun j => F.decode (lane w A j)
      let has := fun (v : FVal) => vs.any (· == v)
      let E := vs.foldl (fun q v => match v with
        | .fin _ _ e => min q e
        | _ => q) (match f32.decode (lane 32 B 0) with
          | .fin _ _ e => e
          | _ => 0)
      let total : Int := (vs.map fun v => match v with
        | .fin q k e => (if q then -1 else 1) * (k * 2 ^ (e - E).toNat : Nat)
        | _ => (0 : Int)).sum
      let sum : Nat × Flags := if vs.any FVal.isNan then (f32.cnan, if vs.any FVal.isSnan then fNv else 0)
        else if has (.inf false) && has (.inf true) then (f32.cnan, fNv) else if has (.inf false) then f32.infinity false else if has (.inf true) then f32.infinity true
        else if total = 0 then (if vs.all (fun v => v.isZero && v.sign) || !(vs.all fun v => v.isZero && !v.sign) && m == 2 then 2 ^ 31 else 0, 0)
        else f32.round m (decide (total < 0)) total.natAbs E
      isF (.vradd d a t) 32 128 (zeroAbove 32 sum.1) sum.2 ∧
      let cs := lane w B 0 :: (List.range L).map fun j => lane w A j
      let below := fun (p q : Nat) => (F.decode p).lt (F.decode q) || (!(F.decode q).lt (F.decode p) && (F.decode p).sign && !(F.decode q).sign)
      let fl := if cs.any fun c => (F.decode c).isSnan then fNv else (0 : Flags)
      let best := fun (i : Instr) (worse : Nat → Nat → Bool) => ∃ c, isF i w L (zeroAbove w c) fl ∧
        if cs.all fun q => (F.decode q).isNan then c = F.cnan
        else c ∈ cs ∧ (F.decode c).isNan = false ∧ ∀ q ∈ cs, (F.decode q).isNan = false → worse c q = false
      best (.vrmax d a t) below ∧ best (.vrmin d a t) (fun c q => below q c)) ∧
    is (.vperm d a b t) [A, B] w L (fun j => if w = 8 then lane 8 A (256 * (j / 256) + lane 8 B j) else lane w A (lane w B j % L)) ∧
    is (.vrot d a b t) [A, B] w L (fun j => lane w A ((j + B % 2 ^ 32) % L)) ∧
    (let r := min (2 ^ (B % 16)) L
     let c := L / r
     ∃ R, vecOut (.vtld d a b t) m [A, B] = { writes := [(d, false, R)], flags := 0 } ∧ R < 2 ^ 4096 ∧
       ∀ i < r, ∀ j < c, lane w R (j * r + i) = lane w A (i * c + j))

/-- R233, R236 to R238: packing, quantisation and pruning put their new bytes at the top of the destination and move what it held down; the
quads, codes, scale bytes and kept lanes that they put there. R49 to R53, R236, R237: the quad that `vpack4` makes of four lanes; a block that `vquant` makes of 32 values: its scale is the least under
which no measured value exceeds the top code, each value divided by it is rounded once, and an outlier of a quad is written at its candidate
position; the elements that a quad decodes to. -/
def Obligations.VectorPacking : Prop :=
  (∀ (d a b : BitVec 6) (e f : BitVec 5) (g x : BitVec 1) (t : BitVec 3) (m : BitVec 2) (A D Bo : Nat), A < 2 ^ 4096 → D < 2 ^ 4096 → Bo < 2 ^ 4096 →
     let w := laneBits t
     let L := laneCount t
     let shifted := fun (k Old R : Nat) (new : Nat → Nat) => R < 2 ^ 4096 ∧ (∀ j < 512 - k, lane 8 R j = lane 8 Old (j + k)) ∧
       ∀ j < k, lane 8 R (512 - k + j) = new j % 256
     let byteOf := fun (u : Nat) (l : List Nat) (j : Nat) => pack u l / 2 ^ (8 * j)
     let q := fun (j : Nat) => packQuad (sval 8 (lane 8 A (4 * j))) (sval 8 (lane 8 A (4 * j + 1))) (sval 8 (lane 8 A (4 * j + 2)))
       (sval 8 (lane 8 A (4 * j + 3))) (lane 8 Bo (4 * j)) (lane 8 Bo (4 * j + 3))
     let fq := ((List.range 128).map fun j => (q j).2).foldl (fun g h => g ||| h) 0
     (∃ R, vecOut (.vpack4 d a b) m [A, Bo, D] = { writes := [(d, false, R)], flags := fq } ∧
       shifted 256 D R (byteOf 16 ((List.range 128).map fun j => (q j).1))) ∧
     (3 ≤ t.toNat → 2 * g.toNat + x.toNat < 3 →
       let tgt := 2 * g.toNat + x.toNat
       let cb := if tgt = 2 then 32 else 16
       let block := fun (k : Nat) => quantBlock m tgt ((List.range 32).map fun j => (fmtOf t).decode (lane w A (32 * k + j)))
       let fl := ((List.range (L / 32)).map fun k => (block k).2.2).foldl (fun g h => g ||| h) 0
       ∃ R Q, vecOut (.vquant g e a x f t) m [A, D, Bo] = { writes := [(e.zeroExtend 6, false, R), (f.zeroExtend 6, false, Q)], flags := fl } ∧
         shifted (L / 32 * cb) D R (byteOf (8 * cb) ((List.range (L / 32)).map fun k => (block k).1)) ∧
         shifted (L / 32) Bo Q (fun k => (block k).2.1)) ∧
     (∀ G, G = 4 ∨ G = 8 →
       let mags := fun (k : Nat) => (List.range G).map fun j => magnitude t (lane w A (G * k + j))
       let kept := fun (k : Nat) => keptOf (G / 2) (mags k)
       (∀ k < L / G, (kept k).length = G / 2 ∧ ∀ i ∈ kept k, ∀ j < G, j ∉ kept k →
         (mags k).getD j 0 < (mags k).getD i 0 ∨ (mags k).getD j 0 = (mags k).getD i 0 ∧ i < j) ∧
       ∃ R Q, vecOut (if G = 4 then .vprune24 e a f t else .vprune48 e a f t) m [A, D, Bo] = { writes := [(e.zeroExtend 6, false, R), (f.zeroExtend 6, false, Q)], flags := 0 } ∧
         shifted 256 D R (byteOf w ((List.range (L / G)).flatMap fun k => (kept k).map fun i => lane w A (G * k + i))) ∧
         shifted (if G = 4 then L / 8 else L / 4) Bo Q (byteOf (if G = 4 then 4 else 16) ((List.range (L / G)).map fun k =>
           pack (if G = 4 then 2 else 3) (kept k))))) ∧
  ((∀ (a : Nat → Int) (b0 b3 : Nat), b0 < 256 → b3 < 256 →
     let c := fun (k : Nat) => ((max (-7) (min 7 (a k))) % 16).toNat
     let sat := fun (k : Nat) => decide (a k < -7 ∨ 7 < a k)
     let drop := decide (a 1 ≠ 0 ∨ a 2 ≠ 0)
     (a 0 = -128 → packQuad (a 0) (a 1) (a 2) (a 3) b0 b3 = (8 + b0 * 16 + c 3 * 4096, if sat 3 || drop then fSat else 0)) ∧
     (a 0 ≠ -128 → a 3 = -128 → packQuad (a 0) (a 1) (a 2) (a 3) b0 b3 = (c 0 + b3 * 16 + 8 * 4096, if sat 0 || drop then fSat else 0)) ∧
     (a 0 ≠ -128 → a 3 ≠ -128 → packQuad (a 0) (a 1) (a 2) (a 3) b0 b3 =
       (c 0 + c 1 * 16 + c 2 * 256 + c 3 * 4096, if sat 0 || sat 1 || sat 2 || sat 3 then fSat else 0))) ∧
   (∀ e0 e1 e2 e3 : Nat, e0 < 16 → e1 < 16 → e2 < 16 → e3 < 16 →
     let q := decodeQuad (e0 + 16 * e1 + 256 * e2 + 4096 * e3)
     let i := fun (e : Nat) => QElem.int (if e = 8 then 0 else if e < 8 then e else (e : Int) - 16)
     q = if e0 = 8 ∧ e3 = 8 then ([.int 0, .int 0, .int 0, .int 0], fFmt) else if e0 = 8 then ([.out (16 * e2 + e1), .int 0, .int 0, i e3], 0)
       else if e3 = 8 then ([i e0, .int 0, .int 0, .out (16 * e2 + e1)], 0) else ([i e0, i e1, i e2, i e3], 0)) ∧
   (∀ (m : BitVec 2) (tgt : Nat) (xs : List FVal), tgt < 3 → xs.length = 32 →
     let x := fun (i : Nat) => xs.getD i (.fin false 0 0)
     let top : Nat := if tgt = 2 then 448 else 7
     let picked := fun (i : Nat) => decide (tgt = 0) && i % 4 == if (x (i / 4 * 4)).abs.lt (x (i / 4 * 4 + 3)).abs then 3 else 0
     let cand := fun (i : Nat) => picked i && (List.range 32).any fun j => !picked j && !(x j).isZero
     ((∃ y ∈ xs, y.isFin = false) → quantBlock m tgt xs = (0, 0, fNv)) ∧
     ((∀ y ∈ xs, y.isFin = true ∧ y.isZero = true) → quantBlock m tgt xs = (0, 0, 0)) ∧
     ((∀ y ∈ xs, y.isFin = true) → (∃ y ∈ xs, y.isZero = false) → (∀ y ∈ xs, (FVal.fin false top 126).lt y.abs = false) →
       ∃ (codes s : Nat) (fl : Flags), quantBlock m tgt xs = (codes, s, fl) ∧
         (∀ i < 32, cand i = false → (FVal.fin false top ((s : Int) - 127)).lt (x i).abs = false) ∧
         (∀ j < s, ∃ i < 32, cand i = false ∧ (FVal.fin false top ((j : Int) - 127)).lt (x i).abs = true) ∧
         let y := fun (i : Nat) => (x i).scale (127 - (s : Int))
         let r := fun (i : Nat) => f8e4.ofVal m (y i)
         let n : Nat → Int × Bool := fun (i : Nat) => match y i with
           | .fin q k e => toInteger m q k e
           | _ => (0, true)
         let out := fun (i : Nat) => cand i && decide (7 < (n i).1.natAbs)
         let code := fun (i : Nat) => ((n i).1 % 16).toNat
         (tgt = 2 → codes < 2 ^ 256 ∧ (∀ i < 32, lane 8 codes i = if (r i).1 = 128 then 0 else (r i).1 % 256) ∧
           fl = ((List.range 32).map fun i => (r i).2).foldl (fun g h => g ||| h) 0) ∧
         (tgt ≠ 2 → codes < 2 ^ 128 ∧ (∀ q < 8,
             ((∀ k < 4, out (4 * q + k) = false) → ∀ k < 4, lane 4 codes (4 * q + k) = code (4 * q + k)) ∧
             ∀ k < 4, out (4 * q + k) = true → lane 4 codes (4 * q + k) = 8 ∧ lane 4 codes (4 * q + 1) = (r (4 * q + k)).1 % 16 ∧
               lane 4 codes (4 * q + 2) = (r (4 * q + k)).1 / 16 % 16 ∧ lane 4 codes (4 * q + (3 - k)) = code (4 * q + (3 - k))) ∧
           fl = ((List.range 32).map fun i => (if (n i).2 then 0 else fNx) ||| if out i then (r i).2 |||
             (if (n (i / 4 * 4 + 1)).1 ≠ 0 ∨ (n (i / 4 * 4 + 2)).1 ≠ 0 then fNx else 0) else 0).foldl (fun g h => g ||| h) 0))))

/-- R14, R33, R122: the frame of every coded word. Whatever a word does when it issues (its effect, a wait or an exception), every byte of memory
reads as before; every other strand and agent keeps all it holds; other cores change at most in their rills; tasks at most gain faults; every table
of the regulator is as before. -/
def Obligations.WordsKeepTheMachine : Prop :=
  ∀ (s t : State) (x : Iss) (i : Instr), (encode i).isSome = true → issuer? s = some x → exec i s = .next t →
    (∀ a, readByte t a = readByte s a) ∧ t.mem = s.mem ∧
    t = { s with accs := t.accs, nextId := t.nextId, reqs := t.reqs, net := t.net, cores := t.cores, tasks := t.tasks, empties := t.empties } ∧
    (∀ g sid, ¬(g = x.g ∧ sid = x.sid) → strandAt? t g sid = strandAt? s g sid) ∧
    (∀ g, g ≠ x.g → coreAt t g = { coreAt s g with rill := (coreAt t g).rill }) ∧
    (∀ k, kget? t.tasks k = (kget? s.tasks k).map fun u => { u with faults := ((kget? t.tasks k).map fun v => v.faults).getD u.faults }) ∧
    (∀ k u, kget? s.tasks k = some u → ∃ v l, kget? t.tasks k = some v ∧ v.faults = u.faults ++ l) ∧
    ((∀ a b, i ≠ .cpStart a b) → (∀ n a b, i ≠ .tfill n a b) → t.empties = s.empties) ∧
    (let c := coreAt s x.g
     let d := coreAt t x.g
     d.task = c.task ∧ d.member = c.member ∧ d.withheld = c.withheld ∧ d.rot = c.rot ∧ d.startQ = c.startQ ∧ d.arrivals = c.arrivals ∧ d.spilled = c.spilled ∧
     d.refilled = c.refilled ∧ d.stolen = c.stolen ∧ d.steal = c.steal ∧ d.fwds = c.fwds ∧ d.vrun = c.vrun ∧ d.chans = c.chans ∧ d.chanFlight = c.chanFlight ∧
     d.vswapStarted = c.vswapStarted ∧ d.vswapSent = c.vswapSent ∧ d.vswapIn = c.vswapIn ∧ d.tiles = c.tiles ∧ d.streamBufs = c.streamBufs ∧
     d.rr = c.rr ∧ d.landed = c.landed)

/-- R33, R38, R39, R41, R42, R92: the frame of every coded word in its own strand: the general registers that it does not name as destination, vector and
distribution registers, pointers, windows, predicates, flags and the rounding mode keep their values but for the words that the rules say write them. -/
def Obligations.WordsKeepOtherRegisters : Prop :=
  ∀ (s t : State) (x : Iss) (i : Instr) (u : Strand), (encode i).isSome = true → issuer? s = some x → exec i s = .next t → strandAt? t x.g x.sid = some u →
    (∀ q : RCode, q.toNat < 120 ∨ q = 123 → mayWrite x.t i q = false → u.gen q = x.t.gen q) ∧
    (∀ n, (∀ v ∈ (usesOf i).vd, v.toNat ≠ n) → u.vreg n = x.t.vreg n) ∧
    ((∀ v r n l, i ≠ .vmovv v r n l) → u.vregs = x.t.vregs) ∧
    u.dregs = x.t.dregs ∧ u.wins = x.t.wins ∧ u.tid = x.t.tid ∧ u.moves = x.t.moves ∧
    (u.roaming, u.carry, u.shapeW, u.shapeV, u.shapeD, u.gRun, u.vRun, u.dRun) =
      (x.t.roaming, x.t.carry, x.t.shapeW, x.t.shapeV, x.t.shapeD, x.t.gRun, x.t.vRun, x.t.dRun) ∧
    (mayPredicate i = false → u.pred = x.t.pred) ∧
    ((∀ a, i ≠ .mts a 4) → u.flags &&& x.t.flags = x.t.flags) ∧
    (mayFlag i = false → u.flags = x.t.flags) ∧
    ((∀ a, i ≠ .mts a 5) → u.rnd = x.t.rnd) ∧
    (∀ n, n ∉ xNums i → (∀ p r, i = .vmovx p r → p.toNat ≠ n) → kget u.xptr n 0 = kget x.t.xptr n 0) ∧
    ([39, 40].contains (majorOf i) = false → u.tagc = x.t.tagc) ∧
    ((∀ k, i ≠ .enter k) → (∀ k, i ≠ .leave k) → u.frames = x.t.frames)

/-- R76, R81, R87 to R90, R112, R201, R202, R502: a turn goes to the first eligible strand of the scan; a turn of an agent whose stops and waits are past and for
which no pending entry falls due consumes its annulled words, reads the word at its program counter, and executes the instruction that it decodes to, with the fields
that a `rep` steps; a word that does not decode, or that its hint may not govern, takes the illegal-instruction fault. A listed event is executed; a halted package offers
no step but a reset. That the moves stand listed in `State.sched`, and that each is played in its turn, is the model's choice (log entry 1). -/
def Obligations.StepRunsTheDecodedWord : Prop :=
  ∀ (s : State) (r : List Move),
    (s.service = .halted → (∀ l, s.sched = .event (.packageReset l) :: r → step s = exec (.packageReset l) { s with sched := r }) ∧
      ((∀ l q, s.sched ≠ .event (.packageReset l) :: q) → step s = .fault .packageHalted)) ∧
    (∀ i, s.service ≠ .halted → s.sched = .event i :: r → step s = exec i { s with sched := r }) ∧
    (∀ a : Agent, a.slot < 64 →
      let at_ := settleCore { s with sched := r } a.gcn
      let turn := fun (p : Nat × Strand) => p.1 = a.slot ∨ eligible at_ a.gcn (issueClk at_ a) p = true
      ∀ l p m, scanOrder (coreAt at_ a.gcn) = l ++ p :: m → turn p → (∀ q ∈ l, ¬ turn q) → (turnFor { s with sched := r } a).cur = { a with slot := p.1 }) ∧
    (∀ (a : Agent) (x : Iss), s.service ≠ .halted → s.sched = .issue a :: r →
      let now := turnFor { s with sched := r } a
      let b := now.cur
      let u := countWord x.t
      let s1 := updStrand now b.gcn b.slot countWord
      let x1 : Iss := { g := b.gcn, sid := b.slot, c := coreAt s1 b.gcn, t := u }
      let w := readVal now u.pc.toNat 4
      let stops := step s = .next (endStop (illegal s1 x1))
      issuer? now = some x → issueStopped now x = false → lockStops now x = false → (b.slot ≠ 64 → ∀ st, x.c.stage = some st → st.due = false) →
      stillWaits now x = false → (∀ c ∈ accsOf now b.gcn b.slot, ¬(c.kind = .stf ∧ c.parked = true)) → (∀ p ∈ u.pending, p.remaining ≠ 0) →
      u.pc = (if x.t.counted then x.t.pc else x.t.pc + 4 * BitVec.ofNat 48 x.t.annul) ∧
      ((∀ p rl n c m, u.hint ≠ .rep p rl n c m) →
        (∀ i, decodeWord w = .ok i → hintOk u.hint i = true → step s = endTurn (exec i s1)) ∧
        (∀ i, decodeWord w = .ok i → hintOk u.hint i = false → stops) ∧
        (∀ e, decodeWord w = .error e → stops)) ∧
      (∀ p rl n c m i, u.hint = .rep p rl n c m → u.gen c ≠ 0 → decodeWord w = .ok i → if hintOk u.hint i then
        (∀ j, stepWord i w m ((n : Int) - (u.gen c).toNat) = some j → if writesReg j c then stops else step s = endTurn (exec j s1)) ∧
        (stepWord i w m ((n : Int) - (u.gen c).toNat) = none → stops)
        else stops))

/-- R43, R81 to R83: each word that an agent consumes counts for every pending entry; the entry that falls due writes its destination and merges its flags before the
word reads its registers; one whose value has not arrived stalls the strand at that word; a fault found after issue is raised then. -/
def Obligations.WindowsClose : Prop :=
  ∀ (s : State) (r : List Move) (a : Agent) (x : Iss) (p : Pending), s.service ≠ .halted → s.sched = .issue a :: r →
    let now := turnFor { s with sched := r } a
    let b := now.cur
    let u := countWord x.t
    let s1 := updStrand now b.gcn b.slot countWord
    let rest := u.pending.filter fun q => q.id != p.id
    issuer? now = some x → issueStopped now x = false → lockStops now x = false → (b.slot ≠ 64 → ∀ st, x.c.stage = some st → st.due = false) →
    stillWaits now x = false → (∀ c ∈ accsOf now b.gcn b.slot, ¬(c.kind = .stf ∧ c.parked = true)) → x.t.hint = .none →
    u.pending.filter (fun q => q.remaining == 0) = [p] →
    (x.t.counted = false → u.pending = x.t.pending.map fun q => { q with remaining := q.remaining - 1 - x.t.annul }) ∧
    (p.arrived = false → step s = .next (endStop (updStrand s1 b.gcn b.slot fun t => { t with wait := some .window }))) ∧
    (∀ f, p.arrived = true → (∀ n, p.dst ≠ .vec n) → p.dst ≠ .gen 122 → p.fault = some f → ∃ t l, step s = .next t ∧
      strandAt? t b.gcn b.slot = some { u with pending := rest, stopped := true, lastIssue := some now.clk, yieldSet := l } ∧
      ∀ k T, x.c.task = some k → kget? now.tasks k = some T → kget? t.tasks k = some { T with faults := T.faults ++ [{ f with time := now.clk }] }) ∧
    (p.arrived = true → p.fault = none →
      let runs := fun (f : Strand → Strand) => ∀ i, decodeWord (readVal now u.pc.toNat 4) = .ok i →
        step s = endTurn (exec i (updStrand now b.gcn b.slot fun _ => f { u with pending := rest, flags := u.flags ||| p.flags }))
      (∀ d v, p.dst = .gen d → d ≠ 122 → p.value = some (.word v) → runs fun t => t.setGen d v) ∧
      (∀ d lo hi, p.dst = .pair d → p.value = some (.pair lo hi) → runs fun t => (t.setGen d lo).setGen (if d = 120 then 120 else d + 1) hi) ∧
      (∀ n V, p.dst = .vec n → vecDone s1 b.gcn b.slot = true → p.value = some (.vec V) → runs fun t => { t with vregs := kset t.vregs n V }) ∧
      (∀ n V, p.dst = .dist n → p.value = some (.dist V) → runs fun t => { t with dregs := kset t.dregs n V }))

/-- R73, R74, R77, R79: encoding and decoding agree: every coded instruction, with every value of its fields, decodes from its own word; and a word that decodes is
the encoding of what it decodes to, so that no reserved bit is dropped and no word has two meanings. -/
def Obligations.EncodingAndDecodingAgree : Prop :=
  (∀ (i : Instr) (w : Nat), encode i = some w → w < 2 ^ 32 ∧ decodeWord w = .ok i ∧ decodeTableWord 32 w = some i) ∧
  (∀ (i : Instr) (w : Nat), w < 2 ^ 32 → decodeWord w = .ok i → encode i = some w)

/-- The model's invariant of memory (log entry 3): every step of the machine keeps it a list of rising addresses without a zero byte, so that equal memories are equal data. -/
def Obligations.MemoryStaysCanonical : Prop :=
  ∀ (s t : State), Memory.wf s.mem = true → step s = .next t → Memory.wf t.mem = true

/-- R60: a finite result that does not overflow is the value that the mode names, among all that the format represents; at a tie it is even. R61:
a result overflows when its magnitude, rounded as if the exponent range were unbounded, exceeds the largest finite value, and what replaces it
follows the mode and the format; an exact infinity is one, or in f8e4 ±448. R62: `nx` says that the result is inexact, `uf` that it is and lies, so
rounded, below the smallest normal. -/
def Obligations.RoundingIsCorrect : Prop :=
  ∀ (F : FFmt) (mode : BitVec 2) (neg : Bool) (m : Nat) (e : Int), F ∈ [f8e4, f8e5, f16, b16, f32] → 0 < m →
    let r := F.round mode neg m e
    let K : Int := e.natAbs + 256
    let scaled : Nat → Int → Int := fun k f => ((k * 2 ^ (f + K).toNat : Nat) : Int)
    let mag : Nat → Int := fun y => match F.decode y with
      | .fin _ k f => scaled k f
      | _ => (0 : Int)
    let q : Int := scaled m e
    let v : Int := mag r.1
    let dist := fun (y : Int) => (y - q).natAbs
    let toZero := v ≤ q ∧ ∀ y ≤ F.maxFin, mag y ≤ q → mag y ≤ v
    let away := q ≤ v ∧ ∀ y ≤ F.maxFin, q ≤ mag y → v ≤ mag y
    let unit := scaled 1 (m.log2 + e - F.mb)
    let below := q / unit
    let up := match mode.toNat with
      | 0 => unit < 2 * (q - below * unit) ∨ unit = 2 * (q - below * unit) ∧ below % 2 = 1
      | 1 => False
      | 2 => neg = true ∧ below * unit < q
      | _ => neg = false ∧ below * unit < q
    let sign := if neg then F.signBit else 0
    ∃ u : Int, (up → u = (below + 1) * unit) ∧ (¬ up → u = below * unit) ∧
    (u ≤ mag F.maxFin → (∃ k f, F.decode r.1 = .fin neg k f) ∧
      (v = q → r.2 = 0) ∧ (v ≠ q → r.2 = fNx ||| (if u < scaled 1 (1 - F.bias) then fUf else 0)) ∧
      (mode = 0 → ∀ y ≤ F.maxFin, dist v ≤ dist (mag y) ∧ (dist v = dist (mag y) → mag y ≠ v → r.1 % 2 = 0)) ∧
      (mode = 1 → toZero) ∧ (mode = 2 → if neg then away else toZero) ∧ (mode = 3 → if neg then toZero else away)) ∧
    (mag F.maxFin < u →
      (F = f8e4 → r = (if neg then 0xFE else 0x7E, fOf ||| fSat ||| fNx)) ∧
      (F ≠ f8e4 → r.2 = fOf ||| fNx ∧
        ((mode = 0 ∨ mode = 2 ∧ neg = true ∨ mode = 3 ∧ neg = false) → F.decode r.1 = .inf neg) ∧
        ((mode = 1 ∨ mode = 2 ∧ neg = false ∨ mode = 3 ∧ neg = true) → r.1 = sign + F.maxFin))) ∧
    F.infinity neg = (if F = f8e4 then (sign + F.maxFin, fOf ||| fSat) else (sign + F.maxFin + 1, 0)) ∧
    (F ≠ f8e4 → F.decode (F.infinity neg).1 = .inf neg)

/-- R73 to R79: words of the spec's own listings, one or more for each form, and the instruction that each stands for; and words that stand for none. -/
def Obligations.WordsDecodeAsListed : Prop :=
  let good := fun (p : Nat × Instr) => decodeWord p.1 = .ok p.2 ∧ encode p.2 = some p.1
  (∀ p ∈ [(0x04489150, Instr.adds 9 9 10), (0x08184187, .sext 3 4 12), (0x0C5040A2, .mul 10 4 5 1), (0x0C8040A1, .div 16 4 5 0), (0x10183FFF, .addi 3 3 0xFFF),
      (0x20305083, .srai 6 5 3), (0x2C20521D, .cmp 4 5 2 3 2 1)], good p) ∧
  (∀ p ∈ [(0x3017D32B, Instr.cmpi 2 0x7D 3 5 1 1), (0x34403092, .sel 8 3 4 2), (0x38A152C4, .fmac 20 21 22),
      (0x44300025, .bp 1 37), (0x80003221, .trap 3 17), (0x80002264, .mts 2 19)], good p) ∧
  (∀ p ∈ [(0x503823C2, Instr.ld 7 2 3 3 2), (0x5C281241, .ldt 5 1 2 1),
      (0x643020E8, .cas 6 2 7 4), (0x680850C1, .tfill 1 5 6), (0x6D105062, .chkW 2 5 3), (0x70182005, .barArrive 3 2), (0x78005860, .mxIssueMeta 5 3)], good p) ∧
  (∀ p ∈ [(0x86086202, Instr.vadd 32 33 34 2), (0x88882925, .vfmac 8 32 41 5), (0x8C414607, .vceq 4 5 6 7), (0x90404F05, .vcvt 4 1 0 1 7 5), (0x94180007, .vradd 1 32 7),
      (0x98382217, .vmovg 7 1 2 7), (0x9D940082, .dmul 3 1 2 2)], good p) ∧
  (∀ p ∈ [(0xA2301C03, Instr.dtag 4 3 7 0), (0xA40028C4, .dmomG 0 10 3 0), (0xA8002060, .cpStart 2 3),
      (0xAC280061, .cpStatWm 5 3), (0xB0201001, .cpEv 4 1), (0xF8C31340, .rep 3 9 5)], good p) ∧
  (∀ p ∈ [(0x00000000, DecodeError.reservedMajor), (0xB8000000, .reservedMajor), (0x04000014, .reservedSelector), (0x08000020, .reservedField)],
    decodeWord p.1 = .error p.2)

/-- R15, R40, R170, R337, R356, R416, R502: what package reset leaves: every scratchpad byte 0 and every bit full, no strand and no task, no region in use, the
first use of every task slot to come, and no service until firmware is verified. HBM reading 0 and memory that lists nothing (log entry 3), and a halted escapement processor and 8 rill
credits on a core with no task (entry 6), are the model's choice. -/
def Obligations.ResetState : Prop :=
  let s := State.reset
  s.service = .bringUp ∧ s.clk = 0 ∧ s.tasks = [] ∧ s.accs = [] ∧ s.owner = none ∧ s.outbox = [] ∧
    (∀ a, spadBase ≤ a → a < spadEnd → readByte s a = 0) ∧ (∀ a, isEmpty s a = false) ∧ (∀ a n, poisonedIn s a n = false) ∧
    (∀ g sid, strandAt? s g sid = none ∧ (coreAt s g).task = none ∧ (coreAt s g).epHalted = true ∧ (coreAt s g).tagTab = [] ∧ (coreAt s g).rill.credits = 8) ∧
    (∀ r, kget? s.regions r = none) ∧ (∀ k, nextUse (kget s.slotUse k 0) = 1) ∧ s.mem = [] ∧ Memory.wf s.mem = true ∧ ∀ a, readByte s a = 0
end

