-- ==== Sys2Proof/Laws/Maps.lean ====
section
/-! SUPPORT. The laws of the finite maps and the number sets in which State holds its sparse data. -/

namespace Sys2Proof.Machine

variable {α : Type}

/-- A key that was set is read back. -/
@[simp] theorem kget?_kset_self (m : KMap α) (k : Nat) (v : α) : kget? (kset m k v) k = some v := by
  induction m with
  | nil => simp [kset, kget?]
  | cons p r ih =>
    simp only [kset]
    split
    · simp [kget?]
    · split
      · simp [kget?]
      · next h1 h2 => simp [kget?, h2, ih]

/-- Setting a key leaves the others. -/
@[simp] theorem kget?_kset_ne (m : KMap α) {k q : Nat} (v : α) (h : q ≠ k) : kget? (kset m k v) q = kget? m q := by
  induction m with
  | nil => simp [kset, kget?, h]
  | cons p r ih =>
    simp only [kset]
    split
    · simp [kget?, h]
    · split
      · next h1 h2 => simp [kget?, h, ← h2]
      · simp [kget?, ih]

/-- Setting a key and reading any. -/
theorem kget?_kset (m : KMap α) (k q : Nat) (v : α) : kget? (kset m k v) q = if q = k then some v else kget? m q := by
  split
  · next h => rw [h, kget?_kset_self]
  · next h => exact kget?_kset_ne m v h

/-- A key that was taken out is gone. -/
@[simp] theorem kget?_kdel_self (m : KMap α) (k : Nat) : kget? (kdel m k) k = none := by
  induction m with
  | nil => rfl
  | cons p r ih =>
    simp only [kdel]
    split
    · exact ih
    · next h => simp [kget?, h, ih]

/-- Taking a key out leaves the others. -/
@[simp] theorem kget?_kdel_ne (m : KMap α) {k q : Nat} (h : q ≠ k) : kget? (kdel m k) q = kget? m q := by
  induction m with
  | nil => rfl
  | cons p r ih =>
    simp only [kdel]
    split
    · next hk => simp [kget?, ← hk, h, ih]
    · simp [kget?, ih]

/-- The later of two settings of a key stands. -/
@[simp] theorem kset_kset (m : KMap α) (k : Nat) (v w : α) : kset (kset m k v) k w = kset m k w := by
  induction m with
  | nil => simp [kset]
  | cons p r ih =>
    simp only [kset]
    split
    · simp [kset]
    · split
      · simp [kset]
      · next h1 h2 => simp [kset, h1, h2, ih]

/-- The value held at a key that was set. -/
@[simp] theorem kget_kset_self (m : KMap α) (k : Nat) (v d : α) : kget (kset m k v) k d = v := by simp [kget]

/-- The values held at the other keys. -/
@[simp] theorem kget_kset_ne (m : KMap α) {k q : Nat} (v d : α) (h : q ≠ k) : kget (kset m k v) q d = kget m q d := by
  simp [kget, h]

/-- A number put into a set is in it, with those that were. -/
@[simp] theorem mem_sinsert (l : List Nat) (a b : Nat) : b ∈ sinsert l a ↔ b = a ∨ b ∈ l := by
  induction l with
  | nil => simp [sinsert]
  | cons c r ih =>
    simp only [sinsert]
    split
    · simp
    · split
      · next h => subst h; simp
      · simp only [List.mem_cons, ih]; constructor <;> (intro h; rcases h with h | h | h <;> simp [h])

/-- A number taken out of a set is not in it; the others are. -/
@[simp] theorem mem_sdel (l : List Nat) (a b : Nat) : b ∈ sdel l a ↔ b ≠ a ∧ b ∈ l := by
  induction l with
  | nil => simp [sdel]
  | cons c r ih =>
    simp only [sdel]
    split
    · next h => subst h; simp only [ih, List.mem_cons]; constructor
                · rintro ⟨h1, h2⟩; exact ⟨h1, .inr h2⟩
                · rintro ⟨h1, h2⟩; exact ⟨h1, h2.resolve_left h1⟩
    · next h => simp only [List.mem_cons, ih]; constructor
                · rintro (rfl | ⟨h1, h2⟩)
                  · exact ⟨fun e => h e.symm, .inl rfl⟩
                  · exact ⟨h1, .inr h2⟩
                · rintro ⟨h1, rfl | h2⟩
                  · exact .inl rfl
                  · exact .inr ⟨h1, h2⟩

end Sys2Proof.Machine
end

