-- ==== Sys2Proof/Laws/State.lean ====
section
/-! SUPPORT. What each update of a state leaves: one lemma for each field and each update, true by unfolding, so that no later proof
opens a record update. -/

namespace Sys2Proof.Machine

/-! ### updCore -/

@[simp] theorem updCore_clk (s : State) (g : Nat) (f : Core → Core) : (updCore s g f).clk = s.clk := rfl
@[simp] theorem updCore_mem (s : State) (g : Nat) (f : Core → Core) : (updCore s g f).mem = s.mem := rfl
@[simp] theorem updCore_empties (s : State) (g : Nat) (f : Core → Core) : (updCore s g f).empties = s.empties := rfl
@[simp] theorem updCore_poison (s : State) (g : Nat) (f : Core → Core) : (updCore s g f).poison = s.poison := rfl
@[simp] theorem updCore_waiters (s : State) (g : Nat) (f : Core → Core) : (updCore s g f).waiters = s.waiters := rfl
@[simp] theorem updCore_accs (s : State) (g : Nat) (f : Core → Core) : (updCore s g f).accs = s.accs := rfl
@[simp] theorem updCore_flights (s : State) (g : Nat) (f : Core → Core) : (updCore s g f).flights = s.flights := rfl
@[simp] theorem updCore_regions (s : State) (g : Nat) (f : Core → Core) : (updCore s g f).regions = s.regions := rfl
@[simp] theorem updCore_regionSize (s : State) (g : Nat) (f : Core → Core) : (updCore s g f).regionSize = s.regionSize := rfl
@[simp] theorem updCore_burnt (s : State) (g : Nat) (f : Core → Core) : (updCore s g f).burnt = s.burnt := rfl
@[simp] theorem updCore_methods (s : State) (g : Nat) (f : Core → Core) : (updCore s g f).methods = s.methods := rfl
@[simp] theorem updCore_images (s : State) (g : Nat) (f : Core → Core) : (updCore s g f).images = s.images := rfl
@[simp] theorem updCore_sealed (s : State) (g : Nat) (f : Core → Core) : (updCore s g f).sealed = s.sealed := rfl
@[simp] theorem updCore_transCount (s : State) (g : Nat) (f : Core → Core) : (updCore s g f).transCount = s.transCount := rfl
@[simp] theorem updCore_domains (s : State) (g : Nat) (f : Core → Core) : (updCore s g f).domains = s.domains := rfl
@[simp] theorem updCore_revSeq (s : State) (g : Nat) (f : Core → Core) : (updCore s g f).revSeq = s.revSeq := rfl
@[simp] theorem updCore_revVers (s : State) (g : Nat) (f : Core → Core) : (updCore s g f).revVers = s.revVers := rfl
@[simp] theorem updCore_tenants (s : State) (g : Nat) (f : Core → Core) : (updCore s g f).tenants = s.tenants := rfl
@[simp] theorem updCore_partOrder (s : State) (g : Nat) (f : Core → Core) : (updCore s g f).partOrder = s.partOrder := rfl
@[simp] theorem updCore_fenceWaits (s : State) (g : Nat) (f : Core → Core) : (updCore s g f).fenceWaits = s.fenceWaits := rfl
@[simp] theorem updCore_tasks (s : State) (g : Nat) (f : Core → Core) : (updCore s g f).tasks = s.tasks := rfl
@[simp] theorem updCore_slotUse (s : State) (g : Nat) (f : Core → Core) : (updCore s g f).slotUse = s.slotUse := rfl
@[simp] theorem updCore_accepted (s : State) (g : Nat) (f : Core → Core) : (updCore s g f).accepted = s.accepted := rfl
@[simp] theorem updCore_reqs (s : State) (g : Nat) (f : Core → Core) : (updCore s g f).reqs = s.reqs := rfl
@[simp] theorem updCore_saves (s : State) (g : Nat) (f : Core → Core) : (updCore s g f).saves = s.saves := rfl
@[simp] theorem updCore_keys (s : State) (g : Nat) (f : Core → Core) : (updCore s g f).keys = s.keys := rfl
@[simp] theorem updCore_owner (s : State) (g : Nat) (f : Core → Core) : (updCore s g f).owner = s.owner := rfl
@[simp] theorem updCore_handover (s : State) (g : Nat) (f : Core → Core) : (updCore s g f).handover = s.handover := rfl
@[simp] theorem updCore_ownerSeen (s : State) (g : Nat) (f : Core → Core) : (updCore s g f).ownerSeen = s.ownerSeen := rfl
@[simp] theorem updCore_service (s : State) (g : Nat) (f : Core → Core) : (updCore s g f).service = s.service := rfl
@[simp] theorem updCore_dieOk (s : State) (g : Nat) (f : Core → Core) : (updCore s g f).dieOk = s.dieOk := rfl
@[simp] theorem updCore_tested (s : State) (g : Nat) (f : Core → Core) : (updCore s g f).tested = s.tested := rfl
@[simp] theorem updCore_switching (s : State) (g : Nat) (f : Core → Core) : (updCore s g f).switching = s.switching := rfl
@[simp] theorem updCore_disabled (s : State) (g : Nat) (f : Core → Core) : (updCore s g f).disabled = s.disabled := rfl
@[simp] theorem updCore_retired (s : State) (g : Nat) (f : Core → Core) : (updCore s g f).retired = s.retired := rfl
@[simp] theorem updCore_retiring (s : State) (g : Nat) (f : Core → Core) : (updCore s g f).retiring = s.retiring := rfl
@[simp] theorem updCore_chanRetired (s : State) (g : Nat) (f : Core → Core) : (updCore s g f).chanRetired = s.chanRetired := rfl
@[simp] theorem updCore_chanPending (s : State) (g : Nat) (f : Core → Core) : (updCore s g f).chanPending = s.chanPending := rfl
@[simp] theorem updCore_chanTold (s : State) (g : Nat) (f : Core → Core) : (updCore s g f).chanTold = s.chanTold := rfl
@[simp] theorem updCore_order (s : State) (g : Nat) (f : Core → Core) : (updCore s g f).order = s.order := rfl
@[simp] theorem updCore_mgmt (s : State) (g : Nat) (f : Core → Core) : (updCore s g f).mgmt = s.mgmt := rfl
@[simp] theorem updCore_eventSeq (s : State) (g : Nat) (f : Core → Core) : (updCore s g f).eventSeq = s.eventSeq := rfl
@[simp] theorem updCore_powerCap (s : State) (g : Nat) (f : Core → Core) : (updCore s g f).powerCap = s.powerCap := rfl
@[simp] theorem updCore_powerLast (s : State) (g : Nat) (f : Core → Core) : (updCore s g f).powerLast = s.powerLast := rfl
@[simp] theorem updCore_throttled (s : State) (g : Nat) (f : Core → Core) : (updCore s g f).throttled = s.throttled := rfl
@[simp] theorem updCore_split (s : State) (g : Nat) (f : Core → Core) : (updCore s g f).split = s.split := rfl
@[simp] theorem updCore_splitPending (s : State) (g : Nat) (f : Core → Core) : (updCore s g f).splitPending = s.splitPending := rfl
@[simp] theorem updCore_trained (s : State) (g : Nat) (f : Core → Core) : (updCore s g f).trained = s.trained := rfl
@[simp] theorem updCore_groups (s : State) (g : Nat) (f : Core → Core) : (updCore s g f).groups = s.groups := rfl
@[simp] theorem updCore_sendqs (s : State) (g : Nat) (f : Core → Core) : (updCore s g f).sendqs = s.sendqs := rfl
@[simp] theorem updCore_streams (s : State) (g : Nat) (f : Core → Core) : (updCore s g f).streams = s.streams := rfl
@[simp] theorem updCore_attestUsed (s : State) (g : Nat) (f : Core → Core) : (updCore s g f).attestUsed = s.attestUsed := rfl
@[simp] theorem updCore_ownerRing (s : State) (g : Nat) (f : Core → Core) : (updCore s g f).ownerRing = s.ownerRing := rfl
@[simp] theorem updCore_outbox (s : State) (g : Nat) (f : Core → Core) : (updCore s g f).outbox = s.outbox := rfl
@[simp] theorem updCore_cur (s : State) (g : Nat) (f : Core → Core) : (updCore s g f).cur = s.cur := rfl
@[simp] theorem updCore_sched (s : State) (g : Nat) (f : Core → Core) : (updCore s g f).sched = s.sched := rfl
@[simp] theorem updCore_nextId (s : State) (g : Nat) (f : Core → Core) : (updCore s g f).nextId = s.nextId := rfl
@[simp] theorem updCore_net (s : State) (g : Nat) (f : Core → Core) : (updCore s g f).net = s.net := rfl
@[simp] theorem updCore_reqWait (s : State) (g : Nat) (f : Core → Core) : (updCore s g f).reqWait = s.reqWait := rfl
@[simp] theorem updCore_fabricKey (s : State) (g : Nat) (f : Core → Core) : (updCore s g f).fabricKey = s.fabricKey := rfl
@[simp] theorem updCore_dieLinks (s : State) (g : Nat) (f : Core → Core) : (updCore s g f).dieLinks = s.dieLinks := rfl
@[simp] theorem updCore_stacksBasic (s : State) (g : Nat) (f : Core → Core) : (updCore s g f).stacksBasic = s.stacksBasic := rfl
@[simp] theorem updCore_stacksFine (s : State) (g : Nat) (f : Core → Core) : (updCore s g f).stacksFine = s.stacksFine := rfl
@[simp] theorem updCore_unreported (s : State) (g : Nat) (f : Core → Core) : (updCore s g f).unreported = s.unreported := rfl

/-! ### updStrand -/

@[simp] theorem updStrand_clk (s : State) (g sid : Nat) (f : Strand → Strand) : (updStrand s g sid f).clk = s.clk := rfl
@[simp] theorem updStrand_mem (s : State) (g sid : Nat) (f : Strand → Strand) : (updStrand s g sid f).mem = s.mem := rfl
@[simp] theorem updStrand_empties (s : State) (g sid : Nat) (f : Strand → Strand) : (updStrand s g sid f).empties = s.empties := rfl
@[simp] theorem updStrand_poison (s : State) (g sid : Nat) (f : Strand → Strand) : (updStrand s g sid f).poison = s.poison := rfl
@[simp] theorem updStrand_waiters (s : State) (g sid : Nat) (f : Strand → Strand) : (updStrand s g sid f).waiters = s.waiters := rfl
@[simp] theorem updStrand_accs (s : State) (g sid : Nat) (f : Strand → Strand) : (updStrand s g sid f).accs = s.accs := rfl
@[simp] theorem updStrand_flights (s : State) (g sid : Nat) (f : Strand → Strand) : (updStrand s g sid f).flights = s.flights := rfl
@[simp] theorem updStrand_regions (s : State) (g sid : Nat) (f : Strand → Strand) : (updStrand s g sid f).regions = s.regions := rfl
@[simp] theorem updStrand_regionSize (s : State) (g sid : Nat) (f : Strand → Strand) : (updStrand s g sid f).regionSize = s.regionSize := rfl
@[simp] theorem updStrand_burnt (s : State) (g sid : Nat) (f : Strand → Strand) : (updStrand s g sid f).burnt = s.burnt := rfl
@[simp] theorem updStrand_methods (s : State) (g sid : Nat) (f : Strand → Strand) : (updStrand s g sid f).methods = s.methods := rfl
@[simp] theorem updStrand_images (s : State) (g sid : Nat) (f : Strand → Strand) : (updStrand s g sid f).images = s.images := rfl
@[simp] theorem updStrand_sealed (s : State) (g sid : Nat) (f : Strand → Strand) : (updStrand s g sid f).sealed = s.sealed := rfl
@[simp] theorem updStrand_transCount (s : State) (g sid : Nat) (f : Strand → Strand) : (updStrand s g sid f).transCount = s.transCount := rfl
@[simp] theorem updStrand_domains (s : State) (g sid : Nat) (f : Strand → Strand) : (updStrand s g sid f).domains = s.domains := rfl
@[simp] theorem updStrand_revSeq (s : State) (g sid : Nat) (f : Strand → Strand) : (updStrand s g sid f).revSeq = s.revSeq := rfl
@[simp] theorem updStrand_revVers (s : State) (g sid : Nat) (f : Strand → Strand) : (updStrand s g sid f).revVers = s.revVers := rfl
@[simp] theorem updStrand_tenants (s : State) (g sid : Nat) (f : Strand → Strand) : (updStrand s g sid f).tenants = s.tenants := rfl
@[simp] theorem updStrand_partOrder (s : State) (g sid : Nat) (f : Strand → Strand) : (updStrand s g sid f).partOrder = s.partOrder := rfl
@[simp] theorem updStrand_fenceWaits (s : State) (g sid : Nat) (f : Strand → Strand) : (updStrand s g sid f).fenceWaits = s.fenceWaits := rfl
@[simp] theorem updStrand_tasks (s : State) (g sid : Nat) (f : Strand → Strand) : (updStrand s g sid f).tasks = s.tasks := rfl
@[simp] theorem updStrand_slotUse (s : State) (g sid : Nat) (f : Strand → Strand) : (updStrand s g sid f).slotUse = s.slotUse := rfl
@[simp] theorem updStrand_accepted (s : State) (g sid : Nat) (f : Strand → Strand) : (updStrand s g sid f).accepted = s.accepted := rfl
@[simp] theorem updStrand_reqs (s : State) (g sid : Nat) (f : Strand → Strand) : (updStrand s g sid f).reqs = s.reqs := rfl
@[simp] theorem updStrand_saves (s : State) (g sid : Nat) (f : Strand → Strand) : (updStrand s g sid f).saves = s.saves := rfl
@[simp] theorem updStrand_keys (s : State) (g sid : Nat) (f : Strand → Strand) : (updStrand s g sid f).keys = s.keys := rfl
@[simp] theorem updStrand_owner (s : State) (g sid : Nat) (f : Strand → Strand) : (updStrand s g sid f).owner = s.owner := rfl
@[simp] theorem updStrand_handover (s : State) (g sid : Nat) (f : Strand → Strand) : (updStrand s g sid f).handover = s.handover := rfl
@[simp] theorem updStrand_ownerSeen (s : State) (g sid : Nat) (f : Strand → Strand) : (updStrand s g sid f).ownerSeen = s.ownerSeen := rfl
@[simp] theorem updStrand_service (s : State) (g sid : Nat) (f : Strand → Strand) : (updStrand s g sid f).service = s.service := rfl
@[simp] theorem updStrand_dieOk (s : State) (g sid : Nat) (f : Strand → Strand) : (updStrand s g sid f).dieOk = s.dieOk := rfl
@[simp] theorem updStrand_tested (s : State) (g sid : Nat) (f : Strand → Strand) : (updStrand s g sid f).tested = s.tested := rfl
@[simp] theorem updStrand_switching (s : State) (g sid : Nat) (f : Strand → Strand) : (updStrand s g sid f).switching = s.switching := rfl
@[simp] theorem updStrand_disabled (s : State) (g sid : Nat) (f : Strand → Strand) : (updStrand s g sid f).disabled = s.disabled := rfl
@[simp] theorem updStrand_retired (s : State) (g sid : Nat) (f : Strand → Strand) : (updStrand s g sid f).retired = s.retired := rfl
@[simp] theorem updStrand_retiring (s : State) (g sid : Nat) (f : Strand → Strand) : (updStrand s g sid f).retiring = s.retiring := rfl
@[simp] theorem updStrand_chanRetired (s : State) (g sid : Nat) (f : Strand → Strand) : (updStrand s g sid f).chanRetired = s.chanRetired := rfl
@[simp] theorem updStrand_chanPending (s : State) (g sid : Nat) (f : Strand → Strand) : (updStrand s g sid f).chanPending = s.chanPending := rfl
@[simp] theorem updStrand_chanTold (s : State) (g sid : Nat) (f : Strand → Strand) : (updStrand s g sid f).chanTold = s.chanTold := rfl
@[simp] theorem updStrand_order (s : State) (g sid : Nat) (f : Strand → Strand) : (updStrand s g sid f).order = s.order := rfl
@[simp] theorem updStrand_mgmt (s : State) (g sid : Nat) (f : Strand → Strand) : (updStrand s g sid f).mgmt = s.mgmt := rfl
@[simp] theorem updStrand_eventSeq (s : State) (g sid : Nat) (f : Strand → Strand) : (updStrand s g sid f).eventSeq = s.eventSeq := rfl
@[simp] theorem updStrand_powerCap (s : State) (g sid : Nat) (f : Strand → Strand) : (updStrand s g sid f).powerCap = s.powerCap := rfl
@[simp] theorem updStrand_powerLast (s : State) (g sid : Nat) (f : Strand → Strand) : (updStrand s g sid f).powerLast = s.powerLast := rfl
@[simp] theorem updStrand_throttled (s : State) (g sid : Nat) (f : Strand → Strand) : (updStrand s g sid f).throttled = s.throttled := rfl
@[simp] theorem updStrand_split (s : State) (g sid : Nat) (f : Strand → Strand) : (updStrand s g sid f).split = s.split := rfl
@[simp] theorem updStrand_splitPending (s : State) (g sid : Nat) (f : Strand → Strand) : (updStrand s g sid f).splitPending = s.splitPending := rfl
@[simp] theorem updStrand_trained (s : State) (g sid : Nat) (f : Strand → Strand) : (updStrand s g sid f).trained = s.trained := rfl
@[simp] theorem updStrand_groups (s : State) (g sid : Nat) (f : Strand → Strand) : (updStrand s g sid f).groups = s.groups := rfl
@[simp] theorem updStrand_sendqs (s : State) (g sid : Nat) (f : Strand → Strand) : (updStrand s g sid f).sendqs = s.sendqs := rfl
@[simp] theorem updStrand_streams (s : State) (g sid : Nat) (f : Strand → Strand) : (updStrand s g sid f).streams = s.streams := rfl
@[simp] theorem updStrand_attestUsed (s : State) (g sid : Nat) (f : Strand → Strand) : (updStrand s g sid f).attestUsed = s.attestUsed := rfl
@[simp] theorem updStrand_ownerRing (s : State) (g sid : Nat) (f : Strand → Strand) : (updStrand s g sid f).ownerRing = s.ownerRing := rfl
@[simp] theorem updStrand_outbox (s : State) (g sid : Nat) (f : Strand → Strand) : (updStrand s g sid f).outbox = s.outbox := rfl
@[simp] theorem updStrand_cur (s : State) (g sid : Nat) (f : Strand → Strand) : (updStrand s g sid f).cur = s.cur := rfl
@[simp] theorem updStrand_sched (s : State) (g sid : Nat) (f : Strand → Strand) : (updStrand s g sid f).sched = s.sched := rfl
@[simp] theorem updStrand_nextId (s : State) (g sid : Nat) (f : Strand → Strand) : (updStrand s g sid f).nextId = s.nextId := rfl
@[simp] theorem updStrand_net (s : State) (g sid : Nat) (f : Strand → Strand) : (updStrand s g sid f).net = s.net := rfl
@[simp] theorem updStrand_reqWait (s : State) (g sid : Nat) (f : Strand → Strand) : (updStrand s g sid f).reqWait = s.reqWait := rfl
@[simp] theorem updStrand_fabricKey (s : State) (g sid : Nat) (f : Strand → Strand) : (updStrand s g sid f).fabricKey = s.fabricKey := rfl
@[simp] theorem updStrand_dieLinks (s : State) (g sid : Nat) (f : Strand → Strand) : (updStrand s g sid f).dieLinks = s.dieLinks := rfl
@[simp] theorem updStrand_stacksBasic (s : State) (g sid : Nat) (f : Strand → Strand) : (updStrand s g sid f).stacksBasic = s.stacksBasic := rfl
@[simp] theorem updStrand_stacksFine (s : State) (g sid : Nat) (f : Strand → Strand) : (updStrand s g sid f).stacksFine = s.stacksFine := rfl
@[simp] theorem updStrand_unreported (s : State) (g sid : Nat) (f : Strand → Strand) : (updStrand s g sid f).unreported = s.unreported := rfl

/-! ### emit -/

@[simp] theorem emit_clk (s : State) (m : Msg) : (emit s m).clk = s.clk := rfl
@[simp] theorem emit_mem (s : State) (m : Msg) : (emit s m).mem = s.mem := rfl
@[simp] theorem emit_empties (s : State) (m : Msg) : (emit s m).empties = s.empties := rfl
@[simp] theorem emit_poison (s : State) (m : Msg) : (emit s m).poison = s.poison := rfl
@[simp] theorem emit_waiters (s : State) (m : Msg) : (emit s m).waiters = s.waiters := rfl
@[simp] theorem emit_accs (s : State) (m : Msg) : (emit s m).accs = s.accs := rfl
@[simp] theorem emit_cores (s : State) (m : Msg) : (emit s m).cores = s.cores := rfl
@[simp] theorem emit_flights (s : State) (m : Msg) : (emit s m).flights = s.flights := rfl
@[simp] theorem emit_regions (s : State) (m : Msg) : (emit s m).regions = s.regions := rfl
@[simp] theorem emit_regionSize (s : State) (m : Msg) : (emit s m).regionSize = s.regionSize := rfl
@[simp] theorem emit_burnt (s : State) (m : Msg) : (emit s m).burnt = s.burnt := rfl
@[simp] theorem emit_methods (s : State) (m : Msg) : (emit s m).methods = s.methods := rfl
@[simp] theorem emit_images (s : State) (m : Msg) : (emit s m).images = s.images := rfl
@[simp] theorem emit_sealed (s : State) (m : Msg) : (emit s m).sealed = s.sealed := rfl
@[simp] theorem emit_transCount (s : State) (m : Msg) : (emit s m).transCount = s.transCount := rfl
@[simp] theorem emit_domains (s : State) (m : Msg) : (emit s m).domains = s.domains := rfl
@[simp] theorem emit_revSeq (s : State) (m : Msg) : (emit s m).revSeq = s.revSeq := rfl
@[simp] theorem emit_revVers (s : State) (m : Msg) : (emit s m).revVers = s.revVers := rfl
@[simp] theorem emit_tenants (s : State) (m : Msg) : (emit s m).tenants = s.tenants := rfl
@[simp] theorem emit_partOrder (s : State) (m : Msg) : (emit s m).partOrder = s.partOrder := rfl
@[simp] theorem emit_fenceWaits (s : State) (m : Msg) : (emit s m).fenceWaits = s.fenceWaits := rfl
@[simp] theorem emit_tasks (s : State) (m : Msg) : (emit s m).tasks = s.tasks := rfl
@[simp] theorem emit_slotUse (s : State) (m : Msg) : (emit s m).slotUse = s.slotUse := rfl
@[simp] theorem emit_accepted (s : State) (m : Msg) : (emit s m).accepted = s.accepted := rfl
@[simp] theorem emit_reqs (s : State) (m : Msg) : (emit s m).reqs = s.reqs := rfl
@[simp] theorem emit_saves (s : State) (m : Msg) : (emit s m).saves = s.saves := rfl
@[simp] theorem emit_keys (s : State) (m : Msg) : (emit s m).keys = s.keys := rfl
@[simp] theorem emit_owner (s : State) (m : Msg) : (emit s m).owner = s.owner := rfl
@[simp] theorem emit_handover (s : State) (m : Msg) : (emit s m).handover = s.handover := rfl
@[simp] theorem emit_ownerSeen (s : State) (m : Msg) : (emit s m).ownerSeen = s.ownerSeen := rfl
@[simp] theorem emit_service (s : State) (m : Msg) : (emit s m).service = s.service := rfl
@[simp] theorem emit_dieOk (s : State) (m : Msg) : (emit s m).dieOk = s.dieOk := rfl
@[simp] theorem emit_tested (s : State) (m : Msg) : (emit s m).tested = s.tested := rfl
@[simp] theorem emit_switching (s : State) (m : Msg) : (emit s m).switching = s.switching := rfl
@[simp] theorem emit_disabled (s : State) (m : Msg) : (emit s m).disabled = s.disabled := rfl
@[simp] theorem emit_retired (s : State) (m : Msg) : (emit s m).retired = s.retired := rfl
@[simp] theorem emit_retiring (s : State) (m : Msg) : (emit s m).retiring = s.retiring := rfl
@[simp] theorem emit_chanRetired (s : State) (m : Msg) : (emit s m).chanRetired = s.chanRetired := rfl
@[simp] theorem emit_chanPending (s : State) (m : Msg) : (emit s m).chanPending = s.chanPending := rfl
@[simp] theorem emit_chanTold (s : State) (m : Msg) : (emit s m).chanTold = s.chanTold := rfl
@[simp] theorem emit_order (s : State) (m : Msg) : (emit s m).order = s.order := rfl
@[simp] theorem emit_mgmt (s : State) (m : Msg) : (emit s m).mgmt = s.mgmt := rfl
@[simp] theorem emit_eventSeq (s : State) (m : Msg) : (emit s m).eventSeq = s.eventSeq := rfl
@[simp] theorem emit_powerCap (s : State) (m : Msg) : (emit s m).powerCap = s.powerCap := rfl
@[simp] theorem emit_powerLast (s : State) (m : Msg) : (emit s m).powerLast = s.powerLast := rfl
@[simp] theorem emit_throttled (s : State) (m : Msg) : (emit s m).throttled = s.throttled := rfl
@[simp] theorem emit_split (s : State) (m : Msg) : (emit s m).split = s.split := rfl
@[simp] theorem emit_splitPending (s : State) (m : Msg) : (emit s m).splitPending = s.splitPending := rfl
@[simp] theorem emit_trained (s : State) (m : Msg) : (emit s m).trained = s.trained := rfl
@[simp] theorem emit_groups (s : State) (m : Msg) : (emit s m).groups = s.groups := rfl
@[simp] theorem emit_sendqs (s : State) (m : Msg) : (emit s m).sendqs = s.sendqs := rfl
@[simp] theorem emit_streams (s : State) (m : Msg) : (emit s m).streams = s.streams := rfl
@[simp] theorem emit_attestUsed (s : State) (m : Msg) : (emit s m).attestUsed = s.attestUsed := rfl
@[simp] theorem emit_ownerRing (s : State) (m : Msg) : (emit s m).ownerRing = s.ownerRing := rfl
@[simp] theorem emit_cur (s : State) (m : Msg) : (emit s m).cur = s.cur := rfl
@[simp] theorem emit_sched (s : State) (m : Msg) : (emit s m).sched = s.sched := rfl
@[simp] theorem emit_nextId (s : State) (m : Msg) : (emit s m).nextId = s.nextId := rfl
@[simp] theorem emit_net (s : State) (m : Msg) : (emit s m).net = s.net := rfl
@[simp] theorem emit_reqWait (s : State) (m : Msg) : (emit s m).reqWait = s.reqWait := rfl
@[simp] theorem emit_fabricKey (s : State) (m : Msg) : (emit s m).fabricKey = s.fabricKey := rfl
@[simp] theorem emit_dieLinks (s : State) (m : Msg) : (emit s m).dieLinks = s.dieLinks := rfl
@[simp] theorem emit_stacksBasic (s : State) (m : Msg) : (emit s m).stacksBasic = s.stacksBasic := rfl
@[simp] theorem emit_stacksFine (s : State) (m : Msg) : (emit s m).stacksFine = s.stacksFine := rfl
@[simp] theorem emit_unreported (s : State) (m : Msg) : (emit s m).unreported = s.unreported := rfl

/-! ### setFull -/

@[simp] theorem setFull_clk (s : State) (a : Nat) : (setFull s a).clk = s.clk := rfl
@[simp] theorem setFull_mem (s : State) (a : Nat) : (setFull s a).mem = s.mem := rfl
@[simp] theorem setFull_poison (s : State) (a : Nat) : (setFull s a).poison = s.poison := rfl
@[simp] theorem setFull_waiters (s : State) (a : Nat) : (setFull s a).waiters = s.waiters := rfl
@[simp] theorem setFull_accs (s : State) (a : Nat) : (setFull s a).accs = s.accs := rfl
@[simp] theorem setFull_cores (s : State) (a : Nat) : (setFull s a).cores = s.cores := rfl
@[simp] theorem setFull_flights (s : State) (a : Nat) : (setFull s a).flights = s.flights := rfl
@[simp] theorem setFull_regions (s : State) (a : Nat) : (setFull s a).regions = s.regions := rfl
@[simp] theorem setFull_regionSize (s : State) (a : Nat) : (setFull s a).regionSize = s.regionSize := rfl
@[simp] theorem setFull_burnt (s : State) (a : Nat) : (setFull s a).burnt = s.burnt := rfl
@[simp] theorem setFull_methods (s : State) (a : Nat) : (setFull s a).methods = s.methods := rfl
@[simp] theorem setFull_images (s : State) (a : Nat) : (setFull s a).images = s.images := rfl
@[simp] theorem setFull_sealed (s : State) (a : Nat) : (setFull s a).sealed = s.sealed := rfl
@[simp] theorem setFull_transCount (s : State) (a : Nat) : (setFull s a).transCount = s.transCount := rfl
@[simp] theorem setFull_domains (s : State) (a : Nat) : (setFull s a).domains = s.domains := rfl
@[simp] theorem setFull_revSeq (s : State) (a : Nat) : (setFull s a).revSeq = s.revSeq := rfl
@[simp] theorem setFull_revVers (s : State) (a : Nat) : (setFull s a).revVers = s.revVers := rfl
@[simp] theorem setFull_tenants (s : State) (a : Nat) : (setFull s a).tenants = s.tenants := rfl
@[simp] theorem setFull_partOrder (s : State) (a : Nat) : (setFull s a).partOrder = s.partOrder := rfl
@[simp] theorem setFull_fenceWaits (s : State) (a : Nat) : (setFull s a).fenceWaits = s.fenceWaits := rfl
@[simp] theorem setFull_tasks (s : State) (a : Nat) : (setFull s a).tasks = s.tasks := rfl
@[simp] theorem setFull_slotUse (s : State) (a : Nat) : (setFull s a).slotUse = s.slotUse := rfl
@[simp] theorem setFull_accepted (s : State) (a : Nat) : (setFull s a).accepted = s.accepted := rfl
@[simp] theorem setFull_reqs (s : State) (a : Nat) : (setFull s a).reqs = s.reqs := rfl
@[simp] theorem setFull_saves (s : State) (a : Nat) : (setFull s a).saves = s.saves := rfl
@[simp] theorem setFull_keys (s : State) (a : Nat) : (setFull s a).keys = s.keys := rfl
@[simp] theorem setFull_owner (s : State) (a : Nat) : (setFull s a).owner = s.owner := rfl
@[simp] theorem setFull_handover (s : State) (a : Nat) : (setFull s a).handover = s.handover := rfl
@[simp] theorem setFull_ownerSeen (s : State) (a : Nat) : (setFull s a).ownerSeen = s.ownerSeen := rfl
@[simp] theorem setFull_service (s : State) (a : Nat) : (setFull s a).service = s.service := rfl
@[simp] theorem setFull_dieOk (s : State) (a : Nat) : (setFull s a).dieOk = s.dieOk := rfl
@[simp] theorem setFull_tested (s : State) (a : Nat) : (setFull s a).tested = s.tested := rfl
@[simp] theorem setFull_switching (s : State) (a : Nat) : (setFull s a).switching = s.switching := rfl
@[simp] theorem setFull_disabled (s : State) (a : Nat) : (setFull s a).disabled = s.disabled := rfl
@[simp] theorem setFull_retired (s : State) (a : Nat) : (setFull s a).retired = s.retired := rfl
@[simp] theorem setFull_retiring (s : State) (a : Nat) : (setFull s a).retiring = s.retiring := rfl
@[simp] theorem setFull_chanRetired (s : State) (a : Nat) : (setFull s a).chanRetired = s.chanRetired := rfl
@[simp] theorem setFull_chanPending (s : State) (a : Nat) : (setFull s a).chanPending = s.chanPending := rfl
@[simp] theorem setFull_chanTold (s : State) (a : Nat) : (setFull s a).chanTold = s.chanTold := rfl
@[simp] theorem setFull_order (s : State) (a : Nat) : (setFull s a).order = s.order := rfl
@[simp] theorem setFull_mgmt (s : State) (a : Nat) : (setFull s a).mgmt = s.mgmt := rfl
@[simp] theorem setFull_eventSeq (s : State) (a : Nat) : (setFull s a).eventSeq = s.eventSeq := rfl
@[simp] theorem setFull_powerCap (s : State) (a : Nat) : (setFull s a).powerCap = s.powerCap := rfl
@[simp] theorem setFull_powerLast (s : State) (a : Nat) : (setFull s a).powerLast = s.powerLast := rfl
@[simp] theorem setFull_throttled (s : State) (a : Nat) : (setFull s a).throttled = s.throttled := rfl
@[simp] theorem setFull_split (s : State) (a : Nat) : (setFull s a).split = s.split := rfl
@[simp] theorem setFull_splitPending (s : State) (a : Nat) : (setFull s a).splitPending = s.splitPending := rfl
@[simp] theorem setFull_trained (s : State) (a : Nat) : (setFull s a).trained = s.trained := rfl
@[simp] theorem setFull_groups (s : State) (a : Nat) : (setFull s a).groups = s.groups := rfl
@[simp] theorem setFull_sendqs (s : State) (a : Nat) : (setFull s a).sendqs = s.sendqs := rfl
@[simp] theorem setFull_streams (s : State) (a : Nat) : (setFull s a).streams = s.streams := rfl
@[simp] theorem setFull_attestUsed (s : State) (a : Nat) : (setFull s a).attestUsed = s.attestUsed := rfl
@[simp] theorem setFull_ownerRing (s : State) (a : Nat) : (setFull s a).ownerRing = s.ownerRing := rfl
@[simp] theorem setFull_outbox (s : State) (a : Nat) : (setFull s a).outbox = s.outbox := rfl
@[simp] theorem setFull_cur (s : State) (a : Nat) : (setFull s a).cur = s.cur := rfl
@[simp] theorem setFull_sched (s : State) (a : Nat) : (setFull s a).sched = s.sched := rfl
@[simp] theorem setFull_nextId (s : State) (a : Nat) : (setFull s a).nextId = s.nextId := rfl
@[simp] theorem setFull_net (s : State) (a : Nat) : (setFull s a).net = s.net := rfl
@[simp] theorem setFull_reqWait (s : State) (a : Nat) : (setFull s a).reqWait = s.reqWait := rfl
@[simp] theorem setFull_fabricKey (s : State) (a : Nat) : (setFull s a).fabricKey = s.fabricKey := rfl
@[simp] theorem setFull_dieLinks (s : State) (a : Nat) : (setFull s a).dieLinks = s.dieLinks := rfl
@[simp] theorem setFull_stacksBasic (s : State) (a : Nat) : (setFull s a).stacksBasic = s.stacksBasic := rfl
@[simp] theorem setFull_stacksFine (s : State) (a : Nat) : (setFull s a).stacksFine = s.stacksFine := rfl
@[simp] theorem setFull_unreported (s : State) (a : Nat) : (setFull s a).unreported = s.unreported := rfl

/-! ### setEmpty -/

@[simp] theorem setEmpty_clk (s : State) (a : Nat) : (setEmpty s a).clk = s.clk := rfl
@[simp] theorem setEmpty_mem (s : State) (a : Nat) : (setEmpty s a).mem = s.mem := rfl
@[simp] theorem setEmpty_poison (s : State) (a : Nat) : (setEmpty s a).poison = s.poison := rfl
@[simp] theorem setEmpty_waiters (s : State) (a : Nat) : (setEmpty s a).waiters = s.waiters := rfl
@[simp] theorem setEmpty_accs (s : State) (a : Nat) : (setEmpty s a).accs = s.accs := rfl
@[simp] theorem setEmpty_cores (s : State) (a : Nat) : (setEmpty s a).cores = s.cores := rfl
@[simp] theorem setEmpty_flights (s : State) (a : Nat) : (setEmpty s a).flights = s.flights := rfl
@[simp] theorem setEmpty_regions (s : State) (a : Nat) : (setEmpty s a).regions = s.regions := rfl
@[simp] theorem setEmpty_regionSize (s : State) (a : Nat) : (setEmpty s a).regionSize = s.regionSize := rfl
@[simp] theorem setEmpty_burnt (s : State) (a : Nat) : (setEmpty s a).burnt = s.burnt := rfl
@[simp] theorem setEmpty_methods (s : State) (a : Nat) : (setEmpty s a).methods = s.methods := rfl
@[simp] theorem setEmpty_images (s : State) (a : Nat) : (setEmpty s a).images = s.images := rfl
@[simp] theorem setEmpty_sealed (s : State) (a : Nat) : (setEmpty s a).sealed = s.sealed := rfl
@[simp] theorem setEmpty_transCount (s : State) (a : Nat) : (setEmpty s a).transCount = s.transCount := rfl
@[simp] theorem setEmpty_domains (s : State) (a : Nat) : (setEmpty s a).domains = s.domains := rfl
@[simp] theorem setEmpty_revSeq (s : State) (a : Nat) : (setEmpty s a).revSeq = s.revSeq := rfl
@[simp] theorem setEmpty_revVers (s : State) (a : Nat) : (setEmpty s a).revVers = s.revVers := rfl
@[simp] theorem setEmpty_tenants (s : State) (a : Nat) : (setEmpty s a).tenants = s.tenants := rfl
@[simp] theorem setEmpty_partOrder (s : State) (a : Nat) : (setEmpty s a).partOrder = s.partOrder := rfl
@[simp] theorem setEmpty_fenceWaits (s : State) (a : Nat) : (setEmpty s a).fenceWaits = s.fenceWaits := rfl
@[simp] theorem setEmpty_tasks (s : State) (a : Nat) : (setEmpty s a).tasks = s.tasks := rfl
@[simp] theorem setEmpty_slotUse (s : State) (a : Nat) : (setEmpty s a).slotUse = s.slotUse := rfl
@[simp] theorem setEmpty_accepted (s : State) (a : Nat) : (setEmpty s a).accepted = s.accepted := rfl
@[simp] theorem setEmpty_reqs (s : State) (a : Nat) : (setEmpty s a).reqs = s.reqs := rfl
@[simp] theorem setEmpty_saves (s : State) (a : Nat) : (setEmpty s a).saves = s.saves := rfl
@[simp] theorem setEmpty_keys (s : State) (a : Nat) : (setEmpty s a).keys = s.keys := rfl
@[simp] theorem setEmpty_owner (s : State) (a : Nat) : (setEmpty s a).owner = s.owner := rfl
@[simp] theorem setEmpty_handover (s : State) (a : Nat) : (setEmpty s a).handover = s.handover := rfl
@[simp] theorem setEmpty_ownerSeen (s : State) (a : Nat) : (setEmpty s a).ownerSeen = s.ownerSeen := rfl
@[simp] theorem setEmpty_service (s : State) (a : Nat) : (setEmpty s a).service = s.service := rfl
@[simp] theorem setEmpty_dieOk (s : State) (a : Nat) : (setEmpty s a).dieOk = s.dieOk := rfl
@[simp] theorem setEmpty_tested (s : State) (a : Nat) : (setEmpty s a).tested = s.tested := rfl
@[simp] theorem setEmpty_switching (s : State) (a : Nat) : (setEmpty s a).switching = s.switching := rfl
@[simp] theorem setEmpty_disabled (s : State) (a : Nat) : (setEmpty s a).disabled = s.disabled := rfl
@[simp] theorem setEmpty_retired (s : State) (a : Nat) : (setEmpty s a).retired = s.retired := rfl
@[simp] theorem setEmpty_retiring (s : State) (a : Nat) : (setEmpty s a).retiring = s.retiring := rfl
@[simp] theorem setEmpty_chanRetired (s : State) (a : Nat) : (setEmpty s a).chanRetired = s.chanRetired := rfl
@[simp] theorem setEmpty_chanPending (s : State) (a : Nat) : (setEmpty s a).chanPending = s.chanPending := rfl
@[simp] theorem setEmpty_chanTold (s : State) (a : Nat) : (setEmpty s a).chanTold = s.chanTold := rfl
@[simp] theorem setEmpty_order (s : State) (a : Nat) : (setEmpty s a).order = s.order := rfl
@[simp] theorem setEmpty_mgmt (s : State) (a : Nat) : (setEmpty s a).mgmt = s.mgmt := rfl
@[simp] theorem setEmpty_eventSeq (s : State) (a : Nat) : (setEmpty s a).eventSeq = s.eventSeq := rfl
@[simp] theorem setEmpty_powerCap (s : State) (a : Nat) : (setEmpty s a).powerCap = s.powerCap := rfl
@[simp] theorem setEmpty_powerLast (s : State) (a : Nat) : (setEmpty s a).powerLast = s.powerLast := rfl
@[simp] theorem setEmpty_throttled (s : State) (a : Nat) : (setEmpty s a).throttled = s.throttled := rfl
@[simp] theorem setEmpty_split (s : State) (a : Nat) : (setEmpty s a).split = s.split := rfl
@[simp] theorem setEmpty_splitPending (s : State) (a : Nat) : (setEmpty s a).splitPending = s.splitPending := rfl
@[simp] theorem setEmpty_trained (s : State) (a : Nat) : (setEmpty s a).trained = s.trained := rfl
@[simp] theorem setEmpty_groups (s : State) (a : Nat) : (setEmpty s a).groups = s.groups := rfl
@[simp] theorem setEmpty_sendqs (s : State) (a : Nat) : (setEmpty s a).sendqs = s.sendqs := rfl
@[simp] theorem setEmpty_streams (s : State) (a : Nat) : (setEmpty s a).streams = s.streams := rfl
@[simp] theorem setEmpty_attestUsed (s : State) (a : Nat) : (setEmpty s a).attestUsed = s.attestUsed := rfl
@[simp] theorem setEmpty_ownerRing (s : State) (a : Nat) : (setEmpty s a).ownerRing = s.ownerRing := rfl
@[simp] theorem setEmpty_outbox (s : State) (a : Nat) : (setEmpty s a).outbox = s.outbox := rfl
@[simp] theorem setEmpty_cur (s : State) (a : Nat) : (setEmpty s a).cur = s.cur := rfl
@[simp] theorem setEmpty_sched (s : State) (a : Nat) : (setEmpty s a).sched = s.sched := rfl
@[simp] theorem setEmpty_nextId (s : State) (a : Nat) : (setEmpty s a).nextId = s.nextId := rfl
@[simp] theorem setEmpty_net (s : State) (a : Nat) : (setEmpty s a).net = s.net := rfl
@[simp] theorem setEmpty_reqWait (s : State) (a : Nat) : (setEmpty s a).reqWait = s.reqWait := rfl
@[simp] theorem setEmpty_fabricKey (s : State) (a : Nat) : (setEmpty s a).fabricKey = s.fabricKey := rfl
@[simp] theorem setEmpty_dieLinks (s : State) (a : Nat) : (setEmpty s a).dieLinks = s.dieLinks := rfl
@[simp] theorem setEmpty_stacksBasic (s : State) (a : Nat) : (setEmpty s a).stacksBasic = s.stacksBasic := rfl
@[simp] theorem setEmpty_stacksFine (s : State) (a : Nat) : (setEmpty s a).stacksFine = s.stacksFine := rfl
@[simp] theorem setEmpty_unreported (s : State) (a : Nat) : (setEmpty s a).unreported = s.unreported := rfl

/-! ### dropAcc -/

@[simp] theorem dropAcc_clk (s : State) (n : Nat) : (dropAcc s n).clk = s.clk := rfl
@[simp] theorem dropAcc_mem (s : State) (n : Nat) : (dropAcc s n).mem = s.mem := rfl
@[simp] theorem dropAcc_empties (s : State) (n : Nat) : (dropAcc s n).empties = s.empties := rfl
@[simp] theorem dropAcc_poison (s : State) (n : Nat) : (dropAcc s n).poison = s.poison := rfl
@[simp] theorem dropAcc_cores (s : State) (n : Nat) : (dropAcc s n).cores = s.cores := rfl
@[simp] theorem dropAcc_flights (s : State) (n : Nat) : (dropAcc s n).flights = s.flights := rfl
@[simp] theorem dropAcc_regions (s : State) (n : Nat) : (dropAcc s n).regions = s.regions := rfl
@[simp] theorem dropAcc_regionSize (s : State) (n : Nat) : (dropAcc s n).regionSize = s.regionSize := rfl
@[simp] theorem dropAcc_burnt (s : State) (n : Nat) : (dropAcc s n).burnt = s.burnt := rfl
@[simp] theorem dropAcc_methods (s : State) (n : Nat) : (dropAcc s n).methods = s.methods := rfl
@[simp] theorem dropAcc_images (s : State) (n : Nat) : (dropAcc s n).images = s.images := rfl
@[simp] theorem dropAcc_sealed (s : State) (n : Nat) : (dropAcc s n).sealed = s.sealed := rfl
@[simp] theorem dropAcc_transCount (s : State) (n : Nat) : (dropAcc s n).transCount = s.transCount := rfl
@[simp] theorem dropAcc_domains (s : State) (n : Nat) : (dropAcc s n).domains = s.domains := rfl
@[simp] theorem dropAcc_revSeq (s : State) (n : Nat) : (dropAcc s n).revSeq = s.revSeq := rfl
@[simp] theorem dropAcc_revVers (s : State) (n : Nat) : (dropAcc s n).revVers = s.revVers := rfl
@[simp] theorem dropAcc_tenants (s : State) (n : Nat) : (dropAcc s n).tenants = s.tenants := rfl
@[simp] theorem dropAcc_partOrder (s : State) (n : Nat) : (dropAcc s n).partOrder = s.partOrder := rfl
@[simp] theorem dropAcc_fenceWaits (s : State) (n : Nat) : (dropAcc s n).fenceWaits = s.fenceWaits := rfl
@[simp] theorem dropAcc_tasks (s : State) (n : Nat) : (dropAcc s n).tasks = s.tasks := rfl
@[simp] theorem dropAcc_slotUse (s : State) (n : Nat) : (dropAcc s n).slotUse = s.slotUse := rfl
@[simp] theorem dropAcc_accepted (s : State) (n : Nat) : (dropAcc s n).accepted = s.accepted := rfl
@[simp] theorem dropAcc_reqs (s : State) (n : Nat) : (dropAcc s n).reqs = s.reqs := rfl
@[simp] theorem dropAcc_saves (s : State) (n : Nat) : (dropAcc s n).saves = s.saves := rfl
@[simp] theorem dropAcc_keys (s : State) (n : Nat) : (dropAcc s n).keys = s.keys := rfl
@[simp] theorem dropAcc_owner (s : State) (n : Nat) : (dropAcc s n).owner = s.owner := rfl
@[simp] theorem dropAcc_handover (s : State) (n : Nat) : (dropAcc s n).handover = s.handover := rfl
@[simp] theorem dropAcc_ownerSeen (s : State) (n : Nat) : (dropAcc s n).ownerSeen = s.ownerSeen := rfl
@[simp] theorem dropAcc_service (s : State) (n : Nat) : (dropAcc s n).service = s.service := rfl
@[simp] theorem dropAcc_dieOk (s : State) (n : Nat) : (dropAcc s n).dieOk = s.dieOk := rfl
@[simp] theorem dropAcc_tested (s : State) (n : Nat) : (dropAcc s n).tested = s.tested := rfl
@[simp] theorem dropAcc_switching (s : State) (n : Nat) : (dropAcc s n).switching = s.switching := rfl
@[simp] theorem dropAcc_disabled (s : State) (n : Nat) : (dropAcc s n).disabled = s.disabled := rfl
@[simp] theorem dropAcc_retired (s : State) (n : Nat) : (dropAcc s n).retired = s.retired := rfl
@[simp] theorem dropAcc_retiring (s : State) (n : Nat) : (dropAcc s n).retiring = s.retiring := rfl
@[simp] theorem dropAcc_chanRetired (s : State) (n : Nat) : (dropAcc s n).chanRetired = s.chanRetired := rfl
@[simp] theorem dropAcc_chanPending (s : State) (n : Nat) : (dropAcc s n).chanPending = s.chanPending := rfl
@[simp] theorem dropAcc_chanTold (s : State) (n : Nat) : (dropAcc s n).chanTold = s.chanTold := rfl
@[simp] theorem dropAcc_order (s : State) (n : Nat) : (dropAcc s n).order = s.order := rfl
@[simp] theorem dropAcc_mgmt (s : State) (n : Nat) : (dropAcc s n).mgmt = s.mgmt := rfl
@[simp] theorem dropAcc_eventSeq (s : State) (n : Nat) : (dropAcc s n).eventSeq = s.eventSeq := rfl
@[simp] theorem dropAcc_powerCap (s : State) (n : Nat) : (dropAcc s n).powerCap = s.powerCap := rfl
@[simp] theorem dropAcc_powerLast (s : State) (n : Nat) : (dropAcc s n).powerLast = s.powerLast := rfl
@[simp] theorem dropAcc_throttled (s : State) (n : Nat) : (dropAcc s n).throttled = s.throttled := rfl
@[simp] theorem dropAcc_split (s : State) (n : Nat) : (dropAcc s n).split = s.split := rfl
@[simp] theorem dropAcc_splitPending (s : State) (n : Nat) : (dropAcc s n).splitPending = s.splitPending := rfl
@[simp] theorem dropAcc_trained (s : State) (n : Nat) : (dropAcc s n).trained = s.trained := rfl
@[simp] theorem dropAcc_groups (s : State) (n : Nat) : (dropAcc s n).groups = s.groups := rfl
@[simp] theorem dropAcc_sendqs (s : State) (n : Nat) : (dropAcc s n).sendqs = s.sendqs := rfl
@[simp] theorem dropAcc_streams (s : State) (n : Nat) : (dropAcc s n).streams = s.streams := rfl
@[simp] theorem dropAcc_attestUsed (s : State) (n : Nat) : (dropAcc s n).attestUsed = s.attestUsed := rfl
@[simp] theorem dropAcc_ownerRing (s : State) (n : Nat) : (dropAcc s n).ownerRing = s.ownerRing := rfl
@[simp] theorem dropAcc_outbox (s : State) (n : Nat) : (dropAcc s n).outbox = s.outbox := rfl
@[simp] theorem dropAcc_cur (s : State) (n : Nat) : (dropAcc s n).cur = s.cur := rfl
@[simp] theorem dropAcc_sched (s : State) (n : Nat) : (dropAcc s n).sched = s.sched := rfl
@[simp] theorem dropAcc_nextId (s : State) (n : Nat) : (dropAcc s n).nextId = s.nextId := rfl
@[simp] theorem dropAcc_net (s : State) (n : Nat) : (dropAcc s n).net = s.net := rfl
@[simp] theorem dropAcc_reqWait (s : State) (n : Nat) : (dropAcc s n).reqWait = s.reqWait := rfl
@[simp] theorem dropAcc_fabricKey (s : State) (n : Nat) : (dropAcc s n).fabricKey = s.fabricKey := rfl
@[simp] theorem dropAcc_dieLinks (s : State) (n : Nat) : (dropAcc s n).dieLinks = s.dieLinks := rfl
@[simp] theorem dropAcc_stacksBasic (s : State) (n : Nat) : (dropAcc s n).stacksBasic = s.stacksBasic := rfl
@[simp] theorem dropAcc_stacksFine (s : State) (n : Nat) : (dropAcc s n).stacksFine = s.stacksFine := rfl
@[simp] theorem dropAcc_unreported (s : State) (n : Nat) : (dropAcc s n).unreported = s.unreported := rfl

/-! ### updAcc -/

@[simp] theorem updAcc_clk (s : State) (n : Nat) (f : Access → Access) : (updAcc s n f).clk = s.clk := rfl
@[simp] theorem updAcc_mem (s : State) (n : Nat) (f : Access → Access) : (updAcc s n f).mem = s.mem := rfl
@[simp] theorem updAcc_empties (s : State) (n : Nat) (f : Access → Access) : (updAcc s n f).empties = s.empties := rfl
@[simp] theorem updAcc_poison (s : State) (n : Nat) (f : Access → Access) : (updAcc s n f).poison = s.poison := rfl
@[simp] theorem updAcc_waiters (s : State) (n : Nat) (f : Access → Access) : (updAcc s n f).waiters = s.waiters := rfl
@[simp] theorem updAcc_cores (s : State) (n : Nat) (f : Access → Access) : (updAcc s n f).cores = s.cores := rfl
@[simp] theorem updAcc_flights (s : State) (n : Nat) (f : Access → Access) : (updAcc s n f).flights = s.flights := rfl
@[simp] theorem updAcc_regions (s : State) (n : Nat) (f : Access → Access) : (updAcc s n f).regions = s.regions := rfl
@[simp] theorem updAcc_regionSize (s : State) (n : Nat) (f : Access → Access) : (updAcc s n f).regionSize = s.regionSize := rfl
@[simp] theorem updAcc_burnt (s : State) (n : Nat) (f : Access → Access) : (updAcc s n f).burnt = s.burnt := rfl
@[simp] theorem updAcc_methods (s : State) (n : Nat) (f : Access → Access) : (updAcc s n f).methods = s.methods := rfl
@[simp] theorem updAcc_images (s : State) (n : Nat) (f : Access → Access) : (updAcc s n f).images = s.images := rfl
@[simp] theorem updAcc_sealed (s : State) (n : Nat) (f : Access → Access) : (updAcc s n f).sealed = s.sealed := rfl
@[simp] theorem updAcc_transCount (s : State) (n : Nat) (f : Access → Access) : (updAcc s n f).transCount = s.transCount := rfl
@[simp] theorem updAcc_domains (s : State) (n : Nat) (f : Access → Access) : (updAcc s n f).domains = s.domains := rfl
@[simp] theorem updAcc_revSeq (s : State) (n : Nat) (f : Access → Access) : (updAcc s n f).revSeq = s.revSeq := rfl
@[simp] theorem updAcc_revVers (s : State) (n : Nat) (f : Access → Access) : (updAcc s n f).revVers = s.revVers := rfl
@[simp] theorem updAcc_tenants (s : State) (n : Nat) (f : Access → Access) : (updAcc s n f).tenants = s.tenants := rfl
@[simp] theorem updAcc_partOrder (s : State) (n : Nat) (f : Access → Access) : (updAcc s n f).partOrder = s.partOrder := rfl
@[simp] theorem updAcc_fenceWaits (s : State) (n : Nat) (f : Access → Access) : (updAcc s n f).fenceWaits = s.fenceWaits := rfl
@[simp] theorem updAcc_tasks (s : State) (n : Nat) (f : Access → Access) : (updAcc s n f).tasks = s.tasks := rfl
@[simp] theorem updAcc_slotUse (s : State) (n : Nat) (f : Access → Access) : (updAcc s n f).slotUse = s.slotUse := rfl
@[simp] theorem updAcc_accepted (s : State) (n : Nat) (f : Access → Access) : (updAcc s n f).accepted = s.accepted := rfl
@[simp] theorem updAcc_reqs (s : State) (n : Nat) (f : Access → Access) : (updAcc s n f).reqs = s.reqs := rfl
@[simp] theorem updAcc_saves (s : State) (n : Nat) (f : Access → Access) : (updAcc s n f).saves = s.saves := rfl
@[simp] theorem updAcc_keys (s : State) (n : Nat) (f : Access → Access) : (updAcc s n f).keys = s.keys := rfl
@[simp] theorem updAcc_owner (s : State) (n : Nat) (f : Access → Access) : (updAcc s n f).owner = s.owner := rfl
@[simp] theorem updAcc_handover (s : State) (n : Nat) (f : Access → Access) : (updAcc s n f).handover = s.handover := rfl
@[simp] theorem updAcc_ownerSeen (s : State) (n : Nat) (f : Access → Access) : (updAcc s n f).ownerSeen = s.ownerSeen := rfl
@[simp] theorem updAcc_service (s : State) (n : Nat) (f : Access → Access) : (updAcc s n f).service = s.service := rfl
@[simp] theorem updAcc_dieOk (s : State) (n : Nat) (f : Access → Access) : (updAcc s n f).dieOk = s.dieOk := rfl
@[simp] theorem updAcc_tested (s : State) (n : Nat) (f : Access → Access) : (updAcc s n f).tested = s.tested := rfl
@[simp] theorem updAcc_switching (s : State) (n : Nat) (f : Access → Access) : (updAcc s n f).switching = s.switching := rfl
@[simp] theorem updAcc_disabled (s : State) (n : Nat) (f : Access → Access) : (updAcc s n f).disabled = s.disabled := rfl
@[simp] theorem updAcc_retired (s : State) (n : Nat) (f : Access → Access) : (updAcc s n f).retired = s.retired := rfl
@[simp] theorem updAcc_retiring (s : State) (n : Nat) (f : Access → Access) : (updAcc s n f).retiring = s.retiring := rfl
@[simp] theorem updAcc_chanRetired (s : State) (n : Nat) (f : Access → Access) : (updAcc s n f).chanRetired = s.chanRetired := rfl
@[simp] theorem updAcc_chanPending (s : State) (n : Nat) (f : Access → Access) : (updAcc s n f).chanPending = s.chanPending := rfl
@[simp] theorem updAcc_chanTold (s : State) (n : Nat) (f : Access → Access) : (updAcc s n f).chanTold = s.chanTold := rfl
@[simp] theorem updAcc_order (s : State) (n : Nat) (f : Access → Access) : (updAcc s n f).order = s.order := rfl
@[simp] theorem updAcc_mgmt (s : State) (n : Nat) (f : Access → Access) : (updAcc s n f).mgmt = s.mgmt := rfl
@[simp] theorem updAcc_eventSeq (s : State) (n : Nat) (f : Access → Access) : (updAcc s n f).eventSeq = s.eventSeq := rfl
@[simp] theorem updAcc_powerCap (s : State) (n : Nat) (f : Access → Access) : (updAcc s n f).powerCap = s.powerCap := rfl
@[simp] theorem updAcc_powerLast (s : State) (n : Nat) (f : Access → Access) : (updAcc s n f).powerLast = s.powerLast := rfl
@[simp] theorem updAcc_throttled (s : State) (n : Nat) (f : Access → Access) : (updAcc s n f).throttled = s.throttled := rfl
@[simp] theorem updAcc_split (s : State) (n : Nat) (f : Access → Access) : (updAcc s n f).split = s.split := rfl
@[simp] theorem updAcc_splitPending (s : State) (n : Nat) (f : Access → Access) : (updAcc s n f).splitPending = s.splitPending := rfl
@[simp] theorem updAcc_trained (s : State) (n : Nat) (f : Access → Access) : (updAcc s n f).trained = s.trained := rfl
@[simp] theorem updAcc_groups (s : State) (n : Nat) (f : Access → Access) : (updAcc s n f).groups = s.groups := rfl
@[simp] theorem updAcc_sendqs (s : State) (n : Nat) (f : Access → Access) : (updAcc s n f).sendqs = s.sendqs := rfl
@[simp] theorem updAcc_streams (s : State) (n : Nat) (f : Access → Access) : (updAcc s n f).streams = s.streams := rfl
@[simp] theorem updAcc_attestUsed (s : State) (n : Nat) (f : Access → Access) : (updAcc s n f).attestUsed = s.attestUsed := rfl
@[simp] theorem updAcc_ownerRing (s : State) (n : Nat) (f : Access → Access) : (updAcc s n f).ownerRing = s.ownerRing := rfl
@[simp] theorem updAcc_outbox (s : State) (n : Nat) (f : Access → Access) : (updAcc s n f).outbox = s.outbox := rfl
@[simp] theorem updAcc_cur (s : State) (n : Nat) (f : Access → Access) : (updAcc s n f).cur = s.cur := rfl
@[simp] theorem updAcc_sched (s : State) (n : Nat) (f : Access → Access) : (updAcc s n f).sched = s.sched := rfl
@[simp] theorem updAcc_nextId (s : State) (n : Nat) (f : Access → Access) : (updAcc s n f).nextId = s.nextId := rfl
@[simp] theorem updAcc_net (s : State) (n : Nat) (f : Access → Access) : (updAcc s n f).net = s.net := rfl
@[simp] theorem updAcc_reqWait (s : State) (n : Nat) (f : Access → Access) : (updAcc s n f).reqWait = s.reqWait := rfl
@[simp] theorem updAcc_fabricKey (s : State) (n : Nat) (f : Access → Access) : (updAcc s n f).fabricKey = s.fabricKey := rfl
@[simp] theorem updAcc_dieLinks (s : State) (n : Nat) (f : Access → Access) : (updAcc s n f).dieLinks = s.dieLinks := rfl
@[simp] theorem updAcc_stacksBasic (s : State) (n : Nat) (f : Access → Access) : (updAcc s n f).stacksBasic = s.stacksBasic := rfl
@[simp] theorem updAcc_stacksFine (s : State) (n : Nat) (f : Access → Access) : (updAcc s n f).stacksFine = s.stacksFine := rfl
@[simp] theorem updAcc_unreported (s : State) (n : Nat) (f : Access → Access) : (updAcc s n f).unreported = s.unreported := rfl

/-! ### pokeBytes -/

@[simp] theorem pokeBytes_clk (s : State) (a : Nat) (l : List Byte) : (pokeBytes s a l).clk = s.clk := rfl
@[simp] theorem pokeBytes_empties (s : State) (a : Nat) (l : List Byte) : (pokeBytes s a l).empties = s.empties := rfl
@[simp] theorem pokeBytes_waiters (s : State) (a : Nat) (l : List Byte) : (pokeBytes s a l).waiters = s.waiters := rfl
@[simp] theorem pokeBytes_accs (s : State) (a : Nat) (l : List Byte) : (pokeBytes s a l).accs = s.accs := rfl
@[simp] theorem pokeBytes_cores (s : State) (a : Nat) (l : List Byte) : (pokeBytes s a l).cores = s.cores := rfl
@[simp] theorem pokeBytes_flights (s : State) (a : Nat) (l : List Byte) : (pokeBytes s a l).flights = s.flights := rfl
@[simp] theorem pokeBytes_regions (s : State) (a : Nat) (l : List Byte) : (pokeBytes s a l).regions = s.regions := rfl
@[simp] theorem pokeBytes_regionSize (s : State) (a : Nat) (l : List Byte) : (pokeBytes s a l).regionSize = s.regionSize := rfl
@[simp] theorem pokeBytes_burnt (s : State) (a : Nat) (l : List Byte) : (pokeBytes s a l).burnt = s.burnt := rfl
@[simp] theorem pokeBytes_methods (s : State) (a : Nat) (l : List Byte) : (pokeBytes s a l).methods = s.methods := rfl
@[simp] theorem pokeBytes_images (s : State) (a : Nat) (l : List Byte) : (pokeBytes s a l).images = s.images := rfl
@[simp] theorem pokeBytes_sealed (s : State) (a : Nat) (l : List Byte) : (pokeBytes s a l).sealed = s.sealed := rfl
@[simp] theorem pokeBytes_transCount (s : State) (a : Nat) (l : List Byte) : (pokeBytes s a l).transCount = s.transCount := rfl
@[simp] theorem pokeBytes_domains (s : State) (a : Nat) (l : List Byte) : (pokeBytes s a l).domains = s.domains := rfl
@[simp] theorem pokeBytes_revSeq (s : State) (a : Nat) (l : List Byte) : (pokeBytes s a l).revSeq = s.revSeq := rfl
@[simp] theorem pokeBytes_revVers (s : State) (a : Nat) (l : List Byte) : (pokeBytes s a l).revVers = s.revVers := rfl
@[simp] theorem pokeBytes_tenants (s : State) (a : Nat) (l : List Byte) : (pokeBytes s a l).tenants = s.tenants := rfl
@[simp] theorem pokeBytes_partOrder (s : State) (a : Nat) (l : List Byte) : (pokeBytes s a l).partOrder = s.partOrder := rfl
@[simp] theorem pokeBytes_fenceWaits (s : State) (a : Nat) (l : List Byte) : (pokeBytes s a l).fenceWaits = s.fenceWaits := rfl
@[simp] theorem pokeBytes_tasks (s : State) (a : Nat) (l : List Byte) : (pokeBytes s a l).tasks = s.tasks := rfl
@[simp] theorem pokeBytes_slotUse (s : State) (a : Nat) (l : List Byte) : (pokeBytes s a l).slotUse = s.slotUse := rfl
@[simp] theorem pokeBytes_accepted (s : State) (a : Nat) (l : List Byte) : (pokeBytes s a l).accepted = s.accepted := rfl
@[simp] theorem pokeBytes_reqs (s : State) (a : Nat) (l : List Byte) : (pokeBytes s a l).reqs = s.reqs := rfl
@[simp] theorem pokeBytes_saves (s : State) (a : Nat) (l : List Byte) : (pokeBytes s a l).saves = s.saves := rfl
@[simp] theorem pokeBytes_keys (s : State) (a : Nat) (l : List Byte) : (pokeBytes s a l).keys = s.keys := rfl
@[simp] theorem pokeBytes_owner (s : State) (a : Nat) (l : List Byte) : (pokeBytes s a l).owner = s.owner := rfl
@[simp] theorem pokeBytes_handover (s : State) (a : Nat) (l : List Byte) : (pokeBytes s a l).handover = s.handover := rfl
@[simp] theorem pokeBytes_ownerSeen (s : State) (a : Nat) (l : List Byte) : (pokeBytes s a l).ownerSeen = s.ownerSeen := rfl
@[simp] theorem pokeBytes_service (s : State) (a : Nat) (l : List Byte) : (pokeBytes s a l).service = s.service := rfl
@[simp] theorem pokeBytes_dieOk (s : State) (a : Nat) (l : List Byte) : (pokeBytes s a l).dieOk = s.dieOk := rfl
@[simp] theorem pokeBytes_tested (s : State) (a : Nat) (l : List Byte) : (pokeBytes s a l).tested = s.tested := rfl
@[simp] theorem pokeBytes_switching (s : State) (a : Nat) (l : List Byte) : (pokeBytes s a l).switching = s.switching := rfl
@[simp] theorem pokeBytes_disabled (s : State) (a : Nat) (l : List Byte) : (pokeBytes s a l).disabled = s.disabled := rfl
@[simp] theorem pokeBytes_retired (s : State) (a : Nat) (l : List Byte) : (pokeBytes s a l).retired = s.retired := rfl
@[simp] theorem pokeBytes_retiring (s : State) (a : Nat) (l : List Byte) : (pokeBytes s a l).retiring = s.retiring := rfl
@[simp] theorem pokeBytes_chanRetired (s : State) (a : Nat) (l : List Byte) : (pokeBytes s a l).chanRetired = s.chanRetired := rfl
@[simp] theorem pokeBytes_chanPending (s : State) (a : Nat) (l : List Byte) : (pokeBytes s a l).chanPending = s.chanPending := rfl
@[simp] theorem pokeBytes_chanTold (s : State) (a : Nat) (l : List Byte) : (pokeBytes s a l).chanTold = s.chanTold := rfl
@[simp] theorem pokeBytes_order (s : State) (a : Nat) (l : List Byte) : (pokeBytes s a l).order = s.order := rfl
@[simp] theorem pokeBytes_mgmt (s : State) (a : Nat) (l : List Byte) : (pokeBytes s a l).mgmt = s.mgmt := rfl
@[simp] theorem pokeBytes_eventSeq (s : State) (a : Nat) (l : List Byte) : (pokeBytes s a l).eventSeq = s.eventSeq := rfl
@[simp] theorem pokeBytes_powerCap (s : State) (a : Nat) (l : List Byte) : (pokeBytes s a l).powerCap = s.powerCap := rfl
@[simp] theorem pokeBytes_powerLast (s : State) (a : Nat) (l : List Byte) : (pokeBytes s a l).powerLast = s.powerLast := rfl
@[simp] theorem pokeBytes_throttled (s : State) (a : Nat) (l : List Byte) : (pokeBytes s a l).throttled = s.throttled := rfl
@[simp] theorem pokeBytes_split (s : State) (a : Nat) (l : List Byte) : (pokeBytes s a l).split = s.split := rfl
@[simp] theorem pokeBytes_splitPending (s : State) (a : Nat) (l : List Byte) : (pokeBytes s a l).splitPending = s.splitPending := rfl
@[simp] theorem pokeBytes_trained (s : State) (a : Nat) (l : List Byte) : (pokeBytes s a l).trained = s.trained := rfl
@[simp] theorem pokeBytes_groups (s : State) (a : Nat) (l : List Byte) : (pokeBytes s a l).groups = s.groups := rfl
@[simp] theorem pokeBytes_sendqs (s : State) (a : Nat) (l : List Byte) : (pokeBytes s a l).sendqs = s.sendqs := rfl
@[simp] theorem pokeBytes_streams (s : State) (a : Nat) (l : List Byte) : (pokeBytes s a l).streams = s.streams := rfl
@[simp] theorem pokeBytes_attestUsed (s : State) (a : Nat) (l : List Byte) : (pokeBytes s a l).attestUsed = s.attestUsed := rfl
@[simp] theorem pokeBytes_ownerRing (s : State) (a : Nat) (l : List Byte) : (pokeBytes s a l).ownerRing = s.ownerRing := rfl
@[simp] theorem pokeBytes_outbox (s : State) (a : Nat) (l : List Byte) : (pokeBytes s a l).outbox = s.outbox := rfl
@[simp] theorem pokeBytes_cur (s : State) (a : Nat) (l : List Byte) : (pokeBytes s a l).cur = s.cur := rfl
@[simp] theorem pokeBytes_sched (s : State) (a : Nat) (l : List Byte) : (pokeBytes s a l).sched = s.sched := rfl
@[simp] theorem pokeBytes_nextId (s : State) (a : Nat) (l : List Byte) : (pokeBytes s a l).nextId = s.nextId := rfl
@[simp] theorem pokeBytes_net (s : State) (a : Nat) (l : List Byte) : (pokeBytes s a l).net = s.net := rfl
@[simp] theorem pokeBytes_reqWait (s : State) (a : Nat) (l : List Byte) : (pokeBytes s a l).reqWait = s.reqWait := rfl
@[simp] theorem pokeBytes_fabricKey (s : State) (a : Nat) (l : List Byte) : (pokeBytes s a l).fabricKey = s.fabricKey := rfl
@[simp] theorem pokeBytes_dieLinks (s : State) (a : Nat) (l : List Byte) : (pokeBytes s a l).dieLinks = s.dieLinks := rfl
@[simp] theorem pokeBytes_stacksBasic (s : State) (a : Nat) (l : List Byte) : (pokeBytes s a l).stacksBasic = s.stacksBasic := rfl
@[simp] theorem pokeBytes_stacksFine (s : State) (a : Nat) (l : List Byte) : (pokeBytes s a l).stacksFine = s.stacksFine := rfl
@[simp] theorem pokeBytes_unreported (s : State) (a : Nat) (l : List Byte) : (pokeBytes s a l).unreported = s.unreported := rfl

/-! ### turnOf -/

@[simp] theorem turnOf_mem (s : State) (a : Agent) : (turnOf s a).mem = s.mem := rfl
@[simp] theorem turnOf_empties (s : State) (a : Agent) : (turnOf s a).empties = s.empties := rfl
@[simp] theorem turnOf_poison (s : State) (a : Agent) : (turnOf s a).poison = s.poison := rfl
@[simp] theorem turnOf_waiters (s : State) (a : Agent) : (turnOf s a).waiters = s.waiters := rfl
@[simp] theorem turnOf_accs (s : State) (a : Agent) : (turnOf s a).accs = s.accs := rfl
@[simp] theorem turnOf_cores (s : State) (a : Agent) : (turnOf s a).cores = s.cores := rfl
@[simp] theorem turnOf_flights (s : State) (a : Agent) : (turnOf s a).flights = s.flights := rfl
@[simp] theorem turnOf_regions (s : State) (a : Agent) : (turnOf s a).regions = s.regions := rfl
@[simp] theorem turnOf_regionSize (s : State) (a : Agent) : (turnOf s a).regionSize = s.regionSize := rfl
@[simp] theorem turnOf_burnt (s : State) (a : Agent) : (turnOf s a).burnt = s.burnt := rfl
@[simp] theorem turnOf_methods (s : State) (a : Agent) : (turnOf s a).methods = s.methods := rfl
@[simp] theorem turnOf_images (s : State) (a : Agent) : (turnOf s a).images = s.images := rfl
@[simp] theorem turnOf_sealed (s : State) (a : Agent) : (turnOf s a).sealed = s.sealed := rfl
@[simp] theorem turnOf_transCount (s : State) (a : Agent) : (turnOf s a).transCount = s.transCount := rfl
@[simp] theorem turnOf_domains (s : State) (a : Agent) : (turnOf s a).domains = s.domains := rfl
@[simp] theorem turnOf_revSeq (s : State) (a : Agent) : (turnOf s a).revSeq = s.revSeq := rfl
@[simp] theorem turnOf_revVers (s : State) (a : Agent) : (turnOf s a).revVers = s.revVers := rfl
@[simp] theorem turnOf_tenants (s : State) (a : Agent) : (turnOf s a).tenants = s.tenants := rfl
@[simp] theorem turnOf_partOrder (s : State) (a : Agent) : (turnOf s a).partOrder = s.partOrder := rfl
@[simp] theorem turnOf_fenceWaits (s : State) (a : Agent) : (turnOf s a).fenceWaits = s.fenceWaits := rfl
@[simp] theorem turnOf_tasks (s : State) (a : Agent) : (turnOf s a).tasks = s.tasks := rfl
@[simp] theorem turnOf_slotUse (s : State) (a : Agent) : (turnOf s a).slotUse = s.slotUse := rfl
@[simp] theorem turnOf_accepted (s : State) (a : Agent) : (turnOf s a).accepted = s.accepted := rfl
@[simp] theorem turnOf_reqs (s : State) (a : Agent) : (turnOf s a).reqs = s.reqs := rfl
@[simp] theorem turnOf_saves (s : State) (a : Agent) : (turnOf s a).saves = s.saves := rfl
@[simp] theorem turnOf_keys (s : State) (a : Agent) : (turnOf s a).keys = s.keys := rfl
@[simp] theorem turnOf_owner (s : State) (a : Agent) : (turnOf s a).owner = s.owner := rfl
@[simp] theorem turnOf_handover (s : State) (a : Agent) : (turnOf s a).handover = s.handover := rfl
@[simp] theorem turnOf_ownerSeen (s : State) (a : Agent) : (turnOf s a).ownerSeen = s.ownerSeen := rfl
@[simp] theorem turnOf_service (s : State) (a : Agent) : (turnOf s a).service = s.service := rfl
@[simp] theorem turnOf_dieOk (s : State) (a : Agent) : (turnOf s a).dieOk = s.dieOk := rfl
@[simp] theorem turnOf_tested (s : State) (a : Agent) : (turnOf s a).tested = s.tested := rfl
@[simp] theorem turnOf_switching (s : State) (a : Agent) : (turnOf s a).switching = s.switching := rfl
@[simp] theorem turnOf_disabled (s : State) (a : Agent) : (turnOf s a).disabled = s.disabled := rfl
@[simp] theorem turnOf_retired (s : State) (a : Agent) : (turnOf s a).retired = s.retired := rfl
@[simp] theorem turnOf_retiring (s : State) (a : Agent) : (turnOf s a).retiring = s.retiring := rfl
@[simp] theorem turnOf_chanRetired (s : State) (a : Agent) : (turnOf s a).chanRetired = s.chanRetired := rfl
@[simp] theorem turnOf_chanPending (s : State) (a : Agent) : (turnOf s a).chanPending = s.chanPending := rfl
@[simp] theorem turnOf_chanTold (s : State) (a : Agent) : (turnOf s a).chanTold = s.chanTold := rfl
@[simp] theorem turnOf_order (s : State) (a : Agent) : (turnOf s a).order = s.order := rfl
@[simp] theorem turnOf_mgmt (s : State) (a : Agent) : (turnOf s a).mgmt = s.mgmt := rfl
@[simp] theorem turnOf_eventSeq (s : State) (a : Agent) : (turnOf s a).eventSeq = s.eventSeq := rfl
@[simp] theorem turnOf_powerCap (s : State) (a : Agent) : (turnOf s a).powerCap = s.powerCap := rfl
@[simp] theorem turnOf_powerLast (s : State) (a : Agent) : (turnOf s a).powerLast = s.powerLast := rfl
@[simp] theorem turnOf_throttled (s : State) (a : Agent) : (turnOf s a).throttled = s.throttled := rfl
@[simp] theorem turnOf_split (s : State) (a : Agent) : (turnOf s a).split = s.split := rfl
@[simp] theorem turnOf_splitPending (s : State) (a : Agent) : (turnOf s a).splitPending = s.splitPending := rfl
@[simp] theorem turnOf_trained (s : State) (a : Agent) : (turnOf s a).trained = s.trained := rfl
@[simp] theorem turnOf_groups (s : State) (a : Agent) : (turnOf s a).groups = s.groups := rfl
@[simp] theorem turnOf_sendqs (s : State) (a : Agent) : (turnOf s a).sendqs = s.sendqs := rfl
@[simp] theorem turnOf_streams (s : State) (a : Agent) : (turnOf s a).streams = s.streams := rfl
@[simp] theorem turnOf_attestUsed (s : State) (a : Agent) : (turnOf s a).attestUsed = s.attestUsed := rfl
@[simp] theorem turnOf_ownerRing (s : State) (a : Agent) : (turnOf s a).ownerRing = s.ownerRing := rfl
@[simp] theorem turnOf_outbox (s : State) (a : Agent) : (turnOf s a).outbox = s.outbox := rfl
@[simp] theorem turnOf_sched (s : State) (a : Agent) : (turnOf s a).sched = s.sched := rfl
@[simp] theorem turnOf_nextId (s : State) (a : Agent) : (turnOf s a).nextId = s.nextId := rfl
@[simp] theorem turnOf_net (s : State) (a : Agent) : (turnOf s a).net = s.net := rfl
@[simp] theorem turnOf_reqWait (s : State) (a : Agent) : (turnOf s a).reqWait = s.reqWait := rfl
@[simp] theorem turnOf_fabricKey (s : State) (a : Agent) : (turnOf s a).fabricKey = s.fabricKey := rfl
@[simp] theorem turnOf_dieLinks (s : State) (a : Agent) : (turnOf s a).dieLinks = s.dieLinks := rfl
@[simp] theorem turnOf_stacksBasic (s : State) (a : Agent) : (turnOf s a).stacksBasic = s.stacksBasic := rfl
@[simp] theorem turnOf_stacksFine (s : State) (a : Agent) : (turnOf s a).stacksFine = s.stacksFine := rfl
@[simp] theorem turnOf_unreported (s : State) (a : Agent) : (turnOf s a).unreported = s.unreported := rfl

/-! ### updTask -/

@[simp] theorem updTask_clk (s : State) (k : Nat) (f : Task → Task) : (updTask s k f).clk = s.clk := by unfold updTask; split <;> rfl
@[simp] theorem updTask_mem (s : State) (k : Nat) (f : Task → Task) : (updTask s k f).mem = s.mem := by unfold updTask; split <;> rfl
@[simp] theorem updTask_empties (s : State) (k : Nat) (f : Task → Task) : (updTask s k f).empties = s.empties := by unfold updTask; split <;> rfl
@[simp] theorem updTask_poison (s : State) (k : Nat) (f : Task → Task) : (updTask s k f).poison = s.poison := by unfold updTask; split <;> rfl
@[simp] theorem updTask_waiters (s : State) (k : Nat) (f : Task → Task) : (updTask s k f).waiters = s.waiters := by unfold updTask; split <;> rfl
@[simp] theorem updTask_accs (s : State) (k : Nat) (f : Task → Task) : (updTask s k f).accs = s.accs := by unfold updTask; split <;> rfl
@[simp] theorem updTask_cores (s : State) (k : Nat) (f : Task → Task) : (updTask s k f).cores = s.cores := by unfold updTask; split <;> rfl
@[simp] theorem updTask_flights (s : State) (k : Nat) (f : Task → Task) : (updTask s k f).flights = s.flights := by unfold updTask; split <;> rfl
@[simp] theorem updTask_regions (s : State) (k : Nat) (f : Task → Task) : (updTask s k f).regions = s.regions := by unfold updTask; split <;> rfl
@[simp] theorem updTask_regionSize (s : State) (k : Nat) (f : Task → Task) : (updTask s k f).regionSize = s.regionSize := by unfold updTask; split <;> rfl
@[simp] theorem updTask_burnt (s : State) (k : Nat) (f : Task → Task) : (updTask s k f).burnt = s.burnt := by unfold updTask; split <;> rfl
@[simp] theorem updTask_methods (s : State) (k : Nat) (f : Task → Task) : (updTask s k f).methods = s.methods := by unfold updTask; split <;> rfl
@[simp] theorem updTask_images (s : State) (k : Nat) (f : Task → Task) : (updTask s k f).images = s.images := by unfold updTask; split <;> rfl
@[simp] theorem updTask_sealed (s : State) (k : Nat) (f : Task → Task) : (updTask s k f).sealed = s.sealed := by unfold updTask; split <;> rfl
@[simp] theorem updTask_transCount (s : State) (k : Nat) (f : Task → Task) : (updTask s k f).transCount = s.transCount := by unfold updTask; split <;> rfl
@[simp] theorem updTask_domains (s : State) (k : Nat) (f : Task → Task) : (updTask s k f).domains = s.domains := by unfold updTask; split <;> rfl
@[simp] theorem updTask_revSeq (s : State) (k : Nat) (f : Task → Task) : (updTask s k f).revSeq = s.revSeq := by unfold updTask; split <;> rfl
@[simp] theorem updTask_revVers (s : State) (k : Nat) (f : Task → Task) : (updTask s k f).revVers = s.revVers := by unfold updTask; split <;> rfl
@[simp] theorem updTask_tenants (s : State) (k : Nat) (f : Task → Task) : (updTask s k f).tenants = s.tenants := by unfold updTask; split <;> rfl
@[simp] theorem updTask_partOrder (s : State) (k : Nat) (f : Task → Task) : (updTask s k f).partOrder = s.partOrder := by unfold updTask; split <;> rfl
@[simp] theorem updTask_fenceWaits (s : State) (k : Nat) (f : Task → Task) : (updTask s k f).fenceWaits = s.fenceWaits := by unfold updTask; split <;> rfl
@[simp] theorem updTask_slotUse (s : State) (k : Nat) (f : Task → Task) : (updTask s k f).slotUse = s.slotUse := by unfold updTask; split <;> rfl
@[simp] theorem updTask_accepted (s : State) (k : Nat) (f : Task → Task) : (updTask s k f).accepted = s.accepted := by unfold updTask; split <;> rfl
@[simp] theorem updTask_reqs (s : State) (k : Nat) (f : Task → Task) : (updTask s k f).reqs = s.reqs := by unfold updTask; split <;> rfl
@[simp] theorem updTask_saves (s : State) (k : Nat) (f : Task → Task) : (updTask s k f).saves = s.saves := by unfold updTask; split <;> rfl
@[simp] theorem updTask_keys (s : State) (k : Nat) (f : Task → Task) : (updTask s k f).keys = s.keys := by unfold updTask; split <;> rfl
@[simp] theorem updTask_owner (s : State) (k : Nat) (f : Task → Task) : (updTask s k f).owner = s.owner := by unfold updTask; split <;> rfl
@[simp] theorem updTask_handover (s : State) (k : Nat) (f : Task → Task) : (updTask s k f).handover = s.handover := by unfold updTask; split <;> rfl
@[simp] theorem updTask_ownerSeen (s : State) (k : Nat) (f : Task → Task) : (updTask s k f).ownerSeen = s.ownerSeen := by unfold updTask; split <;> rfl
@[simp] theorem updTask_service (s : State) (k : Nat) (f : Task → Task) : (updTask s k f).service = s.service := by unfold updTask; split <;> rfl
@[simp] theorem updTask_dieOk (s : State) (k : Nat) (f : Task → Task) : (updTask s k f).dieOk = s.dieOk := by unfold updTask; split <;> rfl
@[simp] theorem updTask_tested (s : State) (k : Nat) (f : Task → Task) : (updTask s k f).tested = s.tested := by unfold updTask; split <;> rfl
@[simp] theorem updTask_switching (s : State) (k : Nat) (f : Task → Task) : (updTask s k f).switching = s.switching := by unfold updTask; split <;> rfl
@[simp] theorem updTask_disabled (s : State) (k : Nat) (f : Task → Task) : (updTask s k f).disabled = s.disabled := by unfold updTask; split <;> rfl
@[simp] theorem updTask_retired (s : State) (k : Nat) (f : Task → Task) : (updTask s k f).retired = s.retired := by unfold updTask; split <;> rfl
@[simp] theorem updTask_retiring (s : State) (k : Nat) (f : Task → Task) : (updTask s k f).retiring = s.retiring := by unfold updTask; split <;> rfl
@[simp] theorem updTask_chanRetired (s : State) (k : Nat) (f : Task → Task) : (updTask s k f).chanRetired = s.chanRetired := by unfold updTask; split <;> rfl
@[simp] theorem updTask_chanPending (s : State) (k : Nat) (f : Task → Task) : (updTask s k f).chanPending = s.chanPending := by unfold updTask; split <;> rfl
@[simp] theorem updTask_chanTold (s : State) (k : Nat) (f : Task → Task) : (updTask s k f).chanTold = s.chanTold := by unfold updTask; split <;> rfl
@[simp] theorem updTask_order (s : State) (k : Nat) (f : Task → Task) : (updTask s k f).order = s.order := by unfold updTask; split <;> rfl
@[simp] theorem updTask_mgmt (s : State) (k : Nat) (f : Task → Task) : (updTask s k f).mgmt = s.mgmt := by unfold updTask; split <;> rfl
@[simp] theorem updTask_eventSeq (s : State) (k : Nat) (f : Task → Task) : (updTask s k f).eventSeq = s.eventSeq := by unfold updTask; split <;> rfl
@[simp] theorem updTask_powerCap (s : State) (k : Nat) (f : Task → Task) : (updTask s k f).powerCap = s.powerCap := by unfold updTask; split <;> rfl
@[simp] theorem updTask_powerLast (s : State) (k : Nat) (f : Task → Task) : (updTask s k f).powerLast = s.powerLast := by unfold updTask; split <;> rfl
@[simp] theorem updTask_throttled (s : State) (k : Nat) (f : Task → Task) : (updTask s k f).throttled = s.throttled := by unfold updTask; split <;> rfl
@[simp] theorem updTask_split (s : State) (k : Nat) (f : Task → Task) : (updTask s k f).split = s.split := by unfold updTask; split <;> rfl
@[simp] theorem updTask_splitPending (s : State) (k : Nat) (f : Task → Task) : (updTask s k f).splitPending = s.splitPending := by unfold updTask; split <;> rfl
@[simp] theorem updTask_trained (s : State) (k : Nat) (f : Task → Task) : (updTask s k f).trained = s.trained := by unfold updTask; split <;> rfl
@[simp] theorem updTask_groups (s : State) (k : Nat) (f : Task → Task) : (updTask s k f).groups = s.groups := by unfold updTask; split <;> rfl
@[simp] theorem updTask_sendqs (s : State) (k : Nat) (f : Task → Task) : (updTask s k f).sendqs = s.sendqs := by unfold updTask; split <;> rfl
@[simp] theorem updTask_streams (s : State) (k : Nat) (f : Task → Task) : (updTask s k f).streams = s.streams := by unfold updTask; split <;> rfl
@[simp] theorem updTask_attestUsed (s : State) (k : Nat) (f : Task → Task) : (updTask s k f).attestUsed = s.attestUsed := by unfold updTask; split <;> rfl
@[simp] theorem updTask_ownerRing (s : State) (k : Nat) (f : Task → Task) : (updTask s k f).ownerRing = s.ownerRing := by unfold updTask; split <;> rfl
@[simp] theorem updTask_outbox (s : State) (k : Nat) (f : Task → Task) : (updTask s k f).outbox = s.outbox := by unfold updTask; split <;> rfl
@[simp] theorem updTask_cur (s : State) (k : Nat) (f : Task → Task) : (updTask s k f).cur = s.cur := by unfold updTask; split <;> rfl
@[simp] theorem updTask_sched (s : State) (k : Nat) (f : Task → Task) : (updTask s k f).sched = s.sched := by unfold updTask; split <;> rfl
@[simp] theorem updTask_nextId (s : State) (k : Nat) (f : Task → Task) : (updTask s k f).nextId = s.nextId := by unfold updTask; split <;> rfl

/-! ### mergeFlags -/

@[simp] theorem mergeFlags_clk (s : State) (g sid : Nat) (f : Flags) : (mergeFlags s g sid f).clk = s.clk := by unfold mergeFlags; split <;> rfl
@[simp] theorem mergeFlags_mem (s : State) (g sid : Nat) (f : Flags) : (mergeFlags s g sid f).mem = s.mem := by unfold mergeFlags; split <;> rfl
@[simp] theorem mergeFlags_empties (s : State) (g sid : Nat) (f : Flags) : (mergeFlags s g sid f).empties = s.empties := by unfold mergeFlags; split <;> rfl
@[simp] theorem mergeFlags_poison (s : State) (g sid : Nat) (f : Flags) : (mergeFlags s g sid f).poison = s.poison := by unfold mergeFlags; split <;> rfl
@[simp] theorem mergeFlags_waiters (s : State) (g sid : Nat) (f : Flags) : (mergeFlags s g sid f).waiters = s.waiters := by unfold mergeFlags; split <;> rfl
@[simp] theorem mergeFlags_accs (s : State) (g sid : Nat) (f : Flags) : (mergeFlags s g sid f).accs = s.accs := by unfold mergeFlags; split <;> rfl
@[simp] theorem mergeFlags_flights (s : State) (g sid : Nat) (f : Flags) : (mergeFlags s g sid f).flights = s.flights := by unfold mergeFlags; split <;> rfl
@[simp] theorem mergeFlags_regions (s : State) (g sid : Nat) (f : Flags) : (mergeFlags s g sid f).regions = s.regions := by unfold mergeFlags; split <;> rfl
@[simp] theorem mergeFlags_regionSize (s : State) (g sid : Nat) (f : Flags) : (mergeFlags s g sid f).regionSize = s.regionSize := by unfold mergeFlags; split <;> rfl
@[simp] theorem mergeFlags_burnt (s : State) (g sid : Nat) (f : Flags) : (mergeFlags s g sid f).burnt = s.burnt := by unfold mergeFlags; split <;> rfl
@[simp] theorem mergeFlags_methods (s : State) (g sid : Nat) (f : Flags) : (mergeFlags s g sid f).methods = s.methods := by unfold mergeFlags; split <;> rfl
@[simp] theorem mergeFlags_images (s : State) (g sid : Nat) (f : Flags) : (mergeFlags s g sid f).images = s.images := by unfold mergeFlags; split <;> rfl
@[simp] theorem mergeFlags_sealed (s : State) (g sid : Nat) (f : Flags) : (mergeFlags s g sid f).sealed = s.sealed := by unfold mergeFlags; split <;> rfl
@[simp] theorem mergeFlags_transCount (s : State) (g sid : Nat) (f : Flags) : (mergeFlags s g sid f).transCount = s.transCount := by unfold mergeFlags; split <;> rfl
@[simp] theorem mergeFlags_domains (s : State) (g sid : Nat) (f : Flags) : (mergeFlags s g sid f).domains = s.domains := by unfold mergeFlags; split <;> rfl
@[simp] theorem mergeFlags_revSeq (s : State) (g sid : Nat) (f : Flags) : (mergeFlags s g sid f).revSeq = s.revSeq := by unfold mergeFlags; split <;> rfl
@[simp] theorem mergeFlags_revVers (s : State) (g sid : Nat) (f : Flags) : (mergeFlags s g sid f).revVers = s.revVers := by unfold mergeFlags; split <;> rfl
@[simp] theorem mergeFlags_tenants (s : State) (g sid : Nat) (f : Flags) : (mergeFlags s g sid f).tenants = s.tenants := by unfold mergeFlags; split <;> rfl
@[simp] theorem mergeFlags_partOrder (s : State) (g sid : Nat) (f : Flags) : (mergeFlags s g sid f).partOrder = s.partOrder := by unfold mergeFlags; split <;> rfl
@[simp] theorem mergeFlags_fenceWaits (s : State) (g sid : Nat) (f : Flags) : (mergeFlags s g sid f).fenceWaits = s.fenceWaits := by unfold mergeFlags; split <;> rfl
@[simp] theorem mergeFlags_tasks (s : State) (g sid : Nat) (f : Flags) : (mergeFlags s g sid f).tasks = s.tasks := by unfold mergeFlags; split <;> rfl
@[simp] theorem mergeFlags_slotUse (s : State) (g sid : Nat) (f : Flags) : (mergeFlags s g sid f).slotUse = s.slotUse := by unfold mergeFlags; split <;> rfl
@[simp] theorem mergeFlags_accepted (s : State) (g sid : Nat) (f : Flags) : (mergeFlags s g sid f).accepted = s.accepted := by unfold mergeFlags; split <;> rfl
@[simp] theorem mergeFlags_reqs (s : State) (g sid : Nat) (f : Flags) : (mergeFlags s g sid f).reqs = s.reqs := by unfold mergeFlags; split <;> rfl
@[simp] theorem mergeFlags_saves (s : State) (g sid : Nat) (f : Flags) : (mergeFlags s g sid f).saves = s.saves := by unfold mergeFlags; split <;> rfl
@[simp] theorem mergeFlags_keys (s : State) (g sid : Nat) (f : Flags) : (mergeFlags s g sid f).keys = s.keys := by unfold mergeFlags; split <;> rfl
@[simp] theorem mergeFlags_owner (s : State) (g sid : Nat) (f : Flags) : (mergeFlags s g sid f).owner = s.owner := by unfold mergeFlags; split <;> rfl
@[simp] theorem mergeFlags_handover (s : State) (g sid : Nat) (f : Flags) : (mergeFlags s g sid f).handover = s.handover := by unfold mergeFlags; split <;> rfl
@[simp] theorem mergeFlags_ownerSeen (s : State) (g sid : Nat) (f : Flags) : (mergeFlags s g sid f).ownerSeen = s.ownerSeen := by unfold mergeFlags; split <;> rfl
@[simp] theorem mergeFlags_service (s : State) (g sid : Nat) (f : Flags) : (mergeFlags s g sid f).service = s.service := by unfold mergeFlags; split <;> rfl
@[simp] theorem mergeFlags_dieOk (s : State) (g sid : Nat) (f : Flags) : (mergeFlags s g sid f).dieOk = s.dieOk := by unfold mergeFlags; split <;> rfl
@[simp] theorem mergeFlags_tested (s : State) (g sid : Nat) (f : Flags) : (mergeFlags s g sid f).tested = s.tested := by unfold mergeFlags; split <;> rfl
@[simp] theorem mergeFlags_switching (s : State) (g sid : Nat) (f : Flags) : (mergeFlags s g sid f).switching = s.switching := by unfold mergeFlags; split <;> rfl
@[simp] theorem mergeFlags_disabled (s : State) (g sid : Nat) (f : Flags) : (mergeFlags s g sid f).disabled = s.disabled := by unfold mergeFlags; split <;> rfl
@[simp] theorem mergeFlags_retired (s : State) (g sid : Nat) (f : Flags) : (mergeFlags s g sid f).retired = s.retired := by unfold mergeFlags; split <;> rfl
@[simp] theorem mergeFlags_retiring (s : State) (g sid : Nat) (f : Flags) : (mergeFlags s g sid f).retiring = s.retiring := by unfold mergeFlags; split <;> rfl
@[simp] theorem mergeFlags_chanRetired (s : State) (g sid : Nat) (f : Flags) : (mergeFlags s g sid f).chanRetired = s.chanRetired := by unfold mergeFlags; split <;> rfl
@[simp] theorem mergeFlags_chanPending (s : State) (g sid : Nat) (f : Flags) : (mergeFlags s g sid f).chanPending = s.chanPending := by unfold mergeFlags; split <;> rfl
@[simp] theorem mergeFlags_chanTold (s : State) (g sid : Nat) (f : Flags) : (mergeFlags s g sid f).chanTold = s.chanTold := by unfold mergeFlags; split <;> rfl
@[simp] theorem mergeFlags_order (s : State) (g sid : Nat) (f : Flags) : (mergeFlags s g sid f).order = s.order := by unfold mergeFlags; split <;> rfl
@[simp] theorem mergeFlags_mgmt (s : State) (g sid : Nat) (f : Flags) : (mergeFlags s g sid f).mgmt = s.mgmt := by unfold mergeFlags; split <;> rfl
@[simp] theorem mergeFlags_eventSeq (s : State) (g sid : Nat) (f : Flags) : (mergeFlags s g sid f).eventSeq = s.eventSeq := by unfold mergeFlags; split <;> rfl
@[simp] theorem mergeFlags_powerCap (s : State) (g sid : Nat) (f : Flags) : (mergeFlags s g sid f).powerCap = s.powerCap := by unfold mergeFlags; split <;> rfl
@[simp] theorem mergeFlags_powerLast (s : State) (g sid : Nat) (f : Flags) : (mergeFlags s g sid f).powerLast = s.powerLast := by unfold mergeFlags; split <;> rfl
@[simp] theorem mergeFlags_throttled (s : State) (g sid : Nat) (f : Flags) : (mergeFlags s g sid f).throttled = s.throttled := by unfold mergeFlags; split <;> rfl
@[simp] theorem mergeFlags_split (s : State) (g sid : Nat) (f : Flags) : (mergeFlags s g sid f).split = s.split := by unfold mergeFlags; split <;> rfl
@[simp] theorem mergeFlags_splitPending (s : State) (g sid : Nat) (f : Flags) : (mergeFlags s g sid f).splitPending = s.splitPending := by unfold mergeFlags; split <;> rfl
@[simp] theorem mergeFlags_trained (s : State) (g sid : Nat) (f : Flags) : (mergeFlags s g sid f).trained = s.trained := by unfold mergeFlags; split <;> rfl
@[simp] theorem mergeFlags_groups (s : State) (g sid : Nat) (f : Flags) : (mergeFlags s g sid f).groups = s.groups := by unfold mergeFlags; split <;> rfl
@[simp] theorem mergeFlags_sendqs (s : State) (g sid : Nat) (f : Flags) : (mergeFlags s g sid f).sendqs = s.sendqs := by unfold mergeFlags; split <;> rfl
@[simp] theorem mergeFlags_streams (s : State) (g sid : Nat) (f : Flags) : (mergeFlags s g sid f).streams = s.streams := by unfold mergeFlags; split <;> rfl
@[simp] theorem mergeFlags_attestUsed (s : State) (g sid : Nat) (f : Flags) : (mergeFlags s g sid f).attestUsed = s.attestUsed := by unfold mergeFlags; split <;> rfl
@[simp] theorem mergeFlags_ownerRing (s : State) (g sid : Nat) (f : Flags) : (mergeFlags s g sid f).ownerRing = s.ownerRing := by unfold mergeFlags; split <;> rfl
@[simp] theorem mergeFlags_outbox (s : State) (g sid : Nat) (f : Flags) : (mergeFlags s g sid f).outbox = s.outbox := by unfold mergeFlags; split <;> rfl
@[simp] theorem mergeFlags_cur (s : State) (g sid : Nat) (f : Flags) : (mergeFlags s g sid f).cur = s.cur := by unfold mergeFlags; split <;> rfl
@[simp] theorem mergeFlags_sched (s : State) (g sid : Nat) (f : Flags) : (mergeFlags s g sid f).sched = s.sched := by unfold mergeFlags; split <;> rfl
@[simp] theorem mergeFlags_nextId (s : State) (g sid : Nat) (f : Flags) : (mergeFlags s g sid f).nextId = s.nextId := by unfold mergeFlags; split <;> rfl

/-! ### Strands: setGen and advance -/

@[simp] theorem Strand.setGen_roaming (t : Strand) (r : RCode) (v : Word) : (t.setGen r v).roaming = t.roaming := by unfold Strand.setGen; (repeat' split) <;> rfl
@[simp] theorem Strand.setGen_shapeW (t : Strand) (r : RCode) (v : Word) : (t.setGen r v).shapeW = t.shapeW := by unfold Strand.setGen; (repeat' split) <;> rfl
@[simp] theorem Strand.setGen_shapeV (t : Strand) (r : RCode) (v : Word) : (t.setGen r v).shapeV = t.shapeV := by unfold Strand.setGen; (repeat' split) <;> rfl
@[simp] theorem Strand.setGen_shapeD (t : Strand) (r : RCode) (v : Word) : (t.setGen r v).shapeD = t.shapeD := by unfold Strand.setGen; (repeat' split) <;> rfl
@[simp] theorem Strand.setGen_carry (t : Strand) (r : RCode) (v : Word) : (t.setGen r v).carry = t.carry := by unfold Strand.setGen; (repeat' split) <;> rfl
@[simp] theorem Strand.setGen_gRun (t : Strand) (r : RCode) (v : Word) : (t.setGen r v).gRun = t.gRun := by unfold Strand.setGen; (repeat' split) <;> rfl
@[simp] theorem Strand.setGen_vRun (t : Strand) (r : RCode) (v : Word) : (t.setGen r v).vRun = t.vRun := by unfold Strand.setGen; (repeat' split) <;> rfl
@[simp] theorem Strand.setGen_dRun (t : Strand) (r : RCode) (v : Word) : (t.setGen r v).dRun = t.dRun := by unfold Strand.setGen; (repeat' split) <;> rfl
@[simp] theorem Strand.setGen_tid (t : Strand) (r : RCode) (v : Word) : (t.setGen r v).tid = t.tid := by unfold Strand.setGen; (repeat' split) <;> rfl
@[simp] theorem Strand.setGen_pc (t : Strand) (r : RCode) (v : Word) : (t.setGen r v).pc = t.pc := by unfold Strand.setGen; (repeat' split) <;> rfl
@[simp] theorem Strand.setGen_pred (t : Strand) (r : RCode) (v : Word) : (t.setGen r v).pred = t.pred := by unfold Strand.setGen; (repeat' split) <;> rfl
@[simp] theorem Strand.setGen_xptr (t : Strand) (r : RCode) (v : Word) : (t.setGen r v).xptr = t.xptr := by unfold Strand.setGen; (repeat' split) <;> rfl
@[simp] theorem Strand.setGen_wins (t : Strand) (r : RCode) (v : Word) : (t.setGen r v).wins = t.wins := by unfold Strand.setGen; (repeat' split) <;> rfl
@[simp] theorem Strand.setGen_flags (t : Strand) (r : RCode) (v : Word) : (t.setGen r v).flags = t.flags := by unfold Strand.setGen; (repeat' split) <;> rfl
@[simp] theorem Strand.setGen_rnd (t : Strand) (r : RCode) (v : Word) : (t.setGen r v).rnd = t.rnd := by unfold Strand.setGen; (repeat' split) <;> rfl
@[simp] theorem Strand.setGen_tagc (t : Strand) (r : RCode) (v : Word) : (t.setGen r v).tagc = t.tagc := by unfold Strand.setGen; (repeat' split) <;> rfl
@[simp] theorem Strand.setGen_vregs (t : Strand) (r : RCode) (v : Word) : (t.setGen r v).vregs = t.vregs := by unfold Strand.setGen; (repeat' split) <;> rfl
@[simp] theorem Strand.setGen_dregs (t : Strand) (r : RCode) (v : Word) : (t.setGen r v).dregs = t.dregs := by unfold Strand.setGen; (repeat' split) <;> rfl
@[simp] theorem Strand.setGen_pending (t : Strand) (r : RCode) (v : Word) : (t.setGen r v).pending = t.pending := by unfold Strand.setGen; (repeat' split) <;> rfl
@[simp] theorem Strand.setGen_annul (t : Strand) (r : RCode) (v : Word) : (t.setGen r v).annul = t.annul := by unfold Strand.setGen; (repeat' split) <;> rfl
@[simp] theorem Strand.setGen_hint (t : Strand) (r : RCode) (v : Word) : (t.setGen r v).hint = t.hint := by unfold Strand.setGen; (repeat' split) <;> rfl
@[simp] theorem Strand.setGen_counted (t : Strand) (r : RCode) (v : Word) : (t.setGen r v).counted = t.counted := by unfold Strand.setGen; (repeat' split) <;> rfl
@[simp] theorem Strand.setGen_frames (t : Strand) (r : RCode) (v : Word) : (t.setGen r v).frames = t.frames := by unfold Strand.setGen; (repeat' split) <;> rfl
@[simp] theorem Strand.setGen_wait (t : Strand) (r : RCode) (v : Word) : (t.setGen r v).wait = t.wait := by unfold Strand.setGen; (repeat' split) <;> rfl
@[simp] theorem Strand.setGen_yieldSet (t : Strand) (r : RCode) (v : Word) : (t.setGen r v).yieldSet = t.yieldSet := by unfold Strand.setGen; (repeat' split) <;> rfl
@[simp] theorem Strand.setGen_lastIssue (t : Strand) (r : RCode) (v : Word) : (t.setGen r v).lastIssue = t.lastIssue := by unfold Strand.setGen; (repeat' split) <;> rfl
@[simp] theorem Strand.setGen_moves (t : Strand) (r : RCode) (v : Word) : (t.setGen r v).moves = t.moves := by unfold Strand.setGen; (repeat' split) <;> rfl
@[simp] theorem Strand.setGen_mxFlags (t : Strand) (r : RCode) (v : Word) : (t.setGen r v).mxFlags = t.mxFlags := by unfold Strand.setGen; (repeat' split) <;> rfl
@[simp] theorem Strand.setGen_stopped (t : Strand) (r : RCode) (v : Word) : (t.setGen r v).stopped = t.stopped := by unfold Strand.setGen; (repeat' split) <;> rfl
@[simp] theorem advance_roaming (t : Strand) : (advance t).roaming = t.roaming := by unfold advance; dsimp only; (repeat' split) <;> simp
@[simp] theorem advance_shapeW (t : Strand) : (advance t).shapeW = t.shapeW := by unfold advance; dsimp only; (repeat' split) <;> simp
@[simp] theorem advance_shapeV (t : Strand) : (advance t).shapeV = t.shapeV := by unfold advance; dsimp only; (repeat' split) <;> simp
@[simp] theorem advance_shapeD (t : Strand) : (advance t).shapeD = t.shapeD := by unfold advance; dsimp only; (repeat' split) <;> simp
@[simp] theorem advance_carry (t : Strand) : (advance t).carry = t.carry := by unfold advance; dsimp only; (repeat' split) <;> simp
@[simp] theorem advance_gRun (t : Strand) : (advance t).gRun = t.gRun := by unfold advance; dsimp only; (repeat' split) <;> simp
@[simp] theorem advance_vRun (t : Strand) : (advance t).vRun = t.vRun := by unfold advance; dsimp only; (repeat' split) <;> simp
@[simp] theorem advance_dRun (t : Strand) : (advance t).dRun = t.dRun := by unfold advance; dsimp only; (repeat' split) <;> simp
@[simp] theorem advance_tid (t : Strand) : (advance t).tid = t.tid := by unfold advance; dsimp only; (repeat' split) <;> simp
@[simp] theorem advance_pred (t : Strand) : (advance t).pred = t.pred := by unfold advance; dsimp only; (repeat' split) <;> simp
@[simp] theorem advance_xptr (t : Strand) : (advance t).xptr = t.xptr := by unfold advance; dsimp only; (repeat' split) <;> simp
@[simp] theorem advance_wins (t : Strand) : (advance t).wins = t.wins := by unfold advance; dsimp only; (repeat' split) <;> simp
@[simp] theorem advance_flags (t : Strand) : (advance t).flags = t.flags := by unfold advance; dsimp only; (repeat' split) <;> simp
@[simp] theorem advance_rnd (t : Strand) : (advance t).rnd = t.rnd := by unfold advance; dsimp only; (repeat' split) <;> simp
@[simp] theorem advance_tagc (t : Strand) : (advance t).tagc = t.tagc := by unfold advance; dsimp only; (repeat' split) <;> simp
@[simp] theorem advance_vregs (t : Strand) : (advance t).vregs = t.vregs := by unfold advance; dsimp only; (repeat' split) <;> simp
@[simp] theorem advance_dregs (t : Strand) : (advance t).dregs = t.dregs := by unfold advance; dsimp only; (repeat' split) <;> simp
@[simp] theorem advance_pending (t : Strand) : (advance t).pending = t.pending := by unfold advance; dsimp only; (repeat' split) <;> simp
@[simp] theorem advance_annul (t : Strand) : (advance t).annul = t.annul := by unfold advance; dsimp only; (repeat' split) <;> simp
@[simp] theorem advance_frames (t : Strand) : (advance t).frames = t.frames := by unfold advance; dsimp only; (repeat' split) <;> simp
@[simp] theorem advance_yieldSet (t : Strand) : (advance t).yieldSet = t.yieldSet := by unfold advance; dsimp only; (repeat' split) <;> simp
@[simp] theorem advance_lastIssue (t : Strand) : (advance t).lastIssue = t.lastIssue := by unfold advance; dsimp only; (repeat' split) <;> simp
@[simp] theorem advance_moves (t : Strand) : (advance t).moves = t.moves := by unfold advance; dsimp only; (repeat' split) <;> simp
@[simp] theorem advance_mxFlags (t : Strand) : (advance t).mxFlags = t.mxFlags := by unfold advance; dsimp only; (repeat' split) <;> simp
@[simp] theorem advance_stopped (t : Strand) : (advance t).stopped = t.stopped := by unfold advance; dsimp only; (repeat' split) <;> simp
@[simp] theorem countWord_roaming (t : Strand) : (countWord t).roaming = t.roaming := by unfold countWord; split <;> rfl
@[simp] theorem countWord_shapeW (t : Strand) : (countWord t).shapeW = t.shapeW := by unfold countWord; split <;> rfl
@[simp] theorem countWord_shapeV (t : Strand) : (countWord t).shapeV = t.shapeV := by unfold countWord; split <;> rfl
@[simp] theorem countWord_shapeD (t : Strand) : (countWord t).shapeD = t.shapeD := by unfold countWord; split <;> rfl
@[simp] theorem countWord_carry (t : Strand) : (countWord t).carry = t.carry := by unfold countWord; split <;> rfl
@[simp] theorem countWord_gRun (t : Strand) : (countWord t).gRun = t.gRun := by unfold countWord; split <;> rfl
@[simp] theorem countWord_vRun (t : Strand) : (countWord t).vRun = t.vRun := by unfold countWord; split <;> rfl
@[simp] theorem countWord_dRun (t : Strand) : (countWord t).dRun = t.dRun := by unfold countWord; split <;> rfl
@[simp] theorem countWord_tid (t : Strand) : (countWord t).tid = t.tid := by unfold countWord; split <;> rfl
@[simp] theorem countWord_regs (t : Strand) : (countWord t).regs = t.regs := by unfold countWord; split <;> rfl
@[simp] theorem countWord_lr (t : Strand) : (countWord t).lr = t.lr := by unfold countWord; split <;> rfl
@[simp] theorem countWord_pred (t : Strand) : (countWord t).pred = t.pred := by unfold countWord; split <;> rfl
@[simp] theorem countWord_xptr (t : Strand) : (countWord t).xptr = t.xptr := by unfold countWord; split <;> rfl
@[simp] theorem countWord_wins (t : Strand) : (countWord t).wins = t.wins := by unfold countWord; split <;> rfl
@[simp] theorem countWord_flags (t : Strand) : (countWord t).flags = t.flags := by unfold countWord; split <;> rfl
@[simp] theorem countWord_rnd (t : Strand) : (countWord t).rnd = t.rnd := by unfold countWord; split <;> rfl
@[simp] theorem countWord_tagc (t : Strand) : (countWord t).tagc = t.tagc := by unfold countWord; split <;> rfl
@[simp] theorem countWord_vregs (t : Strand) : (countWord t).vregs = t.vregs := by unfold countWord; split <;> rfl
@[simp] theorem countWord_dregs (t : Strand) : (countWord t).dregs = t.dregs := by unfold countWord; split <;> rfl
@[simp] theorem countWord_hint (t : Strand) : (countWord t).hint = t.hint := by unfold countWord; split <;> rfl
@[simp] theorem countWord_frames (t : Strand) : (countWord t).frames = t.frames := by unfold countWord; split <;> rfl
@[simp] theorem countWord_wait (t : Strand) : (countWord t).wait = t.wait := by unfold countWord; split <;> rfl
@[simp] theorem countWord_yieldSet (t : Strand) : (countWord t).yieldSet = t.yieldSet := by unfold countWord; split <;> rfl
@[simp] theorem countWord_lastIssue (t : Strand) : (countWord t).lastIssue = t.lastIssue := by unfold countWord; split <;> rfl
@[simp] theorem countWord_moves (t : Strand) : (countWord t).moves = t.moves := by unfold countWord; split <;> rfl
@[simp] theorem countWord_mxFlags (t : Strand) : (countWord t).mxFlags = t.mxFlags := by unfold countWord; split <;> rfl
@[simp] theorem countWord_stopped (t : Strand) : (countWord t).stopped = t.stopped := by unfold countWord; split <;> rfl
@[simp] theorem Strand.setP_roaming (t : Strand) (n : Nat) (v : Bool) : (t.setP n v).roaming = t.roaming := by unfold Strand.setP; split <;> rfl
@[simp] theorem Strand.setP_shapeW (t : Strand) (n : Nat) (v : Bool) : (t.setP n v).shapeW = t.shapeW := by unfold Strand.setP; split <;> rfl
@[simp] theorem Strand.setP_shapeV (t : Strand) (n : Nat) (v : Bool) : (t.setP n v).shapeV = t.shapeV := by unfold Strand.setP; split <;> rfl
@[simp] theorem Strand.setP_shapeD (t : Strand) (n : Nat) (v : Bool) : (t.setP n v).shapeD = t.shapeD := by unfold Strand.setP; split <;> rfl
@[simp] theorem Strand.setP_carry (t : Strand) (n : Nat) (v : Bool) : (t.setP n v).carry = t.carry := by unfold Strand.setP; split <;> rfl
@[simp] theorem Strand.setP_gRun (t : Strand) (n : Nat) (v : Bool) : (t.setP n v).gRun = t.gRun := by unfold Strand.setP; split <;> rfl
@[simp] theorem Strand.setP_vRun (t : Strand) (n : Nat) (v : Bool) : (t.setP n v).vRun = t.vRun := by unfold Strand.setP; split <;> rfl
@[simp] theorem Strand.setP_dRun (t : Strand) (n : Nat) (v : Bool) : (t.setP n v).dRun = t.dRun := by unfold Strand.setP; split <;> rfl
@[simp] theorem Strand.setP_tid (t : Strand) (n : Nat) (v : Bool) : (t.setP n v).tid = t.tid := by unfold Strand.setP; split <;> rfl
@[simp] theorem Strand.setP_pc (t : Strand) (n : Nat) (v : Bool) : (t.setP n v).pc = t.pc := by unfold Strand.setP; split <;> rfl
@[simp] theorem Strand.setP_regs (t : Strand) (n : Nat) (v : Bool) : (t.setP n v).regs = t.regs := by unfold Strand.setP; split <;> rfl
@[simp] theorem Strand.setP_lr (t : Strand) (n : Nat) (v : Bool) : (t.setP n v).lr = t.lr := by unfold Strand.setP; split <;> rfl
@[simp] theorem Strand.setP_xptr (t : Strand) (n : Nat) (v : Bool) : (t.setP n v).xptr = t.xptr := by unfold Strand.setP; split <;> rfl
@[simp] theorem Strand.setP_wins (t : Strand) (n : Nat) (v : Bool) : (t.setP n v).wins = t.wins := by unfold Strand.setP; split <;> rfl
@[simp] theorem Strand.setP_flags (t : Strand) (n : Nat) (v : Bool) : (t.setP n v).flags = t.flags := by unfold Strand.setP; split <;> rfl
@[simp] theorem Strand.setP_rnd (t : Strand) (n : Nat) (v : Bool) : (t.setP n v).rnd = t.rnd := by unfold Strand.setP; split <;> rfl
@[simp] theorem Strand.setP_tagc (t : Strand) (n : Nat) (v : Bool) : (t.setP n v).tagc = t.tagc := by unfold Strand.setP; split <;> rfl
@[simp] theorem Strand.setP_vregs (t : Strand) (n : Nat) (v : Bool) : (t.setP n v).vregs = t.vregs := by unfold Strand.setP; split <;> rfl
@[simp] theorem Strand.setP_dregs (t : Strand) (n : Nat) (v : Bool) : (t.setP n v).dregs = t.dregs := by unfold Strand.setP; split <;> rfl
@[simp] theorem Strand.setP_pending (t : Strand) (n : Nat) (v : Bool) : (t.setP n v).pending = t.pending := by unfold Strand.setP; split <;> rfl
@[simp] theorem Strand.setP_annul (t : Strand) (n : Nat) (v : Bool) : (t.setP n v).annul = t.annul := by unfold Strand.setP; split <;> rfl
@[simp] theorem Strand.setP_hint (t : Strand) (n : Nat) (v : Bool) : (t.setP n v).hint = t.hint := by unfold Strand.setP; split <;> rfl
@[simp] theorem Strand.setP_counted (t : Strand) (n : Nat) (v : Bool) : (t.setP n v).counted = t.counted := by unfold Strand.setP; split <;> rfl
@[simp] theorem Strand.setP_frames (t : Strand) (n : Nat) (v : Bool) : (t.setP n v).frames = t.frames := by unfold Strand.setP; split <;> rfl
@[simp] theorem Strand.setP_wait (t : Strand) (n : Nat) (v : Bool) : (t.setP n v).wait = t.wait := by unfold Strand.setP; split <;> rfl
@[simp] theorem Strand.setP_yieldSet (t : Strand) (n : Nat) (v : Bool) : (t.setP n v).yieldSet = t.yieldSet := by unfold Strand.setP; split <;> rfl
@[simp] theorem Strand.setP_lastIssue (t : Strand) (n : Nat) (v : Bool) : (t.setP n v).lastIssue = t.lastIssue := by unfold Strand.setP; split <;> rfl
@[simp] theorem Strand.setP_moves (t : Strand) (n : Nat) (v : Bool) : (t.setP n v).moves = t.moves := by unfold Strand.setP; split <;> rfl
@[simp] theorem Strand.setP_mxFlags (t : Strand) (n : Nat) (v : Bool) : (t.setP n v).mxFlags = t.mxFlags := by unfold Strand.setP; split <;> rfl
@[simp] theorem Strand.setP_stopped (t : Strand) (n : Nat) (v : Bool) : (t.setP n v).stopped = t.stopped := by unfold Strand.setP; split <;> rfl

end Sys2Proof.Machine
end

