-- ==== Sys2Proof/Laws/Agents.lean ====
section
/-! SUPPORT. What the shared operations over cores, strands and tasks do, each said once: reading back what was updated and what stays;
taking an exception; ending a word. -/

namespace Sys2Proof.Machine

/-! ### Cores and strands -/

@[simp] theorem coreAt_updCore_self (s : State) (g : Nat) (f : Core → Core) : coreAt (updCore s g f) g = f (coreAt s g) := by
  simp [coreAt, updCore]

@[simp] theorem coreAt_updCore_ne (s : State) {g h : Nat} (f : Core → Core) (hg : h ≠ g) : coreAt (updCore s g f) h = coreAt s h := by
  simp [coreAt, updCore, hg]

/-- Two updates of one core are one. -/
theorem updCore_updCore (s : State) (g : Nat) (f k : Core → Core) : updCore (updCore s g f) g k = updCore s g fun c => k (f c) := by
  simp [updCore, coreAt]

/-- Two updates of one strand are one. -/
theorem updStrand_updStrand (s : State) (g sid : Nat) (f k : Strand → Strand) :
    updStrand (updStrand s g sid f) g sid k = updStrand s g sid fun t => k (f t) := by
  simp only [updStrand, updCore_updCore]
  congr 1
  funext c
  cases h : kget? c.strands sid <;> simp [h]

@[simp] theorem coreAt_updStrand_ne (s : State) {g h : Nat} (sid : Nat) (f : Strand → Strand) (hg : h ≠ g) :
    coreAt (updStrand s g sid f) h = coreAt s h := coreAt_updCore_ne s _ hg

/-- The core of an updated strand: its strands, and nothing else, may differ. -/
theorem coreAt_updStrand_self (s : State) (g sid : Nat) (f : Strand → Strand) :
    coreAt (updStrand s g sid f) g = { coreAt s g with strands := match strandAt? s g sid with
      | none => (coreAt s g).strands
      | some t => kset (coreAt s g).strands sid (f t) } := by
  simp only [updStrand, coreAt_updCore_self, strandAt?]
  cases kget? (coreAt s g).strands sid <;> rfl

/-- The updated strand. -/
@[simp] theorem strandAt?_updStrand_self (s : State) (g sid : Nat) (f : Strand → Strand) :
    strandAt? (updStrand s g sid f) g sid = (strandAt? s g sid).map f := by
  simp only [strandAt?, updStrand, coreAt_updCore_self]
  cases h : kget? (coreAt s g).strands sid <;> simp [h]

/-- Every other strand. -/
theorem strandAt?_updStrand_ne (s : State) {g sid h q : Nat} (f : Strand → Strand) (hne : ¬(h = g ∧ q = sid)) :
    strandAt? (updStrand s g sid f) h q = strandAt? s h q := by
  by_cases hg : h = g
  · subst hg
    have hq : q ≠ sid := fun e => hne ⟨rfl, e⟩
    simp only [strandAt?, updStrand, coreAt_updCore_self]
    cases kget? (coreAt s h).strands sid <;> simp [hq]
  · simp [strandAt?, hg]

/-- The fields of a core that an update of a strand leaves. -/
@[simp] theorem coreAt_updStrand_task (s : State) (g sid h : Nat) (f : Strand → Strand) :
    (coreAt (updStrand s g sid f) h).task = (coreAt s h).task := by
  by_cases hg : h = g
  · subst hg; rw [coreAt_updStrand_self]
  · rw [coreAt_updStrand_ne s sid f hg]

@[simp] theorem coreAt_updStrand_lock (s : State) (g sid h : Nat) (f : Strand → Strand) :
    (coreAt (updStrand s g sid f) h).lock = (coreAt s h).lock := by
  by_cases hg : h = g
  · subst hg; rw [coreAt_updStrand_self]
  · rw [coreAt_updStrand_ne s sid f hg]

/-- What an address's being a hole rests on: the retired channels, the disabled and retired clusters, and which cores hold tasks and lock-step pairs. -/
theorem holeAt_congr {s t : State} (hc : t.chanRetired = s.chanRetired) (hd : t.disabled = s.disabled) (hr : t.retired = s.retired)
    (ht : ∀ g, (coreAt t g).task.isSome = (coreAt s g).task.isSome) (hl : ∀ g, lockHeld t g = lockHeld s g) (a : Nat) : holeAt t a = holeAt s a := by
  have h3 : ∀ h, coreDisabled t h = coreDisabled s h := fun h => by unfold coreDisabled; rw [hd, hr]
  have h4 : allocTop t = allocTop s := by unfold allocTop; rw [hc]
  unfold holeAt
  rw [hc, h4]
  split
  · rfl
  · split
    · rfl
    · dsimp only; rw [ht, hl, h3]

/-- A byte read rests on memory and on what is a hole. -/
theorem readByte_congr {s t : State} (hm : t.mem = s.mem) (hh : ∀ a, holeAt t a = holeAt s a) (a : Nat) : readByte t a = readByte s a := by
  unfold readByte; simp only [hh, hm]

/-- An update of a strand opens no hole and closes none. -/
@[simp] theorem holeAt_updStrand (s : State) (g sid : Nat) (f : Strand → Strand) (a : Nat) : holeAt (updStrand s g sid f) a = holeAt s a :=
  holeAt_congr (s := s) (t := updStrand s g sid f) rfl rfl rfl (by simp) (by simp [lockHeld]) a

/-- An update of a strand leaves every byte as an access reads it. -/
@[simp] theorem readByte_updStrand (s : State) (g sid : Nat) (f : Strand → Strand) (a : Nat) : readByte (updStrand s g sid f) a = readByte s a := by
  simp [readByte]

@[simp] theorem readBytes_updStrand (s : State) (g sid : Nat) (f : Strand → Strand) (n : Nat) : ∀ a, readBytes (updStrand s g sid f) a n = readBytes s a n := by
  induction n with
  | zero => intro a; rfl
  | succ n ih => intro a; simp [readBytes, ih]

@[simp] theorem readVal_updStrand (s : State) (g sid : Nat) (f : Strand → Strand) (a n : Nat) : readVal (updStrand s g sid f) a n = readVal s a n := by
  simp [readVal]

/-! ### The issuer -/

/-- What it is to be the issuer. -/
theorem issuer?_eq_some {s : State} {x : Iss} (h : issuer? s = some x) :
    x.g = s.cur.gcn ∧ x.sid = s.cur.slot ∧ x.c = coreAt s x.g ∧ strandAt? s x.g x.sid = some x.t ∧ x.t.stopped = false := by
  unfold issuer? at h
  dsimp only at h
  split at h
  · cases h
  · next t ht =>
    split at h
    · cases h
    · next hs =>
      injection h with h
      subst h
      simp only [Bool.or_eq_true, not_or, Bool.not_eq_true] at hs
      exact ⟨rfl, rfl, rfl, ht, hs.1⟩

/-! ### Tasks -/

@[simp] theorem tasks_updTask_self (s : State) (k : Nat) (f : Task → Task) : kget? (updTask s k f).tasks k = (kget? s.tasks k).map f := by
  unfold updTask
  cases h : kget? s.tasks k <;> simp [h]

@[simp] theorem coreAt_updTask (s : State) (k : Nat) (f : Task → Task) (g : Nat) : coreAt (updTask s k f) g = coreAt s g := by simp [coreAt]

@[simp] theorem strandAt?_updTask (s : State) (k : Nat) (f : Task → Task) (g sid : Nat) : strandAt? (updTask s k f) g sid = strandAt? s g sid := by
  simp [strandAt?]

@[simp] theorem tasks_updTask_ne (s : State) {k q : Nat} (f : Task → Task) (h : q ≠ k) : kget? (updTask s k f).tasks q = kget? s.tasks q := by
  unfold updTask
  cases kget? s.tasks k <;> simp [h]

/-! ### Taking an exception (R122, R123) -/

/-- A raised fault stops its strand. -/
theorem strandAt?_raiseFault (s : State) (g sid : Nat) (f : FaultInfo) :
    strandAt? (raiseFault s g sid f) g sid = (strandAt? s g sid).map fun t => { t with stopped := true } := by
  simp only [raiseFault]
  cases (coreAt (updStrand s g sid fun t => { t with stopped := true }) g).task <;> simp

/-- A raised fault is the last of its task's faults. -/
theorem tasks_raiseFault {s : State} {g sid k : Nat} (f : FaultInfo) (hk : (coreAt s g).task = some k) :
    kget? (raiseFault s g sid f).tasks k = (kget? s.tasks k).map fun u => { u with faults := u.faults ++ [f] } := by
  simp [raiseFault, hk]

/-- Taking an exception changes nothing but its strand and its task's faults. -/
theorem raiseFault_frame (s : State) (g sid : Nat) (f : FaultInfo) :
    raiseFault s g sid f = { s with cores := (updStrand s g sid fun t => { t with stopped := true }).cores, tasks := (raiseFault s g sid f).tasks } := by
  simp only [raiseFault]
  cases (coreAt (updStrand s g sid fun t => { t with stopped := true }) g).task with
  | none => rfl
  | some k => simp only [updTask]; split <;> rfl

/-! ### Ending a word -/

/-- A completed word's strand. -/
@[simp] theorem strandAt?_retire (s : State) (x : Iss) : strandAt? (retire s x) x.g x.sid = (strandAt? s x.g x.sid).map advance :=
  strandAt?_updStrand_self s x.g x.sid advance

/-- An image noted as reached changes no strand. -/
@[simp] theorem strandAt?_noteReached (s : State) (g : Nat) (old new : Addr) (h sid : Nat) : strandAt? (noteReached s g old new) h sid = strandAt? s h sid := by
  unfold noteReached
  split
  · rfl
  · split
    · rfl
    · by_cases e : h = g
      · subst e; simp [strandAt?]
      · simp [strandAt?, e]

/-- Within an image nothing is noted. -/
theorem noteReached_same {s : State} {g : Nat} {old new : Addr} (h : imageOf s new.toNat = imageOf s old.toNat) : noteReached s g old new = s := by
  unfold noteReached
  split
  · rfl
  · next p hp => rw [← h, hp]; simp

/-- A strand that jumps. -/
theorem strandAt?_jumpTo (s : State) (x : Iss) (a : Addr) :
    strandAt? (jumpTo s x a) x.g x.sid = (strandAt? s x.g x.sid).map fun t => { t with pc := a, hint := .none, counted := false, wait := none } := by
  unfold jumpTo
  rw [strandAt?_noteReached, strandAt?_updStrand_self]

/-- A strand that waits. -/
theorem strandAt?_waitFor (s : State) (x : Iss) (w : Wait) :
    strandAt? (waitFor s x w) x.g x.sid = (strandAt? s x.g x.sid).map fun t => { t with wait := some w } := by
  unfold waitFor
  dsimp only
  split
  · rw [← strandAt?_updStrand_self]
    simp [strandAt?]
  · exact strandAt?_updStrand_self s x.g x.sid _

/-- Merging flags is an update of the strand. -/
theorem mergeFlags_eq (s : State) (g sid : Nat) (f : Flags) (hf : f ≠ 0) :
    mergeFlags s g sid f = updStrand s g sid fun t => { t with flags := t.flags ||| f } := if_neg hf

/-- A strand after flags were merged. -/
theorem strandAt?_mergeFlags (s : State) (g sid : Nat) (f : Flags) :
    strandAt? (mergeFlags s g sid f) g sid = (strandAt? s g sid).map fun t => { t with flags := t.flags ||| f } := by
  unfold mergeFlags
  split
  · next h => subst h; cases strandAt? s g sid <;> simp
  · simp

/-- A general register that was written reads the value; `zr` reads 0. -/
theorem Strand.gen_setGen_self (t : Strand) (r : RCode) (v : Word) :
    (t.setGen r v).gen r = if r.toNat < 120 ∨ r.toNat = 123 then v else 0 := by
  unfold Strand.setGen Strand.gen
  by_cases h : r.toNat < 120
  · simp [h]
  · by_cases h2 : r.toNat = 123 <;> simp [h, h2]

/-- Writing one general register leaves the others. -/
theorem Strand.gen_setGen_ne (t : Strand) {r q : RCode} (v : Word) (h : q ≠ r) : (t.setGen r v).gen q = t.gen q := by
  have hn : q.toNat ≠ r.toNat := fun e => h (BitVec.eq_of_toNat_eq e)
  unfold Strand.setGen Strand.gen
  by_cases h1 : r.toNat < 120
  · simp [h1, hn]
  · by_cases h2 : r.toNat = 123
    · simp only [h2, if_true]
      by_cases h3 : q.toNat = 123
      · omega
      · simp [h3]
    · simp [h1, h2]

/-! ### Accesses -/

/-- A new access is the last of those in flight, under the next number; its request is sent (R305). -/
theorem newAccess_spec (s : State) (x : Iss) (kind : AccKind) (a : Nat) (data : Word) (v : Vec) (rl : Bool) :
    ∃ c : Access, (newAccess s x kind a data v rl) = (s.nextId, sendRequest { s with nextId := s.nextId + 1, accs := s.accs ++ [c] } c) ∧
      c.id = s.nextId ∧ c.gcn = x.g ∧ c.sid = x.sid ∧ c.kind = kind ∧ c.addr = a ∧ c.data = data ∧ c.vdata = v ∧ c.relaxed = rl ∧
      c.performed = false ∧ c.parked = false ∧ c.refused = false := ⟨_, rfl, rfl, rfl, rfl, rfl, rfl, rfl, rfl, rfl, rfl, rfl, rfl⟩

/-! ### Requests of masters -/

/-- A request that stands alone, of its row's kind, in service, of a master that may make it, gives its own answer (R474, R509, R510). -/
theorem manage_answers {s : State} {h : ReqHdr} {kind : Nat} {owned : Bool} {k : State → Option Answer} {a : Answer}
    (hs : inService s = true) (hm : (kget? s.mgmt h.master).isSome = true) (hb : reqBehind s h owned = false) (h0 : h.kind ≠ 0)
    (h15 : h.kind ≤ 15) (hk : h.kind = kind) (ho : owned = true → s.owner = some h.master) (ha : k s = some a) :
    manage s h kind owned k = some (reply { a.1 with reqWait := kdel a.1.reqWait h.master } h a.2.1 a.2.2) := by
  have hh : s.service ≠ .halted := fun e => by simp [inService, e] at hs
  have hn : (kget? s.mgmt h.master).isNone = false := by cases e : kget? s.mgmt h.master <;> simp_all
  have hq : (owned && s.owner != some h.master) = false := by cases owned <;> simp_all
  unfold manage
  simp [hh, hn, hb, hk ▸ h0, Nat.not_lt.mpr (hk ▸ h15), hk, hs, hq, ha]

/-- Under a header that names its tenant and first argument a request is as its row performs it (R509). -/
theorem manageOn_agrees {s : State} {h : ReqHdr} {kind : Nat} {owned : Bool} {tn an : Option Nat} {k : State → Option Answer}
    (e : headerAgrees h tn an = true) : manageOn s h kind owned tn an k = manage s h kind owned k := by
  simp [manageOn, e]

/-- Under one that names another it is refused (R509, log entry 98). -/
theorem manageOn_differs {s : State} {h : ReqHdr} {kind : Nat} {owned : Bool} {tn an : Option Nat} {k : State → Option Answer}
    (e : headerAgrees h tn an = false) : manageOn s h kind owned tn an k = manage s h kind owned fun s => some (refuse s) := by
  simp [manageOn, e]

/-- What a header must name. -/
theorem headerAgrees_iff (h : ReqHdr) (tn an : Option Nat) :
    headerAgrees h tn an = true ↔ (∀ x, tn = some x → h.tenant = x) ∧ ∀ x, an = some x → h.arg = BitVec.ofNat 64 x := by
  cases tn <;> cases an <;> simp [headerAgrees, w64]

end Sys2Proof.Machine
end

