-- ==== Sys2Proof/Laws/Memory.lean ====
section
/-! SUPPORT. The laws of memory: a byte written is read back and the others stay, every memory operation keeps the canonical form, and
memories in that form with the same bytes are the same. -/

namespace Sys2Proof.Machine

/-! ### One byte -/

/-- A bound below the keys may be lowered. -/
theorem Memory.above_mono {m n : Nat} : ∀ {l : Memory}, Memory.above n l = true → m ≤ n → Memory.above m l = true
  | [], _, _ => rfl
  | (k, b) :: r, h, hm => by
    simp only [Memory.above, Bool.and_eq_true, decide_eq_true_eq] at *
    exact ⟨by omega, Memory.above_mono h.2 hm⟩

/-- An address at or below the bound of the keys is not listed. -/
theorem Memory.get_of_above {n a : Nat} : ∀ {l : Memory}, Memory.above n l = true → a ≤ n → Memory.get l a = 0
  | [], _, _ => rfl
  | (k, b) :: r, h, ha => by
    simp only [Memory.above, Bool.and_eq_true, decide_eq_true_eq] at h
    simp only [Memory.get, if_neg (show ¬ a = k by omega)]
    exact Memory.get_of_above h.2 ha

/-- A write leaves every other address alone. -/
@[simp] theorem Memory.get_set_ne (m : Memory) {a b : Nat} (v : Byte) (h : b ≠ a) : Memory.get (Memory.set m a v) b = Memory.get m b := by
  induction m with
  | nil => simp only [Memory.set]; split <;> simp [Memory.get, h]
  | cons p r ih =>
    simp only [Memory.set]
    split
    · split
      · rfl
      · simp [Memory.get, h]
    · split
      · next hk => split <;> simp [Memory.get, ← hk, h]
      · simp [Memory.get, ih]

/-- A byte written to a canonical memory is read back. -/
@[simp] theorem Memory.get_set_self {m : Memory} (h : Memory.wf m = true) (a : Nat) (v : Byte) : Memory.get (Memory.set m a v) a = v := by
  induction m with
  | nil => simp only [Memory.set]; split <;> simp_all [Memory.get]
  | cons p r ih =>
    simp only [Memory.wf, Bool.and_eq_true, decide_eq_true_eq] at h
    simp only [Memory.set]
    split
    · next hk =>
      split
      · next hv => rw [hv]; simp only [Memory.get, if_neg (show ¬ a = p.1 by omega)]; exact Memory.get_of_above h.1.2 (by omega)
      · simp [Memory.get]
    · split
      · next h1 h2 =>
        split
        · next hv => rw [hv]; exact Memory.get_of_above h.1.2 (by omega)
        · simp [Memory.get]
      · next h1 h2 => simp only [Memory.get, if_neg h2]; exact ih h.2

/-- A write keeps the keys above a bound below its address. -/
theorem Memory.above_set {m : Memory} {n a : Nat} (v : Byte) (h : Memory.above n m = true) (ha : n < a) : Memory.above n (Memory.set m a v) = true := by
  induction m with
  | nil => simp only [Memory.set]; split <;> simp [Memory.above, ha]
  | cons p r ih =>
    simp only [Memory.above, Bool.and_eq_true, decide_eq_true_eq] at h
    simp only [Memory.set]
    split
    · split <;> simp [Memory.above, h, ha]
    · split
      · split <;> simp [Memory.above, h, ha]
      · simp [Memory.above, h.1, ih h.2]

/-- A write keeps the canonical form. -/
theorem Memory.wf_set {m : Memory} (a : Nat) (v : Byte) (h : Memory.wf m = true) : Memory.wf (Memory.set m a v) = true := by
  induction m with
  | nil => simp only [Memory.set]; split <;> simp_all [Memory.wf, Memory.above]
  | cons p r ih =>
    have h0 := h
    simp only [Memory.wf, Bool.and_eq_true, decide_eq_true_eq] at h
    simp only [Memory.set]
    split
    · next hk =>
      split
      · exact h0
      · next hv => simp [Memory.wf, Memory.above, h, hk, Memory.above_mono h.1.2 (Nat.le_of_lt hk)]; exact ⟨hv, h.1.1⟩
    · split
      · next h1 h2 =>
        split
        · exact h.2
        · next hv => simp [Memory.wf, h2, h.1.2, h.2]; exact hv
      · next h1 h2 => simp [Memory.wf, ih h.2, Memory.above_set v h.1.2 (show p.1 < a by omega)]; exact h.1.1

/-- Canonical memories with the same bytes are equal. -/
theorem Memory.ext_of_wf {m m' : Memory} (h : Memory.wf m = true) (h' : Memory.wf m' = true) (he : ∀ a, Memory.get m a = Memory.get m' a) : m = m' := by
  induction m generalizing m' with
  | nil =>
    cases m' with
    | nil => rfl
    | cons q r =>
      simp only [Memory.wf, Bool.and_eq_true, decide_eq_true_eq] at h'
      have := he q.1
      simp [Memory.get] at this
      exact absurd this.symm h'.1.1
  | cons p r ih =>
    simp only [Memory.wf, Bool.and_eq_true, decide_eq_true_eq] at h
    cases m' with
    | nil => have := he p.1; simp [Memory.get] at this; exact absurd this h.1.1
    | cons q r' =>
      simp only [Memory.wf, Bool.and_eq_true, decide_eq_true_eq] at h'
      obtain ⟨k, b⟩ := p
      obtain ⟨k', b'⟩ := q
      dsimp only at h h'
      have hk : k = k' := by
        rcases Nat.lt_trichotomy k k' with hl | hl | hl
        · have := he k
          simp only [Memory.get, if_true, if_neg (show ¬ k = k' by omega)] at this
          rw [Memory.get_of_above h'.1.2 (by omega)] at this
          exact absurd this h.1.1
        · exact hl
        · have := he k'
          simp only [Memory.get, if_true, if_neg (show ¬ k' = k by omega)] at this
          rw [Memory.get_of_above h.1.2 (by omega)] at this
          exact absurd this.symm h'.1.1
      subst hk
      have hb : b = b' := by have := he k; simpa [Memory.get] using this
      subst hb
      congr 1
      refine ih h.2 h'.2 fun a => ?_
      by_cases hak : a = k
      · rw [hak, Memory.get_of_above h.1.2 (Nat.le_refl _), Memory.get_of_above h'.1.2 (Nat.le_refl _)]
      · have := he a; simpa [Memory.get, hak] using this

/-! ### Lists of bytes -/

/-- Writing bytes keeps the canonical form. -/
theorem Memory.wf_setBytes {l : List Byte} : ∀ {m : Memory} (a : Nat), Memory.wf m = true → Memory.wf (Memory.setBytes m a l) = true := by
  induction l with
  | nil => intro m a h; exact h
  | cons b r ih => intro m a h; exact ih _ (Memory.wf_set a b h)

/-- The bytes of a canonical memory after a write of consecutive bytes. -/
theorem Memory.get_setBytes {l : List Byte} : ∀ {m : Memory} (a b : Nat), Memory.wf m = true →
    Memory.get (Memory.setBytes m a l) b = if a ≤ b ∧ b < a + l.length then l.getD (b - a) 0 else Memory.get m b := by
  induction l with
  | nil => intro m a b h; simp only [Memory.setBytes, List.length_nil]; rw [if_neg (by omega)]
  | cons c r ih =>
    intro m a b h
    simp only [Memory.setBytes, List.length_cons]
    rw [ih _ _ (Memory.wf_set a c h)]
    by_cases h1 : a + 1 ≤ b ∧ b < a + 1 + r.length
    · rw [if_pos h1, if_pos (by omega), show b - a = (b - (a + 1)) + 1 by omega]; simp
    · rw [if_neg h1]
      by_cases h2 : b = a
      · subst h2; rw [Memory.get_set_self h, if_pos (by omega)]; simp
      · rw [Memory.get_set_ne _ _ h2, if_neg (by omega)]

/-- A list of single writes keeps the canonical form. -/
theorem Memory.wf_foldl {α : Type} (f : Memory → α → Memory) (hf : ∀ m a, Memory.wf m = true → Memory.wf (f m a) = true) (l : List α) :
    ∀ m, Memory.wf m = true → Memory.wf (l.foldl f m) = true := by
  induction l with
  | nil => intro m h; exact h
  | cons a r ih => intro m h; exact ih _ (hf m a h)

/-- Entries taken out keep the keys above a bound. -/
theorem Memory.above_filter (p : Host.Cell → Bool) {n : Nat} : ∀ {m : Memory}, Memory.above n m = true → Memory.above n (m.filter p) = true
  | [], _ => rfl
  | (k, b) :: r, h => by
    simp only [Memory.above, Bool.and_eq_true, decide_eq_true_eq] at h
    simp only [List.filter]
    split
    · simp [Memory.above, h.1, Memory.above_filter p h.2]
    · exact Memory.above_filter p h.2

/-- Entries taken out keep the canonical form. -/
theorem Memory.wf_filter (p : Host.Cell → Bool) : ∀ {m : Memory}, Memory.wf m = true → Memory.wf (m.filter p) = true
  | [], _ => rfl
  | (k, b) :: r, h => by
    simp only [Memory.wf, Bool.and_eq_true, decide_eq_true_eq] at h
    simp only [List.filter]
    split
    · simp [Memory.wf, Memory.above_filter p h.1.2, Memory.wf_filter p h.2]; exact h.1.1
    · exact Memory.wf_filter p h.2

/-! ### The operations of the machine -/

/-- Reset memory has the form. -/
@[simp] theorem Memory.wf_reset : Memory.wf State.reset.mem = true := rfl

/-- Bytes put at an address keep the form. -/
theorem wf_pokeBytes {s : State} (a : Nat) (l : List Byte) (h : Memory.wf s.mem = true) : Memory.wf (pokeBytes s a l).mem = true := by
  simp only [pokeBytes]
  refine Memory.wf_foldl _ (fun m i hm => ?_) _ _ h
  split
  · exact hm
  · exact Memory.wf_set _ _ hm

/-- Bytes that hardware puts into a slot keep the form. -/
theorem wf_pokeRaw {s : State} (a : Nat) (l : List Byte) (h : Memory.wf s.mem = true) : Memory.wf (pokeRaw s a l).mem = true :=
  Memory.wf_setBytes a h

/-- A fold of steps that leave memory alone leaves it alone. -/
theorem foldl_mem {α : Type} {f : State → α → State} (hf : ∀ s a, (f s a).mem = s.mem) (l : List α) (s : State) : (l.foldl f s).mem = s.mem := by
  induction l generalizing s with
  | nil => rfl
  | cons a r ih => rw [List.foldl_cons, ih, hf]

/-- A fold of steps that keep the form of memory keeps it. -/
theorem foldl_wf {α : Type} {f : State → α → State} (hf : ∀ s a, Memory.wf s.mem = true → Memory.wf (f s a).mem = true) (l : List α) (s : State)
    (h : Memory.wf s.mem = true) : Memory.wf (l.foldl f s).mem = true := by
  induction l generalizing s with
  | nil => exact h
  | cons a r ih => rw [List.foldl_cons]; exact ih _ (hf _ _ h)

@[simp] theorem markDirty_mem (s : State) (a n : Nat) : (markDirty s a n).mem = s.mem :=
  foldl_mem (fun s g => by unfold markDirtyOf; split <;> rfl) _ _

@[simp] theorem logUndo_mem (s : State) (a n : Nat) : (logUndo s a n).mem = s.mem :=
  foldl_mem (fun s g => by unfold logUndoOf; split <;> rfl) _ _

@[simp] theorem logWrite_mem (s : State) (a n : Nat) : (logWrite s a n).mem = s.mem := by
  unfold logWrite
  repeat' split
  all_goals rfl

/-- Words changed on both scratchpads of a pair leave memory as each change does. -/
theorem onTwins_mem (s : State) (a : Nat) {f : State → Nat → State} (hf : ∀ s a, (f s a).mem = s.mem) : (onTwins s a f).mem = s.mem := by
  unfold onTwins; split <;> simp [hf]

@[simp] theorem noteBit_mem (s : State) (a : Nat) : (noteBit s a).mem = s.mem := by unfold noteBit; split <;> rfl

@[simp] theorem forgetBit_mem (s : State) (a : Nat) : (forgetBit s a).mem = s.mem := by unfold forgetBit; split <;> rfl

@[simp] theorem makeFull_mem (s : State) (a : Nat) : (makeFull s a).mem = s.mem := by
  unfold makeFull; exact (onTwins_mem _ _ (f := setFull) fun _ _ => rfl).trans (noteBit_mem s a)

@[simp] theorem makeEmpty_mem (s : State) (a : Nat) : (makeEmpty s a).mem = s.mem := by
  unfold makeEmpty; exact (onTwins_mem _ _ (f := setEmpty) fun _ _ => rfl).trans (noteBit_mem s a)

/-- Populated words changed without memory leave it alone. -/
theorem overWords_mem (s : State) (a n : Nat) {f : State → Nat → State} (hf : ∀ s a, (f s a).mem = s.mem) : (overWords s a n f).mem = s.mem :=
  foldl_mem (fun s w => by split <;> simp [hf]) _ _

@[simp] theorem fillWords_mem (s : State) (a n : Nat) : (fillWords s a n).mem = s.mem := overWords_mem s a n makeFull_mem

/-- Where no lock-step pair's scratchpad is touched, a write is carried nowhere else. -/
theorem mirrorBytes_none {s : State} {a : Nat} {l : List Byte} (h : ∀ g ∈ touchedSlots a l.length, (coreAt s g).lock = none) :
    mirrorBytes s a l = s := by
  have key : ∀ gs : List Nat, (∀ g ∈ gs, (coreAt s g).lock = none) → gs.foldl (mirrorOf a l) s = s := by
    intro gs
    induction gs with
    | nil => intro _; rfl
    | cons g r ih =>
      intro hl
      rw [List.foldl_cons, show mirrorOf a l s g = s by simp [mirrorOf, hl g (by simp)]]
      exact ih fun q hq => hl q (by simp [hq])
  exact key _ h

/-- Outside lock-step pairs a write changes memory as its bytes do. -/
theorem writeEngine_mem {s : State} {a : Nat} {l : List Byte} (h : ∀ g ∈ touchedSlots a l.length, (coreAt s g).lock = none) :
    (writeEngine s a l).mem = (pokeBytes s a l).mem := by
  unfold writeEngine
  rw [logWrite_mem, markDirty_mem, mirrorBytes_none (s := pokeBytes s a l) h]

/-- A landing changes memory as a write does. -/
@[simp] theorem landBytes_mem (s : State) (a : Nat) (l : List Byte) : (landBytes s a l).mem = (writeEngine s a l).mem :=
  overWords_mem _ a _ fun s w => (onTwins_mem _ _ (f := setFull) fun _ _ => rfl).trans (forgetBit_mem s w)

/-- A write carried to the second core of a pair keeps the form. -/
theorem wf_mirrorBytes {s : State} (a : Nat) (l : List Byte) (h : Memory.wf s.mem = true) : Memory.wf (mirrorBytes s a l).mem = true :=
  foldl_wf (fun s g hs => by
    unfold mirrorOf
    split
    · exact hs
    · exact wf_pokeBytes _ _ hs) _ _ h

/-- A write by an engine or a remote party keeps the form. -/
theorem wf_writeEngine {s : State} (a : Nat) (l : List Byte) (h : Memory.wf s.mem = true) : Memory.wf (writeEngine s a l).mem = true := by
  unfold writeEngine
  rw [logWrite_mem, markDirty_mem]
  exact wf_mirrorBytes a l (wf_pokeBytes a l h)

/-- A write that a lock-step core logs keeps the form. -/
theorem wf_writeBytes {s : State} (a : Nat) (l : List Byte) (h : Memory.wf s.mem = true) : Memory.wf (writeBytes s a l).mem = true :=
  wf_writeEngine a l (by rw [logUndo_mem]; exact h)

/-- A write of a value keeps the form. -/
theorem wf_writeVal {s : State} (a n v : Nat) (h : Memory.wf s.mem = true) : Memory.wf (writeVal s a n v).mem = true := wf_writeBytes a _ h

/-- A landing keeps the form. -/
theorem wf_landBytes {s : State} (a : Nat) (l : List Byte) (h : Memory.wf s.mem = true) : Memory.wf (landBytes s a l).mem = true := by
  rw [landBytes_mem]; exact wf_writeEngine a l h

/-- A logged landing keeps the form. -/
theorem wf_landLogged {s : State} (a : Nat) (l : List Byte) (h : Memory.wf s.mem = true) : Memory.wf (landLogged s a l).mem = true := by
  unfold landLogged
  rw [fillWords_mem]
  exact wf_writeBytes a l h

/-- A scrub keeps the form. -/
theorem wf_scrubCore {s : State} (g : Nat) (h : Memory.wf s.mem = true) : Memory.wf (scrubCore s g).mem = true := Memory.wf_filter _ h

/-- A zeroed range keeps the form. -/
theorem wf_zeroRange {s : State} (base ext : Nat) (h : Memory.wf s.mem = true) : Memory.wf (zeroRange s base ext).mem = true := Memory.wf_filter _ h

/-- A restored scratchpad keeps the form. -/
theorem wf_restoreBytes {s : State} (t : Task) (v : Save) (h : Memory.wf s.mem = true) : Memory.wf (restoreBytes s t v).mem = true :=
  Memory.wf_foldl _ (fun _ _ hm => Memory.wf_set _ _ hm) _ _ (Memory.wf_filter _ h)

/-- A moved region keeps the form. -/
theorem wf_moveBytes {s : State} (base new ext : Nat) (h : Memory.wf s.mem = true) : Memory.wf (moveBytes s base new ext).mem = true :=
  Memory.wf_foldl _ (fun _ _ hm => Memory.wf_set _ _ hm) _ _ (Memory.wf_filter _ h)

/-- A value landing in a rill slot keeps the form. -/
theorem wf_slotBytes {s : State} (g : Nat) (i : RItem) (h : Memory.wf s.mem = true) : Memory.wf (slotBytes s g i).mem = true := by
  cases i with
  | val v => exact Memory.wf_setBytes _ h
  | marker => exact h

/-- A replayed undo log keeps the form. -/
theorem wf_replayUndo {m : Memory} (l : List (Nat × List Byte)) (h : Memory.wf m = true) : Memory.wf (replayUndo m l) = true :=
  Memory.wf_foldl _ (fun _ _ hm => Memory.wf_setBytes _ (Memory.wf_setBytes _ hm)) _ _ h

/-- A byte after bytes were put at an address, below the top of the address space: the new byte outside holes, else what was there. -/
theorem get_pokeBytes {s : State} {a : Nat} {l : List Byte} (h : Memory.wf s.mem = true) (ht : a + l.length ≤ 2 ^ 48) (b : Nat) :
    Memory.get (pokeBytes s a l).mem b = if a ≤ b ∧ b < a + l.length ∧ holeAt s b = false then l.getD (b - a) 0 else Memory.get s.mem b := by
  have key : ∀ n, n ≤ l.length → Memory.wf ((List.range n).foldl (fun m i =>
      let x := (a + i) % 2 ^ 48
      if holeAt s x then m else Memory.set m x (l.getD i 0)) s.mem) = true ∧ Memory.get ((List.range n).foldl (fun m i =>
      let x := (a + i) % 2 ^ 48
      if holeAt s x then m else Memory.set m x (l.getD i 0)) s.mem) b =
      if a ≤ b ∧ b < a + n ∧ holeAt s b = false then l.getD (b - a) 0 else Memory.get s.mem b := by
    intro n
    induction n with
    | zero => intro _; exact ⟨h, by simp only [List.range_zero, List.foldl_nil]; rw [if_neg (by omega)]⟩
    | succ n ih =>
      intro hn
      obtain ⟨hw, hg⟩ := ih (by omega)
      rw [List.range_succ, List.foldl_append]
      simp only [List.foldl_cons, List.foldl_nil]
      rw [Nat.mod_eq_of_lt (show a + n < 2 ^ 48 by omega)]
      cases hh : holeAt s (a + n)
      · simp only [Bool.false_eq_true, if_false]
        refine ⟨Memory.wf_set _ _ hw, ?_⟩
        by_cases hb : b = a + n
        · subst hb; rw [Memory.get_set_self hw, if_pos ⟨by omega, by omega, hh⟩, show a + n - a = n by omega]
        · rw [Memory.get_set_ne _ _ hb, hg]
          by_cases hc : a ≤ b ∧ b < a + n ∧ holeAt s b = false
          · rw [if_pos hc, if_pos ⟨hc.1, by omega, hc.2.2⟩]
          · rw [if_neg hc, if_neg (fun hd => hc ⟨hd.1, by omega, hd.2.2⟩)]
      · simp only [if_true]
        refine ⟨hw, ?_⟩
        rw [hg]
        by_cases hc : a ≤ b ∧ b < a + n ∧ holeAt s b = false
        · rw [if_pos hc, if_pos ⟨hc.1, by omega, hc.2.2⟩]
        · refine (if_neg hc).trans (if_neg fun hd => hc ⟨hd.1, ?_, hd.2.2⟩).symm
          have : b ≠ a + n := by rintro rfl; rw [hh] at hd; exact absurd hd.2.2 (by simp)
          omega
  exact (key l.length (Nat.le_refl _)).2

end Sys2Proof.Machine
end

