-- ==== Sys2Proof/Laws/PerInstr.lean ====
section
/-! SUPPORT. One lemma for each constructor of Instr: the word that encodes it, if it has one, is a word of 32 bits (R73). -/

namespace Sys2Proof.Laws.WordFits

/-- What the family says of an instruction. -/
def Statement (i : Instr) : Prop := ∀ w, encode i = some w → w < 2 ^ 32

theorem add (d : BitVec 7) (a : BitVec 7) (b : BitVec 7) : Statement (.add d a b) := by
  intro w h; injection h with h; subst h; simp only [encF]; omega
theorem sub (d : BitVec 7) (a : BitVec 7) (b : BitVec 7) : Statement (.sub d a b) := by
  intro w h; injection h with h; subst h; simp only [encF]; omega
theorem and (d : BitVec 7) (a : BitVec 7) (b : BitVec 7) : Statement (.and d a b) := by
  intro w h; injection h with h; subst h; simp only [encF]; omega
theorem or (d : BitVec 7) (a : BitVec 7) (b : BitVec 7) : Statement (.or d a b) := by
  intro w h; injection h with h; subst h; simp only [encF]; omega
theorem xor (d : BitVec 7) (a : BitVec 7) (b : BitVec 7) : Statement (.xor d a b) := by
  intro w h; injection h with h; subst h; simp only [encF]; omega
theorem andn (d : BitVec 7) (a : BitVec 7) (b : BitVec 7) : Statement (.andn d a b) := by
  intro w h; injection h with h; subst h; simp only [encF]; omega
theorem orn (d : BitVec 7) (a : BitVec 7) (b : BitVec 7) : Statement (.orn d a b) := by
  intro w h; injection h with h; subst h; simp only [encF]; omega
theorem sll (d : BitVec 7) (a : BitVec 7) (b : BitVec 7) : Statement (.sll d a b) := by
  intro w h; injection h with h; subst h; simp only [encF]; omega
theorem srl (d : BitVec 7) (a : BitVec 7) (b : BitVec 7) : Statement (.srl d a b) := by
  intro w h; injection h with h; subst h; simp only [encF]; omega
theorem sra (d : BitVec 7) (a : BitVec 7) (b : BitVec 7) : Statement (.sra d a b) := by
  intro w h; injection h with h; subst h; simp only [encF]; omega
theorem slt (d : BitVec 7) (a : BitVec 7) (b : BitVec 7) : Statement (.slt d a b) := by
  intro w h; injection h with h; subst h; simp only [encF]; omega
theorem sltn (d : BitVec 7) (a : BitVec 7) (b : BitVec 7) : Statement (.sltn d a b) := by
  intro w h; injection h with h; subst h; simp only [encF]; omega
theorem min (d : BitVec 7) (a : BitVec 7) (b : BitVec 7) : Statement (.min d a b) := by
  intro w h; injection h with h; subst h; simp only [encF]; omega
theorem max (d : BitVec 7) (a : BitVec 7) (b : BitVec 7) : Statement (.max d a b) := by
  intro w h; injection h with h; subst h; simp only [encF]; omega
theorem minn (d : BitVec 7) (a : BitVec 7) (b : BitVec 7) : Statement (.minn d a b) := by
  intro w h; injection h with h; subst h; simp only [encF]; omega
theorem maxn (d : BitVec 7) (a : BitVec 7) (b : BitVec 7) : Statement (.maxn d a b) := by
  intro w h; injection h with h; subst h; simp only [encF]; omega
theorem adds (d : BitVec 7) (a : BitVec 7) (b : BitVec 7) : Statement (.adds d a b) := by
  intro w h; injection h with h; subst h; simp only [encF]; omega
theorem subs (d : BitVec 7) (a : BitVec 7) (b : BitVec 7) : Statement (.subs d a b) := by
  intro w h; injection h with h; subst h; simp only [encF]; omega
theorem addsn (d : BitVec 7) (a : BitVec 7) (b : BitVec 7) : Statement (.addsn d a b) := by
  intro w h; injection h with h; subst h; simp only [encF]; omega
theorem subsn (d : BitVec 7) (a : BitVec 7) (b : BitVec 7) : Statement (.subsn d a b) := by
  intro w h; injection h with h; subst h; simp only [encF]; omega
theorem clz (d : BitVec 7) (a : BitVec 7) : Statement (.clz d a) := by
  intro w h; injection h with h; subst h; simp only [encF]; omega
theorem ctz (d : BitVec 7) (a : BitVec 7) : Statement (.ctz d a) := by
  intro w h; injection h with h; subst h; simp only [encF]; omega
theorem popc (d : BitVec 7) (a : BitVec 7) : Statement (.popc d a) := by
  intro w h; injection h with h; subst h; simp only [encF]; omega
theorem brev (d : BitVec 7) (a : BitVec 7) : Statement (.brev d a) := by
  intro w h; injection h with h; subst h; simp only [encF]; omega
theorem bswap (d : BitVec 7) (a : BitVec 7) : Statement (.bswap d a) := by
  intro w h; injection h with h; subst h; simp only [encF]; omega
theorem rol (d : BitVec 7) (a : BitVec 7) (b : BitVec 7) : Statement (.rol d a b) := by
  intro w h; injection h with h; subst h; simp only [encF]; omega
theorem ror (d : BitVec 7) (a : BitVec 7) (b : BitVec 7) : Statement (.ror d a b) := by
  intro w h; injection h with h; subst h; simp only [encF]; omega
theorem sext (d : BitVec 7) (a : BitVec 7) (w : BitVec 7) : Statement (.sext d a w) := by
  intro w h; injection h with h; subst h; simp only [encF]; omega
theorem zext (d : BitVec 7) (a : BitVec 7) (w : BitVec 7) : Statement (.zext d a w) := by
  intro w h; injection h with h; subst h; simp only [encF]; omega
theorem mul (d : BitVec 7) (a : BitVec 7) (b : BitVec 7) (k : BitVec 4) : Statement (.mul d a b k) := by
  intro w h; injection h with h; subst h; simp only [encF]; omega
theorem div (d : BitVec 7) (a : BitVec 7) (b : BitVec 7) (k : BitVec 4) : Statement (.div d a b k) := by
  intro w h; injection h with h; subst h; simp only [encF]; omega
theorem addi (d : BitVec 7) (a : BitVec 7) (i : BitVec 12) : Statement (.addi d a i) := by
  intro w h; injection h with h; subst h; simp only [encF]; omega
theorem andi (d : BitVec 7) (a : BitVec 7) (i : BitVec 12) : Statement (.andi d a i) := by
  intro w h; injection h with h; subst h; simp only [encF]; omega
theorem ori (d : BitVec 7) (a : BitVec 7) (i : BitVec 12) : Statement (.ori d a i) := by
  intro w h; injection h with h; subst h; simp only [encF]; omega
theorem xori (d : BitVec 7) (a : BitVec 7) (i : BitVec 12) : Statement (.xori d a i) := by
  intro w h; injection h with h; subst h; simp only [encF]; omega
theorem slli (d : BitVec 7) (a : BitVec 7) (n : BitVec 6) : Statement (.slli d a n) := by
  intro w h; injection h with h; subst h; simp only [encF]; omega
theorem srli (d : BitVec 7) (a : BitVec 7) (n : BitVec 6) : Statement (.srli d a n) := by
  intro w h; injection h with h; subst h; simp only [encF]; omega
theorem srai (d : BitVec 7) (a : BitVec 7) (n : BitVec 6) : Statement (.srai d a n) := by
  intro w h; injection h with h; subst h; simp only [encF]; omega
theorem rori (d : BitVec 7) (a : BitVec 7) (n : BitVec 6) : Statement (.rori d a n) := by
  intro w h; injection h with h; subst h; simp only [encF]; omega
theorem slti (d : BitVec 7) (a : BitVec 7) (i : BitVec 12) : Statement (.slti d a i) := by
  intro w h; injection h with h; subst h; simp only [encF]; omega
theorem sltni (d : BitVec 7) (a : BitVec 7) (i : BitVec 12) : Statement (.sltni d a i) := by
  intro w h; injection h with h; subst h; simp only [encF]; omega
theorem cmp (a : BitVec 7) (b : BitVec 7) (c : BitVec 4) (p : BitVec 5) (s : BitVec 2) (e : BitVec 1) : Statement (.cmp a b c p s e) := by
  intro w h; injection h with h; subst h; simp only [encF]; omega
theorem cmpi (a : BitVec 7) (i : BitVec 7) (c : BitVec 4) (p : BitVec 5) (s : BitVec 2) (e : BitVec 1) : Statement (.cmpi a i c p s e) := by
  intro w h; injection h with h; subst h; simp only [encF]; omega
theorem pand (d : BitVec 5) (a : BitVec 5) (b : BitVec 5) : Statement (.pand d a b) := by
  intro w h; injection h with h; subst h; simp only [encF]; omega
theorem por (d : BitVec 5) (a : BitVec 5) (b : BitVec 5) : Statement (.por d a b) := by
  intro w h; injection h with h; subst h; simp only [encF]; omega
theorem pxor (d : BitVec 5) (a : BitVec 5) (b : BitVec 5) : Statement (.pxor d a b) := by
  intro w h; injection h with h; subst h; simp only [encF]; omega
theorem pandn (d : BitVec 5) (a : BitVec 5) (b : BitVec 5) : Statement (.pandn d a b) := by
  intro w h; injection h with h; subst h; simp only [encF]; omega
theorem porn (d : BitVec 5) (a : BitVec 5) (b : BitVec 5) : Statement (.porn d a b) := by
  intro w h; injection h with h; subst h; simp only [encF]; omega
theorem pnot (d : BitVec 5) (a : BitVec 5) : Statement (.pnot d a) := by
  intro w h; injection h with h; subst h; simp only [encF]; omega
theorem mfp (d : BitVec 7) : Statement (.mfp d) := by
  intro w h; injection h with h; subst h; simp only [encF]; omega
theorem mtp (a : BitVec 7) (b : BitVec 7) : Statement (.mtp a b) := by
  intro w h; injection h with h; subst h; simp only [encF]; omega
theorem sel (d : BitVec 7) (a : BitVec 7) (b : BitVec 7) (n : BitVec 4) : Statement (.sel d a b n) := by
  intro w h; injection h with h; subst h; simp only [encF]; omega
theorem fadd (d : BitVec 7) (a : BitVec 7) (b : BitVec 7) : Statement (.fadd d a b) := by
  intro w h; injection h with h; subst h; simp only [encF]; omega
theorem fsub (d : BitVec 7) (a : BitVec 7) (b : BitVec 7) : Statement (.fsub d a b) := by
  intro w h; injection h with h; subst h; simp only [encF]; omega
theorem fmul (d : BitVec 7) (a : BitVec 7) (b : BitVec 7) : Statement (.fmul d a b) := by
  intro w h; injection h with h; subst h; simp only [encF]; omega
theorem fdiv (d : BitVec 7) (a : BitVec 7) (b : BitVec 7) : Statement (.fdiv d a b) := by
  intro w h; injection h with h; subst h; simp only [encF]; omega
theorem fmac (d : BitVec 7) (a : BitVec 7) (b : BitVec 7) : Statement (.fmac d a b) := by
  intro w h; injection h with h; subst h; simp only [encF]; omega
theorem fsqrt (d : BitVec 7) (a : BitVec 7) : Statement (.fsqrt d a) := by
  intro w h; injection h with h; subst h; simp only [encF]; omega
theorem fmin (d : BitVec 7) (a : BitVec 7) (b : BitVec 7) : Statement (.fmin d a b) := by
  intro w h; injection h with h; subst h; simp only [encF]; omega
theorem fmax (d : BitVec 7) (a : BitVec 7) (b : BitVec 7) : Statement (.fmax d a b) := by
  intro w h; injection h with h; subst h; simp only [encF]; omega
theorem fabs (d : BitVec 7) (a : BitVec 7) : Statement (.fabs d a) := by
  intro w h; injection h with h; subst h; simp only [encF]; omega
theorem fneg (d : BitVec 7) (a : BitVec 7) : Statement (.fneg d a) := by
  intro w h; injection h with h; subst h; simp only [encF]; omega
theorem feq (d : BitVec 7) (a : BitVec 7) (b : BitVec 7) : Statement (.feq d a b) := by
  intro w h; injection h with h; subst h; simp only [encF]; omega
theorem flt (d : BitVec 7) (a : BitVec 7) (b : BitVec 7) : Statement (.flt d a b) := by
  intro w h; injection h with h; subst h; simp only [encF]; omega
theorem fle (d : BitVec 7) (a : BitVec 7) (b : BitVec 7) : Statement (.fle d a b) := by
  intro w h; injection h with h; subst h; simp only [encF]; omega
theorem fcvtI (d : BitVec 7) (a : BitVec 7) : Statement (.fcvtI d a) := by
  intro w h; injection h with h; subst h; simp only [encF]; omega
theorem fcvtN (d : BitVec 7) (a : BitVec 7) : Statement (.fcvtN d a) := by
  intro w h; injection h with h; subst h; simp only [encF]; omega
theorem icvtF (d : BitVec 7) (a : BitVec 7) : Statement (.icvtF d a) := by
  intro w h; injection h with h; subst h; simp only [encF]; omega
theorem ncvtF (d : BitVec 7) (a : BitVec 7) : Statement (.ncvtF d a) := by
  intro w h; injection h with h; subst h; simp only [encF]; omega
theorem br (o : BitVec 26) : Statement (.br o) := by
  intro w h; injection h with h; subst h; simp only [encF]; omega
theorem call (o : BitVec 26) : Statement (.call o) := by
  intro w h; injection h with h; subst h; simp only [encF]; omega
theorem bp (p : BitVec 5) (o : BitVec 20) : Statement (.bp p o) := by
  intro w h; injection h with h; subst h; simp only [encF]; omega
theorem bpn (p : BitVec 5) (o : BitVec 20) : Statement (.bpn p o) := by
  intro w h; injection h with h; subst h; simp only [encF]; omega
theorem jr (a : BitVec 7) : Statement (.jr a) := by
  intro w h; injection h with h; subst h; simp only [encF]; omega
theorem jalr (d : BitVec 7) (a : BitVec 7) : Statement (.jalr d a) := by
  intro w h; injection h with h; subst h; simp only [encF]; omega
theorem ret : Statement (.ret) := by
  intro w h; injection h with h; subst h; simp only [encF]; omega
theorem enter (k : BitVec 2) : Statement (.enter k) := by
  intro w h; injection h with h; subst h; simp only [encF]; omega
theorem leave (k : BitVec 2) : Statement (.leave k) := by
  intro w h; injection h with h; subst h; simp only [encF]; omega
theorem fork (p : BitVec 5) (a : BitVec 7) (o : BitVec 7) : Statement (.fork p a o) := by
  intro w h; injection h with h; subst h; simp only [encF]; omega
theorem forkRCarry8 (p : BitVec 5) (a : BitVec 7) (o : BitVec 7) : Statement (.forkRCarry8 p a o) := by
  intro w h; injection h with h; subst h; simp only [encF]; omega
theorem forkRCarry16 (p : BitVec 5) (a : BitVec 7) (o : BitVec 7) : Statement (.forkRCarry16 p a o) := by
  intro w h; injection h with h; subst h; simp only [encF]; omega
theorem forkRCarry24 (p : BitVec 5) (a : BitVec 7) (o : BitVec 7) : Statement (.forkRCarry24 p a o) := by
  intro w h; injection h with h; subst h; simp only [encF]; omega
theorem join (a : BitVec 7) : Statement (.join a) := by
  intro w h; injection h with h; subst h; simp only [encF]; omega
theorem exit (a : BitVec 7) : Statement (.exit a) := by
  intro w h; injection h with h; subst h; simp only [encF]; omega
theorem yield : Statement (.yield) := by
  intro w h; injection h with h; subst h; simp only [encF]; omega
theorem ld (d : BitVec 7) (b : BitVec 7) (k : BitVec 4) (z : BitVec 2) (o : BitVec 6) : Statement (.ld d b k z o) := by
  intro w h; injection h with h; subst h; simp only [encF]; omega
theorem lds (d : BitVec 7) (b : BitVec 7) (k : BitVec 4) (z : BitVec 2) (o : BitVec 6) : Statement (.lds d b k z o) := by
  intro w h; injection h with h; subst h; simp only [encF]; omega
theorem st (s : BitVec 7) (b : BitVec 7) (z : BitVec 2) (o : BitVec 6) : Statement (.st s b z o) := by
  intro w h; injection h with h; subst h; simp only [encF]; omega
theorem ldf (d : BitVec 7) (b : BitVec 7) (k : BitVec 4) (o : BitVec 6) : Statement (.ldf d b k o) := by
  intro w h; injection h with h; subst h; simp only [encF]; omega
theorem ldt (d : BitVec 7) (b : BitVec 7) (k : BitVec 4) (o : BitVec 6) : Statement (.ldt d b k o) := by
  intro w h; injection h with h; subst h; simp only [encF]; omega
theorem stf (s : BitVec 7) (b : BitVec 7) (o : BitVec 6) : Statement (.stf s b o) := by
  intro w h; injection h with h; subst h; simp only [encF]; omega
theorem stp (s : BitVec 7) (b : BitVec 7) (o : BitVec 6) : Statement (.stp s b o) := by
  intro w h; injection h with h; subst h; simp only [encF]; omega
theorem stempty (b : BitVec 7) (o : BitVec 6) : Statement (.stempty b o) := by
  intro w h; injection h with h; subst h; simp only [encF]; omega
theorem cas (d : BitVec 7) (a : BitVec 7) (b : BitVec 7) (k : BitVec 4) : Statement (.cas d a b k) := by
  intro w h; injection h with h; subst h; simp only [encF]; omega
theorem xadd (d : BitVec 7) (a : BitVec 7) (b : BitVec 7) (k : BitVec 4) : Statement (.xadd d a b k) := by
  intro w h; injection h with h; subst h; simp only [encF]; omega
theorem tlk (d : BitVec 7) (a : BitVec 7) : Statement (.tlk d a) := by
  intro w h; injection h with h; subst h; simp only [encF]; omega
theorem tfill (n : BitVec 4) (a : BitVec 7) (b : BitVec 7) : Statement (.tfill n a b) := by
  intro w h; injection h with h; subst h; simp only [encF]; omega
theorem tevict (a : BitVec 7) : Statement (.tevict a) := by
  intro w h; injection h with h; subst h; simp only [encF]; omega
theorem tinval (a : BitVec 7) : Statement (.tinval a) := by
  intro w h; injection h with h; subst h; simp only [encF]; omega
theorem wba (d : BitVec 7) (n : BitVec 4) (b : BitVec 7) : Statement (.wba d n b) := by
  intro w h; injection h with h; subst h; simp only [encF]; omega
theorem wrd (d : BitVec 7) (n : BitVec 4) (s : BitVec 7) : Statement (.wrd d n s) := by
  intro w h; injection h with h; subst h; simp only [encF]; omega
theorem chkR (n : BitVec 4) (a : BitVec 7) (c : BitVec 4) : Statement (.chkR n a c) := by
  intro w h; injection h with h; subst h; simp only [encF]; omega
theorem chkW (n : BitVec 4) (a : BitVec 7) (c : BitVec 4) : Statement (.chkW n a c) := by
  intro w h; injection h with h; subst h; simp only [encF]; omega
theorem chkRw (n : BitVec 4) (a : BitVec 7) (c : BitVec 4) : Statement (.chkRw n a c) := by
  intro w h; injection h with h; subst h; simp only [encF]; omega
theorem fenceCore : Statement (.fenceCore) := by
  intro w h; injection h with h; subst h; simp only [encF]; omega
theorem fenceCluster : Statement (.fenceCluster) := by
  intro w h; injection h with h; subst h; simp only [encF]; omega
theorem fenceDie : Statement (.fenceDie) := by
  intro w h; injection h with h; subst h; simp only [encF]; omega
theorem fencePackage : Statement (.fencePackage) := by
  intro w h; injection h with h; subst h; simp only [encF]; omega
theorem fenceGroup : Statement (.fenceGroup) := by
  intro w h; injection h with h; subst h; simp only [encF]; omega
theorem barArrive (d : BitVec 7) (a : BitVec 7) : Statement (.barArrive d a) := by
  intro w h; injection h with h; subst h; simp only [encF]; omega
theorem barWait (a : BitVec 7) (b : BitVec 7) : Statement (.barWait a b) := by
  intro w h; injection h with h; subst h; simp only [encF]; omega
theorem rcnt (d : BitVec 7) : Statement (.rcnt d) := by
  intro w h; injection h with h; subst h; simp only [encF]; omega
theorem rfree (d : BitVec 7) : Statement (.rfree d) := by
  intro w h; injection h with h; subst h; simp only [encF]; omega
theorem reosDn : Statement (.reosDn) := by
  intro w h; injection h with h; subst h; simp only [encF]; omega
theorem reosUp : Statement (.reosUp) := by
  intro w h; injection h with h; subst h; simp only [encF]; omega
theorem mxIssue (a : BitVec 7) : Statement (.mxIssue a) := by
  intro w h; injection h with h; subst h; simp only [encF]; omega
theorem mxIssueMeta (a : BitVec 7) (v : BitVec 5) : Statement (.mxIssueMeta a v) := by
  intro w h; injection h with h; subst h; simp only [encF]; omega
theorem mxWait : Statement (.mxWait) := by
  intro w h; injection h with h; subst h; simp only [encF]; omega
theorem vxSync : Statement (.vxSync) := by
  intro w h; injection h with h; subst h; simp only [encF]; omega
theorem cpReq (a : BitVec 7) (b : BitVec 7) : Statement (.cpReq a b) := by
  intro w h; injection h with h; subst h; simp only [encF]; omega
theorem tspawn (d : BitVec 7) (a : BitVec 7) (n : BitVec 4) : Statement (.tspawn d a n) := by
  intro w h; injection h with h; subst h; simp only [encF]; omega
theorem tstat (d : BitVec 7) (a : BitVec 7) : Statement (.tstat d a) := by
  intro w h; injection h with h; subst h; simp only [encF]; omega
theorem nop : Statement (.nop) := by
  intro w h; injection h with h; subst h; simp only [encF]; omega
theorem trap (a : BitVec 7) (c : BitVec 7) : Statement (.trap a c) := by
  intro w h; injection h with h; subst h; simp only [encF]; omega
theorem brk : Statement (.brk) := by
  intro w h; injection h with h; subst h; simp only [encF]; omega
theorem mfs (d : BitVec 7) (n : BitVec 7) : Statement (.mfs d n) := by
  intro w h; injection h with h; subst h; simp only [encF]; omega
theorem mts (a : BitVec 7) (n : BitVec 7) : Statement (.mts a n) := by
  intro w h; injection h with h; subst h; simp only [encF]; omega
theorem vadd (d : BitVec 6) (a : BitVec 6) (b : BitVec 6) (t : BitVec 3) : Statement (.vadd d a b t) := by
  intro w h; injection h with h; subst h; simp only [encF]; omega
theorem vsub (d : BitVec 6) (a : BitVec 6) (b : BitVec 6) (t : BitVec 3) : Statement (.vsub d a b t) := by
  intro w h; injection h with h; subst h; simp only [encF]; omega
theorem vmul (d : BitVec 6) (a : BitVec 6) (b : BitVec 6) (t : BitVec 3) : Statement (.vmul d a b t) := by
  intro w h; injection h with h; subst h; simp only [encF]; omega
theorem vmulh (d : BitVec 6) (a : BitVec 6) (b : BitVec 6) (t : BitVec 3) : Statement (.vmulh d a b t) := by
  intro w h; injection h with h; subst h; simp only [encF]; omega
theorem vmin (d : BitVec 6) (a : BitVec 6) (b : BitVec 6) (t : BitVec 3) : Statement (.vmin d a b t) := by
  intro w h; injection h with h; subst h; simp only [encF]; omega
theorem vmax (d : BitVec 6) (a : BitVec 6) (b : BitVec 6) (t : BitVec 3) : Statement (.vmax d a b t) := by
  intro w h; injection h with h; subst h; simp only [encF]; omega
theorem vminn (d : BitVec 6) (a : BitVec 6) (b : BitVec 6) (t : BitVec 3) : Statement (.vminn d a b t) := by
  intro w h; injection h with h; subst h; simp only [encF]; omega
theorem vmaxn (d : BitVec 6) (a : BitVec 6) (b : BitVec 6) (t : BitVec 3) : Statement (.vmaxn d a b t) := by
  intro w h; injection h with h; subst h; simp only [encF]; omega
theorem vadds (d : BitVec 6) (a : BitVec 6) (b : BitVec 6) (t : BitVec 3) : Statement (.vadds d a b t) := by
  intro w h; injection h with h; subst h; simp only [encF]; omega
theorem vsubs (d : BitVec 6) (a : BitVec 6) (b : BitVec 6) (t : BitVec 3) : Statement (.vsubs d a b t) := by
  intro w h; injection h with h; subst h; simp only [encF]; omega
theorem vaddsn (d : BitVec 6) (a : BitVec 6) (b : BitVec 6) (t : BitVec 3) : Statement (.vaddsn d a b t) := by
  intro w h; injection h with h; subst h; simp only [encF]; omega
theorem vsubsn (d : BitVec 6) (a : BitVec 6) (b : BitVec 6) (t : BitVec 3) : Statement (.vsubsn d a b t) := by
  intro w h; injection h with h; subst h; simp only [encF]; omega
theorem vabs (d : BitVec 6) (a : BitVec 6) (t : BitVec 3) : Statement (.vabs d a t) := by
  intro w h; injection h with h; subst h; simp only [encF]; omega
theorem vneg (d : BitVec 6) (a : BitVec 6) (t : BitVec 3) : Statement (.vneg d a t) := by
  intro w h; injection h with h; subst h; simp only [encF]; omega
theorem vshl (d : BitVec 6) (a : BitVec 6) (b : BitVec 6) (t : BitVec 3) : Statement (.vshl d a b t) := by
  intro w h; injection h with h; subst h; simp only [encF]; omega
theorem vshr (d : BitVec 6) (a : BitVec 6) (b : BitVec 6) (t : BitVec 3) : Statement (.vshr d a b t) := by
  intro w h; injection h with h; subst h; simp only [encF]; omega
theorem vsra (d : BitVec 6) (a : BitVec 6) (b : BitVec 6) (t : BitVec 3) : Statement (.vsra d a b t) := by
  intro w h; injection h with h; subst h; simp only [encF]; omega
theorem vdot (d : BitVec 6) (a : BitVec 6) (b : BitVec 6) (t : BitVec 3) : Statement (.vdot d a b t) := by
  intro w h; injection h with h; subst h; simp only [encF]; omega
theorem vwadd (d : BitVec 6) (a : BitVec 6) (b : BitVec 6) (t : BitVec 3) : Statement (.vwadd d a b t) := by
  intro w h; injection h with h; subst h; simp only [encF]; omega
theorem vwmul (d : BitVec 6) (a : BitVec 6) (b : BitVec 6) (t : BitVec 3) : Statement (.vwmul d a b t) := by
  intro w h; injection h with h; subst h; simp only [encF]; omega
theorem vfadd (d : BitVec 6) (a : BitVec 6) (b : BitVec 6) (t : BitVec 3) : Statement (.vfadd d a b t) := by
  intro w h; injection h with h; subst h; simp only [encF]; omega
theorem vfsub (d : BitVec 6) (a : BitVec 6) (b : BitVec 6) (t : BitVec 3) : Statement (.vfsub d a b t) := by
  intro w h; injection h with h; subst h; simp only [encF]; omega
theorem vfmul (d : BitVec 6) (a : BitVec 6) (b : BitVec 6) (t : BitVec 3) : Statement (.vfmul d a b t) := by
  intro w h; injection h with h; subst h; simp only [encF]; omega
theorem vfdiv (d : BitVec 6) (a : BitVec 6) (b : BitVec 6) (t : BitVec 3) : Statement (.vfdiv d a b t) := by
  intro w h; injection h with h; subst h; simp only [encF]; omega
theorem vfmac (d : BitVec 6) (a : BitVec 6) (b : BitVec 6) (t : BitVec 3) : Statement (.vfmac d a b t) := by
  intro w h; injection h with h; subst h; simp only [encF]; omega
theorem vfmin (d : BitVec 6) (a : BitVec 6) (b : BitVec 6) (t : BitVec 3) : Statement (.vfmin d a b t) := by
  intro w h; injection h with h; subst h; simp only [encF]; omega
theorem vfmax (d : BitVec 6) (a : BitVec 6) (b : BitVec 6) (t : BitVec 3) : Statement (.vfmax d a b t) := by
  intro w h; injection h with h; subst h; simp only [encF]; omega
theorem vfabs (d : BitVec 6) (a : BitVec 6) (t : BitVec 3) : Statement (.vfabs d a t) := by
  intro w h; injection h with h; subst h; simp only [encF]; omega
theorem vfneg (d : BitVec 6) (a : BitVec 6) (t : BitVec 3) : Statement (.vfneg d a t) := by
  intro w h; injection h with h; subst h; simp only [encF]; omega
theorem vfsqrt (d : BitVec 6) (a : BitVec 6) (t : BitVec 3) : Statement (.vfsqrt d a t) := by
  intro w h; injection h with h; subst h; simp only [encF]; omega
theorem vfscl (d : BitVec 6) (a : BitVec 6) (b : BitVec 6) (t : BitVec 3) : Statement (.vfscl d a b t) := by
  intro w h; injection h with h; subst h; simp only [encF]; omega
theorem vceq (d : BitVec 6) (a : BitVec 6) (b : BitVec 6) (t : BitVec 3) : Statement (.vceq d a b t) := by
  intro w h; injection h with h; subst h; simp only [encF]; omega
theorem vclt (d : BitVec 6) (a : BitVec 6) (b : BitVec 6) (t : BitVec 3) : Statement (.vclt d a b t) := by
  intro w h; injection h with h; subst h; simp only [encF]; omega
theorem vcle (d : BitVec 6) (a : BitVec 6) (b : BitVec 6) (t : BitVec 3) : Statement (.vcle d a b t) := by
  intro w h; injection h with h; subst h; simp only [encF]; omega
theorem vcltn (d : BitVec 6) (a : BitVec 6) (b : BitVec 6) (t : BitVec 3) : Statement (.vcltn d a b t) := by
  intro w h; injection h with h; subst h; simp only [encF]; omega
theorem vand (d : BitVec 6) (a : BitVec 6) (b : BitVec 6) : Statement (.vand d a b) := by
  intro w h; injection h with h; subst h; simp only [encF]; omega
theorem vor (d : BitVec 6) (a : BitVec 6) (b : BitVec 6) : Statement (.vor d a b) := by
  intro w h; injection h with h; subst h; simp only [encF]; omega
theorem vxor (d : BitVec 6) (a : BitVec 6) (b : BitVec 6) : Statement (.vxor d a b) := by
  intro w h; injection h with h; subst h; simp only [encF]; omega
theorem vandn (d : BitVec 6) (a : BitVec 6) (b : BitVec 6) : Statement (.vandn d a b) := by
  intro w h; injection h with h; subst h; simp only [encF]; omega
theorem vsel (d : BitVec 6) (a : BitVec 6) (b : BitVec 6) : Statement (.vsel d a b) := by
  intro w h; injection h with h; subst h; simp only [encF]; omega
theorem vcvt (d : BitVec 6) (a : BitVec 6) (n : BitVec 1) (p : BitVec 2) (s : BitVec 3) (t : BitVec 3) : Statement (.vcvt d a n p s t) := by
  intro w h; injection h with h; subst h; simp only [encF]; omega
theorem vcvtn (d : BitVec 6) (a : BitVec 6) (n : BitVec 1) (p : BitVec 2) (s : BitVec 3) (t : BitVec 3) : Statement (.vcvtn d a n p s t) := by
  intro w h; injection h with h; subst h; simp only [encF]; omega
theorem vcvt4 (d : BitVec 6) (a : BitVec 6) (r : BitVec 1) (p : BitVec 3) (t : BitVec 3) : Statement (.vcvt4 d a r p t) := by
  intro w h; injection h with h; subst h; simp only [encF]; omega
theorem vpack4 (d : BitVec 6) (a : BitVec 6) (b : BitVec 6) : Statement (.vpack4 d a b) := by
  intro w h; injection h with h; subst h; simp only [encF]; omega
theorem vunpk4 (d : BitVec 6) (a : BitVec 6) (p : BitVec 3) (t : BitVec 3) : Statement (.vunpk4 d a p t) := by
  intro w h; injection h with h; subst h; simp only [encF]; omega
theorem vquant (g : BitVec 1) (d : BitVec 5) (a : BitVec 6) (gx : BitVec 1) (b : BitVec 5) (t : BitVec 3) : Statement (.vquant g d a gx b t) := by
  intro w h; injection h with h; subst h; simp only [encF]; omega
theorem vprune24 (d : BitVec 5) (a : BitVec 6) (b : BitVec 5) (t : BitVec 3) : Statement (.vprune24 d a b t) := by
  intro w h; injection h with h; subst h; simp only [encF]; omega
theorem vprune48 (d : BitVec 5) (a : BitVec 6) (b : BitVec 5) (t : BitVec 3) : Statement (.vprune48 d a b t) := by
  intro w h; injection h with h; subst h; simp only [encF]; omega
theorem vradd (d : BitVec 6) (a : BitVec 6) (t : BitVec 3) : Statement (.vradd d a t) := by
  intro w h; injection h with h; subst h; simp only [encF]; omega
theorem vrmax (d : BitVec 6) (a : BitVec 6) (t : BitVec 3) : Statement (.vrmax d a t) := by
  intro w h; injection h with h; subst h; simp only [encF]; omega
theorem vrmin (d : BitVec 6) (a : BitVec 6) (t : BitVec 3) : Statement (.vrmin d a t) := by
  intro w h; injection h with h; subst h; simp only [encF]; omega
theorem vperm (d : BitVec 6) (a : BitVec 6) (b : BitVec 6) (t : BitVec 3) : Statement (.vperm d a b t) := by
  intro w h; injection h with h; subst h; simp only [encF]; omega
theorem vrot (d : BitVec 6) (a : BitVec 6) (b : BitVec 6) (t : BitVec 3) : Statement (.vrot d a b t) := by
  intro w h; injection h with h; subst h; simp only [encF]; omega
theorem vtld (d : BitVec 6) (a : BitVec 6) (b : BitVec 6) (t : BitVec 3) : Statement (.vtld d a b t) := by
  intro w h; injection h with h; subst h; simp only [encF]; omega
theorem vswap (d : BitVec 6) (a : BitVec 6) : Statement (.vswap d a) := by
  intro w h; injection h with h; subst h; simp only [encF]; omega
theorem vld (d : BitVec 6) (g : BitVec 7) : Statement (.vld d g) := by
  intro w h; injection h with h; subst h; simp only [encF]; omega
theorem vst (d : BitVec 6) (g : BitVec 7) : Statement (.vst d g) := by
  intro w h; injection h with h; subst h; simp only [encF]; omega
theorem vmovg (d : BitVec 7) (a : BitVec 6) (i : BitVec 5) (t : BitVec 3) : Statement (.vmovg d a i t) := by
  intro w h; injection h with h; subst h; simp only [encF]; omega
theorem vmovv (d : BitVec 6) (g : BitVec 7) (i : BitVec 5) (t : BitVec 3) : Statement (.vmovv d g i t) := by
  intro w h; injection h with h; subst h; simp only [encF]; omega
theorem vmovx (x : BitVec 3) (g : BitVec 7) : Statement (.vmovx x g) := by
  intro w h; injection h with h; subst h; simp only [encF]; omega
theorem vmovfx (d : BitVec 7) (x : BitVec 3) : Statement (.vmovfx d x) := by
  intro w h; injection h with h; subst h; simp only [encF]; omega
theorem dadd (d : BitVec 3) (a : BitVec 3) (b : BitVec 3) (k : BitVec 4) : Statement (.dadd d a b k) := by
  intro w h; injection h with h; subst h; simp only [encF]; omega
theorem dsub (d : BitVec 3) (a : BitVec 3) (b : BitVec 3) (k : BitVec 4) : Statement (.dsub d a b k) := by
  intro w h; injection h with h; subst h; simp only [encF]; omega
theorem dmul (d : BitVec 3) (a : BitVec 3) (b : BitVec 3) (k : BitVec 4) : Statement (.dmul d a b k) := by
  intro w h; injection h with h; subst h; simp only [encF]; omega
theorem dmax (d : BitVec 3) (a : BitVec 3) (b : BitVec 3) (k : BitVec 4) : Statement (.dmax d a b k) := by
  intro w h; injection h with h; subst h; simp only [encF]; omega
theorem dmin (d : BitVec 3) (a : BitVec 3) (b : BitVec 3) (k : BitVec 4) : Statement (.dmin d a b k) := by
  intro w h; injection h with h; subst h; simp only [encF]; omega
theorem dneg (d : BitVec 3) (a : BitVec 3) (k : BitVec 4) : Statement (.dneg d a k) := by
  intro w h; injection h with h; subst h; simp only [encF]; omega
theorem dld (d : BitVec 3) (g : BitVec 7) (k : BitVec 4) : Statement (.dld d g k) := by
  intro w h; injection h with h; subst h; simp only [encF]; omega
theorem dst (a : BitVec 3) (g : BitVec 7) : Statement (.dst a g) := by
  intro w h; injection h with h; subst h; simp only [encF]; omega
theorem dmk (d : BitVec 3) (g : BitVec 7) (k : BitVec 4) : Statement (.dmk d g k) := by
  intro w h; injection h with h; subst h; simp only [encF]; omega
theorem dtag (d : BitVec 3) (a : BitVec 3) (g : BitVec 7) (k : BitVec 4) : Statement (.dtag d a g k) := by
  intro w h; injection h with h; subst h; simp only [encF]; omega
theorem dsplat (d : BitVec 3) (g : BitVec 7) (k : BitVec 4) : Statement (.dsplat d g k) := by
  intro w h; injection h with h; subst h; simp only [encF]; omega
theorem dmomV (v : BitVec 3) (a : BitVec 3) (k : BitVec 4) (n : BitVec 2) : Statement (.dmomV v a k n) := by
  intro w h; injection h with h; subst h; simp only [encF]; omega
theorem dmomG (a : BitVec 3) (g : BitVec 7) (k : BitVec 4) (n : BitVec 2) : Statement (.dmomG a g k n) := by
  intro w h; injection h with h; subst h; simp only [encF]; omega
theorem dqntV (v : BitVec 3) (a : BitVec 3) (g : BitVec 7) (k : BitVec 4) : Statement (.dqntV v a g k) := by
  intro w h; injection h with h; subst h; simp only [encF]; omega
theorem dqntG (a : BitVec 3) (g : BitVec 7) (k : BitVec 4) : Statement (.dqntG a g k) := by
  intro w h; injection h with h; subst h; simp only [encF]; omega
theorem cpStart (a : BitVec 7) (b : BitVec 7) : Statement (.cpStart a b) := by
  intro w h; injection h with h; subst h; simp only [encF]; omega
theorem cpAbort (b : BitVec 7) : Statement (.cpAbort b) := by
  intro w h; injection h with h; subst h; simp only [encF]; omega
theorem cpWait (b : BitVec 7) : Statement (.cpWait b) := by
  intro w h; injection h with h; subst h; simp only [encF]; omega
theorem cpStatSt (d : BitVec 7) (b : BitVec 7) : Statement (.cpStatSt d b) := by
  intro w h; injection h with h; subst h; simp only [encF]; omega
theorem cpStatWm (d : BitVec 7) (b : BitVec 7) : Statement (.cpStatWm d b) := by
  intro w h; injection h with h; subst h; simp only [encF]; omega
theorem cpStatBc (d : BitVec 7) (b : BitVec 7) : Statement (.cpStatBc d b) := by
  intro w h; injection h with h; subst h; simp only [encF]; omega
theorem cpStatNb (d : BitVec 7) (b : BitVec 7) : Statement (.cpStatNb d b) := by
  intro w h; injection h with h; subst h; simp only [encF]; omega
theorem cpMbox (d : BitVec 7) (p : BitVec 5) : Statement (.cpMbox d p) := by
  intro w h; injection h with h; subst h; simp only [encF]; omega
theorem cpEv (d : BitVec 7) (p : BitVec 5) : Statement (.cpEv d p) := by
  intro w h; injection h with h; subst h; simp only [encF]; omega
theorem cpHalt : Statement (.cpHalt) := by
  intro w h; injection h with h; subst h; simp only [encF]; omega
theorem immHi (p : BitVec 22) : Statement (.immHi p) := by
  intro w h; injection h with h; subst h; simp only [encF]; omega
theorem rlx : Statement (.rlx) := by
  intro w h; injection h with h; subst h; simp only [encF]; omega
theorem rep (n : BitVec 6) (c : BitVec 7) (m : BitVec 3) : Statement (.rep n c m) := by
  intro w h; injection h with h; subst h; simp only [encF]; omega
theorem ckpt : Statement (.ckpt) := by
  intro w h; injection h with h; subst h; simp only [encF]; omega
theorem valueArrival (n : Nat) : Statement (.valueArrival n) := fun _ h => nomatch h
theorem storeAcknowledge (n : Nat) : Statement (.storeAcknowledge n) := fun _ h => nomatch h
theorem remoteRequest (n : Nat) : Statement (.remoteRequest n) := fun _ h => nomatch h
theorem hbmAccess (n : Nat) : Statement (.hbmAccess n) := fun _ h => nomatch h
theorem atomicPerform (n : Nat) : Statement (.atomicPerform n) := fun _ h => nomatch h
theorem feWaiterRetry (addr : Nat) : Statement (.feWaiterRetry addr) := fun _ h => nomatch h
theorem waitTableRetry (n : Nat) : Statement (.waitTableRetry n) := fun _ h => nomatch h
theorem strandAdmission (g : Nat) : Statement (.strandAdmission g) := fun _ h => nomatch h
theorem frameSpill (g : Nat) : Statement (.frameSpill g) := fun _ h => nomatch h
theorem frameRefill (g : Nat) (sid : Nat) : Statement (.frameRefill g sid) := fun _ h => nomatch h
theorem distributionEngineRelease (g : Nat) : Statement (.distributionEngineRelease g) := fun _ h => nomatch h
theorem vectorStart (g : Nat) : Statement (.vectorStart g) := fun _ h => nomatch h
theorem vectorComplete (g : Nat) : Statement (.vectorComplete g) := fun _ h => nomatch h
theorem channelVectorArrival (g : Nat) (ch : Nat) : Statement (.channelVectorArrival g ch) := fun _ h => nomatch h
theorem vswapVectorArrival (g : Nat) : Statement (.vswapVectorArrival g) := fun _ h => nomatch h
theorem matrixHeadCheck (g : Nat) : Statement (.matrixHeadCheck g) := fun _ h => nomatch h
theorem matrixGateTest (g : Nat) : Statement (.matrixGateTest g) := fun _ h => nomatch h
theorem mma (g : Nat) : Statement (.mma g) := fun _ h => nomatch h
theorem mmas (g : Nat) : Statement (.mmas g) := fun _ h => nomatch h
theorem tzero (g : Nat) : Statement (.tzero g) := fun _ h => nomatch h
theorem tload (g : Nat) : Statement (.tload g) := fun _ h => nomatch h
theorem tstore (g : Nat) : Statement (.tstore g) := fun _ h => nomatch h
theorem tscale (g : Nat) : Statement (.tscale g) := fun _ h => nomatch h
theorem smma24 (g : Nat) : Statement (.smma24 g) := fun _ h => nomatch h
theorem smma48 (g : Nat) : Statement (.smma48 g) := fun _ h => nomatch h
theorem gather (g : Nat) : Statement (.gather g) := fun _ h => nomatch h
theorem gmma (g : Nat) : Statement (.gmma g) := fun _ h => nomatch h
theorem remoteOperandChunkArrival (g : Nat) : Statement (.remoteOperandChunkArrival g) := fun _ h => nomatch h
theorem gatherChunkLanding (g : Nat) (i : Nat) : Statement (.gatherChunkLanding g i) := fun _ h => nomatch h
theorem matrixCommandComplete (g : Nat) : Statement (.matrixCommandComplete g) := fun _ h => nomatch h
theorem copyChunkIssue (g : Nat) : Statement (.copyChunkIssue g) := fun _ h => nomatch h
theorem copyChunkLanding (g : Nat) (ch : Nat) (i : Nat) : Statement (.copyChunkLanding g ch i) := fun _ h => nomatch h
theorem copyStageReleased (g : Nat) (ch : Nat) : Statement (.copyStageReleased g ch) := fun _ h => nomatch h
theorem copyIterationLanded (g : Nat) (ch : Nat) : Statement (.copyIterationLanded g ch) := fun _ h => nomatch h
theorem copyCommandComplete (g : Nat) (ch : Nat) : Statement (.copyCommandComplete g ch) := fun _ h => nomatch h
theorem copyAbortComplete (g : Nat) (ch : Nat) : Statement (.copyAbortComplete g ch) := fun _ h => nomatch h
theorem streamBlockRead (cl : Nat) (st : Nat) : Statement (.streamBlockRead cl st) := fun _ h => nomatch h
theorem streamBlockDeliver (cl : Nat) (st : Nat) (k : Nat) : Statement (.streamBlockDeliver cl st k) := fun _ h => nomatch h
theorem streamBlockRelease (cl : Nat) (st : Nat) : Statement (.streamBlockRelease cl st) := fun _ h => nomatch h
theorem rillValueLanding (g : Nat) : Statement (.rillValueLanding g) := fun _ h => nomatch h
theorem rillCreditReturn (g : Nat) : Statement (.rillCreditReturn g) := fun _ h => nomatch h
theorem rillCloseNotice (g : Nat) : Statement (.rillCloseNotice g) := fun _ h => nomatch h
theorem cascadeCheckpoint (g : Nat) : Statement (.cascadeCheckpoint g) := fun _ h => nomatch h
theorem lockstepCheckpoint (g : Nat) : Statement (.lockstepCheckpoint g) := fun _ h => nomatch h
theorem lockstepMismatch (g : Nat) : Statement (.lockstepMismatch g) := fun _ h => nomatch h
theorem stealRequest (g : Nat) : Statement (.stealRequest g) := fun _ h => nomatch h
theorem stealReply (g : Nat) : Statement (.stealReply g) := fun _ h => nomatch h
theorem stealBackoffExpiry (g : Nat) : Statement (.stealBackoffExpiry g) := fun _ h => nomatch h
theorem migrationDeparture (g : Nat) (sid : Nat) : Statement (.migrationDeparture g sid) := fun _ h => nomatch h
theorem contextMessage (n : Nat) : Statement (.contextMessage n) := fun _ h => nomatch h
theorem migrationRefusal (n : Nat) : Statement (.migrationRefusal n) := fun _ h => nomatch h
theorem migrationResend (n : Nat) : Statement (.migrationResend n) := fun _ h => nomatch h
theorem migrationAcceptance (n : Nat) : Statement (.migrationAcceptance n) := fun _ h => nomatch h
theorem contextSpill (g : Nat) : Statement (.contextSpill g) := fun _ h => nomatch h
theorem contextRefill (g : Nat) : Statement (.contextRefill g) := fun _ h => nomatch h
theorem forwardingEntryExpiry (g : Nat) : Statement (.forwardingEntryExpiry g) := fun _ h => nomatch h
theorem forwardedMessage (g : Nat) (n : Nat) : Statement (.forwardedMessage g n) := fun _ h => nomatch h
theorem tspawnRequest (n : Nat) : Statement (.tspawnRequest n) := fun _ h => nomatch h
theorem tstatRequest (n : Nat) : Statement (.tstatRequest n) := fun _ h => nomatch h
theorem regulatorAnswer (n : Nat) : Statement (.regulatorAnswer n) := fun _ h => nomatch h
theorem doorbell (h : HostHdr) (q : Nat) (tail : Nat) : Statement (.doorbell h q tail) := fun _ h => nomatch h
theorem launchRecordRead (tenant : Nat) (q : Nat) : Statement (.launchRecordRead tenant q) := fun _ h => nomatch h
theorem taskRelease (slot : Nat) : Statement (.taskRelease slot) := fun _ h => nomatch h
theorem gangPlacement (slot : Nat) (cores : List Nat) : Statement (.gangPlacement slot cores) := fun _ h => nomatch h
theorem startMessage (slot : Nat) : Statement (.startMessage slot) := fun _ h => nomatch h
theorem spawnMessage (slot : Nat) (member : Nat) : Statement (.spawnMessage slot member) := fun _ h => nomatch h
theorem taskCompletion (slot : Nat) : Statement (.taskCompletion slot) := fun _ h => nomatch h
theorem granuleStep (slot : Nat) : Statement (.granuleStep slot) := fun _ h => nomatch h
theorem cisternCommit (slot : Nat) : Statement (.cisternCommit slot) := fun _ h => nomatch h
theorem completionRecord (slot : Nat) : Statement (.completionRecord slot) := fun _ h => nomatch h
theorem completionHead (h : HostHdr) (q : Nat) (head : Nat) : Statement (.completionHead h q head) := fun _ h => nomatch h
theorem fenceWait (h : HostHdr) (fence : Nat) (v : Nat) (timeout : Nat) : Statement (.fenceWait h fence v timeout) := fun _ h => nomatch h
theorem fenceWaitTimeout (n : Nat) : Statement (.fenceWaitTimeout n) := fun _ h => nomatch h
theorem taskRetirement (slot : Nat) : Statement (.taskRetirement slot) := fun _ h => nomatch h
theorem taskStop (slot : Nat) : Statement (.taskStop slot) := fun _ h => nomatch h
theorem faultRecordWrite (slot : Nat) : Statement (.faultRecordWrite slot) := fun _ h => nomatch h
theorem sliceExpiry (slot : Nat) : Statement (.sliceExpiry slot) := fun _ h => nomatch h
theorem quiescenceComplete (slot : Nat) : Statement (.quiescenceComplete slot) := fun _ h => nomatch h
theorem quiescenceCancel (slot : Nat) : Statement (.quiescenceCancel slot) := fun _ h => nomatch h
theorem quiescenceRetry (slot : Nat) : Statement (.quiescenceRetry slot) := fun _ h => nomatch h
theorem taskResume (slot : Nat) : Statement (.taskResume slot) := fun _ h => nomatch h
theorem compactionEntryWrite (r : Nat) : Statement (.compactionEntryWrite r) := fun _ h => nomatch h
theorem rekeySweepStep (r : Nat) : Statement (.rekeySweepStep r) := fun _ h => nomatch h
theorem clusterRetirementEffect (cl : Nat) : Statement (.clusterRetirementEffect cl) := fun _ h => nomatch h
theorem channelRetirementEffect (stack : Nat) (ch : Nat) : Statement (.channelRetirementEffect stack ch) := fun _ h => nomatch h
theorem hostTransferChunk (t : Transfer) : Statement (.hostTransferChunk t) := fun _ h => nomatch h
theorem groupSendSlotTake (q : Nat) : Statement (.groupSendSlotTake q) := fun _ h => nomatch h
theorem collectiveChunkReceive (p : GroupPacket) : Statement (.collectiveChunkReceive p) := fun _ h => nomatch h
theorem collectiveChunkAck (q : Nat) (i : Nat) (ok : Bool) : Statement (.collectiveChunkAck q i ok) := fun _ h => nomatch h
theorem packageReset (fw : List Bool) : Statement (.packageReset fw) := fun _ h => nomatch h
theorem reducedServiceStart : Statement (.reducedServiceStart) := fun _ h => nomatch h
theorem clusterSelfTestResult (cl : Nat) (pass : Bool) : Statement (.clusterSelfTestResult cl pass) := fun _ h => nomatch h
theorem fullServiceSwitch : Statement (.fullServiceSwitch) := fun _ h => nomatch h
theorem thermalThrottle (die : Nat) : Statement (.thermalThrottle die) := fun _ h => nomatch h
theorem thermalTrip (die : Nat) : Statement (.thermalTrip die) := fun _ h => nomatch h
theorem powerWindowExpiry (watts : Nat) : Statement (.powerWindowExpiry watts) := fun _ h => nomatch h
theorem refresh (cycles : Nat) : Statement (.refresh cycles) := fun _ h => nomatch h
theorem linkLayerRetry (cycles : Nat) : Statement (.linkLayerRetry cycles) := fun _ h => nomatch h
theorem linkTraining (port : Nat) : Statement (.linkTraining port) := fun _ h => nomatch h
theorem patrolScrub (stack : Nat) : Statement (.patrolScrub stack) := fun _ h => nomatch h
theorem uncorrectableData (addr : Nat) : Statement (.uncorrectableData addr) := fun _ h => nomatch h
theorem gangCoreUncorrectableError (g : Nat) (unit : Nat) (addr : Nat) : Statement (.gangCoreUncorrectableError g unit addr) := fun _ h => nomatch h
theorem statusRead (h : ReqHdr) : Statement (.statusRead h) := fun _ h => nomatch h
theorem ownershipClaim (h : ReqHdr) : Statement (.ownershipClaim h) := fun _ h => nomatch h
theorem ownershipHandover (h : ReqHdr) (dst : Nat) : Statement (.ownershipHandover h dst) := fun _ h => nomatch h
theorem handoverAck (h : ReqHdr) : Statement (.handoverAck h) := fun _ h => nomatch h
theorem handoverLapse : Statement (.handoverLapse) := fun _ h => nomatch h
theorem keepalive (h : ReqHdr) : Statement (.keepalive h) := fun _ h => nomatch h
theorem ownershipLoss : Statement (.ownershipLoss) := fun _ h => nomatch h
theorem tenantCreate (h : ReqHdr) (t : Nat) (endpoint : Nat) (handler : Nat) : Statement (.tenantCreate h t endpoint handler) := fun _ h => nomatch h
theorem launchQueueCreate (h : ReqHdr) (t : Nat) (q : Nat) (rec : QueueDesc) : Statement (.launchQueueCreate h t q rec) := fun _ h => nomatch h
theorem fenceCreate (h : ReqHdr) (t : Nat) (i : FenceDesc) : Statement (.fenceCreate h t i) := fun _ h => nomatch h
theorem faultRingRegister (h : ReqHdr) (t : Nat) (r : Nat) : Statement (.faultRingRegister h t r) := fun _ h => nomatch h
theorem faultSlotFree (h : ReqHdr) (t : Nat) (slot : Nat) : Statement (.faultSlotFree h t slot) := fun _ h => nomatch h
theorem regionCreate (h : ReqHdr) (d : RegionDesc) : Statement (.regionCreate h d) := fun _ h => nomatch h
theorem regionFree (h : ReqHdr) (r : Nat) : Statement (.regionFree h r) := fun _ h => nomatch h
theorem regionRevoke (h : ReqHdr) (r : Nat) : Statement (.regionRevoke h r) := fun _ h => nomatch h
theorem regionQuery (h : ReqHdr) (r : Nat) : Statement (.regionQuery h r) := fun _ h => nomatch h
theorem regionCompact (h : ReqHdr) (r : Nat) (base : Nat) : Statement (.regionCompact h r base) := fun _ h => nomatch h
theorem regionRekey (h : ReqHdr) (r : Nat) : Statement (.regionRekey h r) := fun _ h => nomatch h
theorem incompleteMarkClear (h : ReqHdr) (r : Nat) : Statement (.incompleteMarkClear h r) := fun _ h => nomatch h
theorem memoryWindowInstall (h : ReqHdr) (t : Nat) (i : Nat) (w : BitVec 128) : Statement (.memoryWindowInstall h t i w) := fun _ h => nomatch h
theorem partitionRecordInstall (h : ReqHdr) (p : BitVec 256) : Statement (.partitionRecordInstall h p) := fun _ h => nomatch h
theorem sliceSet (h : ReqHdr) (t : Nat) (cycles : Nat) : Statement (.sliceSet h t cycles) := fun _ h => nomatch h
theorem powerCapSet (h : ReqHdr) (watts : Nat) : Statement (.powerCapSet h watts) := fun _ h => nomatch h
theorem methodEntryInstall (h : ReqHdr) (i : Nat) (e : BitVec 512) : Statement (.methodEntryInstall h i e) := fun _ h => nomatch h
theorem imageInstall (h : ReqHdr) (base : Nat) (img : List (BitVec 8)) : Statement (.imageInstall h base img) := fun _ h => nomatch h
theorem translation (o : PraowFile) : Statement (.translation o) := fun _ h => nomatch h
theorem revocationListInstall (h : ReqHdr) (l : RevocationList) : Statement (.revocationListInstall h l) := fun _ h => nomatch h
theorem linkDomainCreate (h : ReqHdr) (d : BitVec 1024) : Statement (.linkDomainCreate h d) := fun _ h => nomatch h
theorem linkDomainDelete (h : ReqHdr) (dom : Nat) : Statement (.linkDomainDelete h dom) := fun _ h => nomatch h
theorem landingBind (h : ReqHdr) (dom : Nat) (i : Nat) (image : BitVec 64) (k : Nat) : Statement (.landingBind h dom i image k) := fun _ h => nomatch h
theorem keyInstall (h : ReqHdr) (ct : List (BitVec 8)) (wrapped : List (BitVec 8)) : Statement (.keyInstall h ct wrapped) := fun _ h => nomatch h
theorem keyDestroy (h : ReqHdr) (handle : BitVec 64) : Statement (.keyDestroy h handle) := fun _ h => nomatch h
theorem clusterRetire (h : ReqHdr) (cl : Nat) : Statement (.clusterRetire h cl) := fun _ h => nomatch h
theorem channelRetire (h : ReqHdr) (stack : Nat) (ch : Nat) : Statement (.channelRetire h stack ch) := fun _ h => nomatch h
theorem returnToService (h : ReqHdr) (g : Nat) : Statement (.returnToService h g) := fun _ h => nomatch h
theorem portSplit (h : ReqHdr) (port : Nat) : Statement (.portSplit h port) := fun _ h => nomatch h
theorem viewInstall (h : ReqHdr) (v : ViewRecord) : Statement (.viewInstall h v) := fun _ h => nomatch h
theorem rosterInstall (h : ReqHdr) (v : RosterRecord) : Statement (.rosterInstall h v) := fun _ h => nomatch h
theorem groupSendQueueBind (h : ReqHdr) (q : Nat) (r : Nat) (port : Nat) (group : Nat) : Statement (.groupSendQueueBind h q r port group) := fun _ h => nomatch h
theorem migrationRound (h : ReqHdr) (t : Nat) : Statement (.migrationRound h t) := fun _ h => nomatch h
theorem migrationFinalRound (h : ReqHdr) (t : Nat) : Statement (.migrationFinalRound h t) := fun _ h => nomatch h
theorem attestationReport (h : ReqHdr) (nonce : BitVec 512) (key : BitVec 64) (image : BitVec 64) : Statement (.attestationReport h nonce key image) := fun _ h => nomatch h
theorem tagFillLanding (n : Nat) : Statement (.tagFillLanding n) := fun _ h => nomatch h
theorem throttlingEnd (die : Nat) : Statement (.throttlingEnd die) := fun _ h => nomatch h

end Sys2Proof.Laws.WordFits
end

