-- ==== Sys2Proof/Laws/Words.lean ====
section
/-! SUPPORT. What the shared shapes of a meaning do: a word that may issue has its effect, one that is illegal, hazardous or
waiting has the effect its exception or its wait gives, and without an issuer nothing happens. -/

namespace Sys2Proof.Machine

/-- A word that may issue goes on with its operands. -/
theorem operands_of_issues {s : State} {x : Iss} {i : Instr} (h : Issues s x i) :
    operands s x i none = .go (inputs s x i) (afterReads s x i) := by
  obtain ⟨-, hl, hh, hp, hq⟩ := h
  simp only [inputs, afterReads, popsOf] at *
  unfold operands
  simp only [hl, hh, Bool.not_true, Bool.false_eq_true, if_false]
  generalize (usesOf i).src.count 121 = n at *
  have hd : ((usesOf i).dst.contains 122 && !(usesOf i).late && !pushReady s x.g x.sid) = false := by
    cases hc : (usesOf i).dst.contains 122
    · rfl
    · cases hlate : (usesOf i).late
      · simp [hq (List.contains_iff_mem.mp hc) hlate]
      · rfl
  split
  · next h0 => simp [h0.1, popQin]
  · rcases Nat.eq_zero_or_pos n with h0 | h0
    · simp only [h0, Nat.lt_irrefl, decide_false, Bool.false_and, Bool.false_eq_true, if_false, hd]
    · cases hcl : x.c.rill.closed
      · obtain ⟨hm, ha, hc⟩ := hp h0 hcl
        simp only [h0, hm, ha, hd, Nat.not_lt.mpr hc, decide_true, decide_false, Bool.and_false, Bool.not_true, Bool.false_eq_true, if_false]
      · simp only [hd, Bool.not_true, Bool.and_false, Bool.false_and, Bool.false_eq_true, if_false]

/-- The effect on an agent whose word may issue and has no gate to wait for. -/
theorem wordOn_of_issues {s : State} {x : Iss} {i : Instr} (h : Issues s x i) (k : Iss → List Word → State → State) :
    wordOn i s x none k = k x (inputs s x i) (afterReads s x i) := by
  unfold wordOn; rw [operands_of_issues h]

/-- The effect of a word without a gate of its own that may issue. -/
theorem word_of_issues {s : State} {x : Iss} {i : Instr} (h : Issues s x i) (k : Iss → List Word → State → State) :
    word i s k = .next (k x (inputs s x i) (afterReads s x i)) := by
  unfold word wordG onIssuer; rw [h.issuer]; exact congrArg _ (wordOn_of_issues h k)

/-- The effect of a word that may issue and whose gate is open. -/
theorem wordG_of_issues {s : State} {x : Iss} {i : Instr} (h : Issues s x i) {gate : Iss → Option Wait} (hg : gate x = none)
    (k : Iss → List Word → State → State) : wordG i s gate k = .next (k x (inputs s x i) (afterReads s x i)) := by
  unfold wordG onIssuer; rw [h.issuer]; dsimp only; rw [hg, wordOn_of_issues h k]

/-- A scalar word that may issue computes its value. -/
theorem scalar_of_issues {s : State} {x : Iss} {i : Instr} (h : Issues s x i) (d : RCode) (f : Iss → List Word → Word × Flags) :
    scalar i d s f = .next (finish (afterReads s x i) x d (f x (inputs s x i))) := word_of_issues h _

/-- The state in which a word has its effect is the state before it but for the values popped. -/
theorem operands_go {s s' : State} {x : Iss} {i : Instr} {gate : Option Wait} {vs : List Word}
    (h : operands s x i gate = .go vs s') : ∃ n, s' = (popQin s x n).2 := by
  unfold operands at h
  dsimp only at h
  repeat' split at h
  all_goals first
    | (exfalso; revert h; simp; done)
    | (injection h with _ h; exact ⟨(usesOf i).src.count 121, h.symm⟩)
    | (injection h with _ h; exact ⟨0, h.symm⟩)

/-- What a meaning of a word answers, in every case. -/
theorem wordG_cases {i : Instr} {s t : State} {gate : Iss → Option Wait} {k : Iss → List Word → State → State}
    (h : wordG i s gate k = .next t) : ∃ x, issuer? s = some x ∧
      (t = illegal s x ∨ (∃ aux, t = raiseAt s x 9 1 aux 0 63) ∨ (∃ w, t = waitFor s x w) ∨
        ∃ vs n, t = k x vs (popQin s x n).2) := by
  unfold wordG onIssuer at h
  split at h
  · cases h
  · next x hx =>
    refine ⟨x, hx, ?_⟩
    injection h with h
    unfold wordOn at h
    dsimp only at h
    split at h
    · exact .inl h.symm
    · exact .inr (.inl ⟨_, h.symm⟩)
    · exact .inr (.inr (.inl ⟨_, h.symm⟩))
    · next hgo =>
      obtain ⟨n, rfl⟩ := operands_go hgo
      exact .inr (.inr (.inr ⟨_, n, h.symm⟩))

end Sys2Proof.Machine
end

