-- ==== Sys2Proof/Tests/Slice0.lean ====
section
/-! SUPPORT. Tests of single steps against the spec's own words and numbers, and for every statement concrete states and operands
that meet its hypotheses, clause by clause. -/

namespace Sys2Proof.Tests

open Sys2Proof.Machine

set_option Elab.async false

/-! ### Small states -/

/-- The state in which a word issues next (R112), from reset. -/
def place (i : Instr) : State := probe State.reset ((encode i).getD 0)

/-- That state with the issuing agent changed. -/
def onT (s : State) (f : Strand → Strand) : State := updStrand s 0 s.cur.slot f
/-- With its core changed. -/
def onC (s : State) (f : Core → Core) : State := updCore s 0 f
/-- With its task changed. -/
def onK (s : State) (f : Task → Task) : State := updTask s 0 f
/-- With general registers set. -/
def regs (s : State) (l : List (Nat × Word)) : State := onT s fun t => { t with regs := l }
/-- A word placed with general registers set. -/
def placeR (i : Instr) (l : List (Nat × Word)) : State := regs (place i) l

/-- The agent that issues. -/
def who (s : State) : Iss := (issuer? s).getD { g := 0, sid := 0, c := Core.idle, t := Strand.blank }

/-- Whether a word issues: the test that `Issues` states. -/
def can (s : State) (i : Instr) : Bool :=
  let x := who s
  (issuer? s).isSome && legalFor x i && (hazard s x i).isNone &&
  (popsOf i == 0 || x.c.rill.closed || (!markerNext x.c.rill && accessReady s x.g x.sid false && decide (popsOf i ≤ rillCount x.c.rill))) &&
  (!((usesOf i).dst.contains 122 && !(usesOf i).late) || pushReady s x.g x.sid)

theorem can_issues {s : State} {i : Instr} (h : can s i = true) : Issues s (who s) i := by
  simp only [can, Bool.and_eq_true, Bool.or_eq_true, Bool.not_eq_true', decide_eq_true_eq, beq_iff_eq] at h
  obtain ⟨⟨⟨⟨h1, h2⟩, h3⟩, h4⟩, h5⟩ := h
  refine ⟨?_, h2, Option.isNone_iff_eq_none.mp h3, ?_, ?_⟩
  · unfold who; cases h : issuer? s <;> simp_all
  · intro h hc; rcases h4 with (h4 | h4) | h4
    · omega
    · simp_all
    · exact ⟨h4.1.1, h4.1.2, h4.2⟩
  · intro h6 h7; rcases h5 with h5 | h5
    · simp_all
    · exact h5

/-- A state, a word, and a condition on both and on the agent that issues. -/
abbrev Case := State × Instr × (State → Iss → Instr → Bool)

/-- The word issues there and the condition holds. -/
def Case.Met (c : Case) : Prop := ∃ x, Issues c.1 x c.2.1 ∧ c.2.2 c.1 x c.2.1 = true

/-- The same as a test. -/
def Case.ok (c : Case) : Bool := can c.1 c.2.1 && c.2.2 c.1 (who c.1) c.2.1

theorem cases_met {l : List Case} (h : l.all Case.ok = true) : ∀ c ∈ l, c.Met := by
  intro c hc
  have := List.all_eq_true.mp h c hc
  simp only [Case.ok, Bool.and_eq_true] at this
  exact ⟨_, can_issues this.1, this.2⟩

/-- No condition but that the word issues. -/
def free : State → Iss → Instr → Bool := fun _ _ _ => true

/-- Words that issue from their placing, with nothing else asked. -/
def plain (l : List Instr) : List Case := l.map fun i => (place i, i, free)

/-- A state and a condition on it: a step without a word has no agent that issues. -/
abbrev At := State × (State → Bool)

/-- A value made of fields, each at its lowest bit. -/
def fields (l : List (Nat × Nat)) : Nat := (l.map fun p => p.2 * 2 ^ p.1).sum

/-- A machine with task 0 on core 0 and its strand 0, and a part of it changed. -/
def base : State := place .nop
/-- The task's members, cap of strands and stealing domain. -/
def gang (s : State) (l : List Nat) : State := onK s fun k => { k with members := l, record := BitVec.ofNat 2048 (64 * 2 ^ 1692 + 2 * 2 ^ 1699) }

/-- The test that `Access.Ready` states. -/
def ready (s : State) (a : Access) : Bool :=
  accAt? s a.id == some a && !a.performed && !a.parked && a.mayRepeat s && !coreHeld s a.gcn && mayPerform s a && !guardHolds s a && testPasses s a

theorem ready_ready {s : State} {a : Access} (h : ready s a = true) : a.Ready s := by
  simpa [ready, Access.Ready, and_assoc] using h

/-! ### Ill-formed instructions are refused, one for each check -/

/-- Ill-formed terms for each check of WellFormed: register codes, pairs, fields, status numbers, specifiers, types, packing. -/
theorem wf_refuses_registers : ∀ i ∈ [Instr.add 121 0 0, .add 0 122 0, .cas 121 0 0 0, .mul 3 0 0 0, .mul 119 0 0 0, .jr 124, .rep 1 122 0],
    i.wf = false := by decide
theorem wf_refuses_fields : ∀ i ∈ [Instr.sext 0 0 0, .sext 0 0 64, .cmp 0 0 8 1 1 0, .cmp 0 0 0 1 0 1, .lds 0 0 0 3 0, .wrd 0 0 4, .chkR 0 0 10],
    i.wf = false := by decide
theorem wf_refuses_status : ∀ i ∈ [Instr.mfs 0 10, .mfs 0 15, .mfs 0 32, .mts 0 3, .mts 0 6, .mts 0 32], i.wf = false := by decide
theorem wf_refuses_vectors : ∀ i ∈ [Instr.vadd 40 0 0 0, .vadd 0 45 0 0, .vadd 0 0 0 3, .vfadd 0 0 0 2, .vdot 0 0 0 2, .vwadd 1 0 0 0, .vwadd 40 0 0 0],
    i.wf = false := by decide
theorem wf_refuses_conversions : ∀ i ∈ [Instr.vcvt 0 0 0 1 5 5, .vcvt 0 0 0 2 5 3, .vcvt 0 0 1 0 5 7, .vcvtn 0 0 0 0 7 7, .vcvt4 0 0 0 2 0, .vunpk4 0 0 2 0, .vpack4 32 0 0],
    i.wf = false := by decide
theorem wf_refuses_packing : ∀ i ∈ [Instr.vquant 1 0 0 1 1 7, .vquant 0 0 0 0 0 7, .vquant 0 0 0 0 1 2, .vprune24 3 0 3 0, .vprune48 3 0 3 0,
    .vmovg 0 32 0 0, .vmovv 32 0 0 0], i.wf = false := by decide
theorem wf_accepts_bounds : ∀ i ∈ [Instr.add 122 121 123, .mul 118 120 0 0, .sext 0 0 1, .sext 0 0 63, .mfs 0 9, .mts 0 31, .vwadd 39 44 0 1],
    i.wf = true := by decide

/-! ### Words bit by bit from the encodings of spec/04 to spec/16 -/

/-- Each form's word, its fields written in their order from bit 31 down. -/
theorem test_words_scalar : ∀ p ∈ [
    (0b000001_0001001_0001001_0001010_10000, Instr.adds 9 9 10),
    (0b000010_0000011_0000100_0001100_00111, .sext 3 4 12),
    (0b000011_0001010_0000100_0000101_0001_0, .mul 10 4 5 1),
    (0b000100_0000011_0000011_111111111111, .addi 3 3 0xFFF),
    (0b001000_0000110_0000101_0000_10_000011, .srai 6 5 3),
    (0b001101_0001000_0000011_0000100_10010, .sel 8 3 4 2),
    (0b001110_0010100_0010101_0010110_00100, .fmac 20 21 22)], decodeTableWord 32 p.1 = some p.2 ∧ encode p.2 = some p.1 := by decide
theorem test_words_control : ∀ p ∈ [
    (0b010001_00001_1_00000000000000100101, Instr.bp 1 37),
    (0b001111_11111111111111111111111111, .br 0x3FFFFFF),
    (0b100000_0000000_0000011_0010001_00001, .trap 3 17),
    (0b100000_0000000_0000010_0010011_00100, .mts 2 19),
    (0b111110_0011000_0110001_00110100_0000, .rep 3 9 5)], decodeTableWord 32 p.1 = some p.2 ∧ encode p.2 = some p.1 := by decide
theorem test_words_memory : ∀ p ∈ [
    (0b010100_0000111_0000010_0011_11_000010, Instr.ld 7 2 3 3 2),
    (0b010111_0000101_0000001_0010_01_000001, .ldt 5 1 2 1),
    (0b011001_0000110_0000010_0000111_0100_0, .cas 6 2 7 4),
    (0b011011_0100010_0000101_0000011_00010, .chkW 2 5 3),
    (0b011100_0000011_0000010_0000000_00101, .barArrive 3 2)], decodeTableWord 32 p.1 = some p.2 ∧ encode p.2 = some p.1 := by decide
theorem test_words_engines : ∀ p ∈ [
    (0b100001_100000_100001_100010_00000_010, Instr.vadd 32 33 34 2),
    (0b100010_001000_100000_101001_00100_101, .vfmac 8 32 41 5),
    (0b100111_011_001_010_0000000_0010_000010, .dmul 3 1 2 2),
    (0b011110_0000000_0000101_1000011_00000, .mxIssueMeta 5 3),
    (0b101010_0000000_0000010_0000011_00000, .cpStart 2 3),
    (0b101011_0000101_0000000_0000011_00001, .cpStatWm 5 3)], decodeTableWord 32 p.1 = some p.2 ∧ encode p.2 = some p.1 := by decide
theorem test_reserved_words : decodeTableWord 32 0 = none ∧ decodeTableWord 32 0xB8000000 = none ∧ decodeTableWord 32 0x04000014 = none ∧
    decodeTableWord 32 0x08000020 = none := by decide

/-! ### Witnesses: scalar words -/

/-- O1: every word of major 1 and of the immediate forms issues; the sums of `adds`, `subs`, `addsn`, `subsn` at and beyond their bounds. -/
theorem witness_IntegerWordsCompute_a : ∀ c ∈ plain [.add 3 4 5, .sub 3 4 5, .and 3 4 5, .or 3 4 5, .xor 120 4 123, .andn 3 4 5, .orn 3 4 5], c.Met := cases_met (by decide +kernel)
theorem witness_IntegerWordsCompute_b : ∀ c ∈ plain [.sll 3 4 5, .srl 3 4 5, .sra 3 4 5, .slt 3 4 5, .sltn 3 4 5, .min 3 4 5, .max 3 4 5], c.Met := cases_met (by decide +kernel)
theorem witness_IntegerWordsCompute_c : ∀ c ∈ plain [.minn 3 4 5, .maxn 3 4 5, .adds 3 4 5, .subs 3 4 5, .addsn 3 4 5, .subsn 119 4 5], c.Met := cases_met (by decide +kernel)
theorem witness_IntegerWordsCompute_d : ∀ c ∈ plain [.addi 3 4 0x800, .andi 3 4 1, .ori 3 4 1, .xori 3 4 1, .slti 3 4 0xFFF, .sltni 3 4 0x7FF], c.Met := cases_met (by decide +kernel)
theorem witness_IntegerWordsCompute_e : ∀ c ∈ plain [.slli 3 4 63, .srli 3 4 0, .srai 3 4 63, .rori 3 4 1], c.Met := cases_met (by decide +kernel)
/-- With `qin` and `qout` as operands of a cascade stage, and under `imm.hi`. -/
theorem witness_IntegerWordsCompute_f : ∀ c ∈ ([
    (onC (place (.add 122 121 121)) fun c => { c with
        stage := some { stage := 1, stages := 3, up := some 1, down := some 2, period := 1, pushes := 0, taken := 0, due := false, recs := [] }
        rill := { c.rill with inq := [.val 5, .marker, .val 6] } },
      .add 122 121 121, fun s x i => input s x i 0 == 5 && input s x i 1 == 6),
    (onT (place (.addi 5 120 0x789)) fun t => { t with hint := .immHi (t.pc - 4) 0x123456 }, .addi 5 120 0x789, free)] : List Case), c.Met := cases_met (by decide +kernel)
theorem witness_IntegerWordsCompute_reserved : (0x04000014 : Nat) < 2 ^ 32 ∧ 0x04000014 / 2 ^ 26 = 1 ∧ 20 ≤ 0x04000014 % 2 ^ 5 ∧
    0x20000100 < 2 ^ 32 ∧ 0x20000100 / 2 ^ 26 = 8 ∧ 0x20000100 / 2 ^ 8 % 2 ^ 4 ≠ 0 := by decide

/-- O2: major 2 and major 3; the three cases of `div`. -/
theorem witness_BitWordsMultiplyAndDivide_a : ∀ c ∈ plain [.clz 3 4, .ctz 3 4, .popc 3 4, .brev 3 4, .bswap 3 4], c.Met := cases_met (by decide +kernel)
theorem witness_BitWordsMultiplyAndDivide_b : ∀ c ∈ plain [.rol 3 4 5, .ror 3 4 5, .sext 3 4 1, .sext 3 4 63, .zext 3 4 63, .mul 118 4 5 15, .div 120 4 5 0], c.Met := cases_met (by decide +kernel)
theorem witness_BitWordsMultiplyAndDivide_c : ∀ c ∈ ([
    (placeR (.div 16 4 5 0) [(4, 7)], .div 16 4 5 0, fun s x i => input s x i 1 == 0),
    (placeR (.div 16 4 5 0) [(4, 0x8000000000000000), (5, 0xFFFFFFFFFFFFFFFF)], .div 16 4 5 0, fun s x i => (input s x i 0).toInt == -2 ^ 63 && (input s x i 1).toInt == -1),
    (placeR (.div 16 4 5 0) [(4, 0x8000000000000000), (5, 1)], .div 16 4 5 0, fun s x i => input s x i 1 != 0)] : List Case), c.Met := cases_met (by decide +kernel)
theorem witness_BitWordsMultiplyAndDivide_reserved : 0x08000009 / 2 ^ 26 = 2 ∧ 9 ≤ 0x08000009 % 2 ^ 5 ∧ 0x08000020 / 2 ^ 26 = 2 ∧
    0x08000020 % 2 ^ 5 < 5 ∧ 0x08000020 / 2 ^ 5 % 2 ^ 7 ≠ 0 := by decide

/-- O3: every word of major 14. -/
theorem witness_ScalarFloat_a : ∀ c ∈ plain [.fadd 3 4 5, .fsub 3 4 5, .fmul 3 4 5, .fdiv 3 4 5, .fmac 3 4 5, .fsqrt 3 4, .fmin 3 4 5, .fmax 3 4 5, .fabs 3 4], c.Met := cases_met (by decide +kernel)
theorem witness_ScalarFloat_b : ∀ c ∈ plain [.fneg 3 4, .feq 3 4 5, .flt 3 4 5, .fle 3 4 5, .fcvtI 3 4, .fcvtN 3 4, .icvtF 3 4, .ncvtF 3 4], c.Met := cases_met (by decide +kernel)

/-- O4: compares with each condition, with and without a skip; predicate words with p0 and p31; `sel` by p0 and p15. -/
theorem witness_ComparesAndPredicates_a : ∀ c ∈ plain [.cmp 4 5 0 0 0 0, .cmp 4 5 1 31 3 1, .cmp 4 5 2 1 1 0, .cmp 4 5 3 1 1 1, .cmpi 4 0x40 4 1 1 1, .cmpi 4 0x3F 5 1 1 0,
    .cmpi 4 1 6 1 0 0, .cmpi 4 0 7 1 2 1], c.Met := cases_met (by decide +kernel)
theorem witness_ComparesAndPredicates_b : ∀ c ∈ plain [.pand 0 1 31, .por 31 0 1, .pxor 1 2 3, .pandn 1 2 3, .porn 1 2 3, .pnot 0 0], c.Met := cases_met (by decide +kernel)
theorem witness_ComparesAndPredicates_c : ∀ c ∈ plain [.mfp 3, .mtp 4 5, .sel 3 4 5 0, .sel 3 4 5 15], c.Met := cases_met (by decide +kernel)

/-- O5: branches taken and not, jumps; a full window-stack area and a last frame that fits; `leave` without a frame, of another size, and of a resident frame. -/
theorem witness_BranchesAndWindowStack_a : ∀ c ∈ plain [.br 0x2000000, .call 1, .bp 0 0x80000, .bpn 0 1, .jr 4, .jalr 123 123, .ret], c.Met := cases_met (by decide +kernel)
def frames (n k : Nat) (r : Bool) : List Frame := List.replicate n { k := k, age := 0, lr := 0, regs := List.replicate k 0, resident := r }
theorem witness_BranchesAndWindowStack_b : ∀ c ∈ ([
    (onT (place (.bpn 31 1)) fun t => { t with pred := 0x80000001 }, .bpn 31 1, fun _ x _ => x.t.pred.getLsbD 31),
    (onT (place (.enter 3)) fun t => { t with frames := frames 15 32 false }, .enter 3, fun _ x _ => !x.t.roaming && decide (512 < stackWords x.t + 34)),
    (onT (place (.enter 0)) fun t => { t with frames := frames 14 32 false ++ frames 1 24 false }, .enter 0,
      fun _ x _ => !x.t.roaming && stackWords x.t + 10 == 512 && decide (10 ≤ spareEntries x.c)),
    (place (.leave 0), .leave 0, fun _ x _ => !x.t.roaming && x.t.frames == []),
    (onT (place (.leave 0)) fun t => { t with frames := frames 1 16 true }, .leave 0, fun _ x _ => !x.t.roaming && (x.t.frames.head?.map fun f => f.k) == some 16),
    (onT (place (.leave 3)) fun t => { t with frames := frames 2 32 true }, .leave 3,
      fun _ x _ => !x.t.roaming && x.t.frames.head? == some { k := 32, age := 0, lr := 0, regs := List.replicate 32 0, resident := true })] : List Case), c.Met := cases_met (by decide +kernel)
theorem witness_BranchesAndWindowStack_reserved : ∀ w ∈ [0x48000020, 0x48080000, 0x48000021, 0x48080002], w / 2 ^ 26 = 18 ∧
    (w % 2 ^ 5 = 0 ∧ (w / 2 ^ 19 % 2 ^ 7 ≠ 0 ∨ w / 2 ^ 5 % 2 ^ 7 ≠ 0) ∨ w % 2 ^ 5 = 1 ∧ w / 2 ^ 5 % 2 ^ 7 ≠ 0 ∨ w % 2 ^ 5 = 2 ∧ w / 2 ^ 5 % 2 ^ 21 ≠ 0) := by decide

/-- A strand of another number beside the one that issues. -/
def withOther (s : State) : State := onC s fun c => { c with strands := kset c.strands 5 (probeStrand false) }
/-- A roaming strand with 24 registers carried (R34). -/
def roam (s : State) : State := onT s fun t => { t with roaming := true, carry := 24, shapeW := 24, shapeV := 0, shapeD := 0 }
/-- A debug launch that may access everything (R437). -/
def debug (s : State) : State := onT (onK s fun k => { k with record := BitVec.ofNat 2048 (2 ^ 1702) })
  fun t => { t with wins := [(0, { gen := 1, region := 1, access := 3, limit := 0xFFFFFFFFFFFF, base := 0 })] }
/-- A lock-step pair at rest (R210). -/
def freshLock : Lock :=
  { release := [], drain := [], granted := [], undo := [], lastCkpt := 0, strands := [], tiles := [], missed := none, count := 0, mark := 0, parked := [], deque := [],
    startQ := [], kregs := [], kpend := [], tagTab := [], victims := [], mailbox := [], epHalted := true, channels := [], bits := [], events := [], vq := [], mq := [],
    swapped := 0, swaps := [] }
def locked (s : State) (granted : List Nat) : State := onC s fun c => { c with lock := some { freshLock with granted := granted } }
/-- An access in flight of the strand that issues. -/
def acc (kind : AccKind) (a : Nat) : Access :=
  { id := 0, gcn := 0, sid := 0, kind := kind, addr := a, data := 0, vdata := 0, relaxed := false, performed := false, parked := false, refused := false, pc := 0,
    word := 0, fenced := [], done := 0, bad := none }
def withAcc (s : State) (a : Access) : State := { s with accs := [a], nextId := 1 }
def child : Child := { pc := 0, g0 := 0, g1 := 0, g2 := 0, roaming := false, shapeW := 8, shapeV := 0, shapeD := 0, carry := 0, tid := 0 }

/-- O6: the four forks with room in the deque, with none, and behind an access; `exit` without a counter, with one at a hole, at a word and misaligned. -/
def forkable (s : State) (x : Iss) : Bool := accsOf s x.g x.sid == [] && !unacked s x.g x.sid && (taskOn s x.g).all fun t => t.period == 0
theorem witness_StrandsForkAndExit_a : ∀ c ∈ ([Instr.fork 1 4 0x40, .forkRCarry8 1 4 1, .forkRCarry16 31 4 1, .forkRCarry24 0 4 1].flatMap fun i => [
    (place i, i, fun s x _ => forkable s x && decide (x.c.deque.length < 32)),
    (onC (place i) fun c => { c with deque := List.replicate 32 child }, i, fun s x _ => forkable s x && x.c.deque.length == 32),
    (withAcc (place i) (acc (.load 8 false) 0x1000), i, fun s x _ => accsOf s x.g x.sid != [] && (taskOn s x.g).all fun t => t.period == 0)] : List Case), c.Met :=
  cases_met (by decide +kernel)
theorem witness_StrandsForkAndExit_b : ∀ c ∈ ([
    (place (.exit 120), .exit 120, fun s x _ => (exitGate s x).isNone),
    (placeR (.exit 4) [(4, 0xFFFFFFFFFFF8)], .exit 4, fun s x i => (exitGate s x).isNone && !debugOn s x.g && (input s x i 0).toNat % 2 ^ 48 % 8 == 0 &&
      holeAt (afterReads s x i) ((input s x i 0).toNat % 2 ^ 48)),
    (placeR (.exit 4) [(4, 0x1000)], .exit 4, fun s x i => (exitGate s x).isNone && !debugOn s x.g && (input s x i 0).toNat % 2 ^ 48 % 8 == 0 &&
      !holeAt (afterReads s x i) ((input s x i 0).toNat % 2 ^ 48) && !leavesPair x ((input s x i 0).toNat % 2 ^ 48)),
    (placeR (.exit 4) [(4, 0x1004)], .exit 4, fun s x i => (exitGate s x).isNone && (input s x i 0).toNat % 2 ^ 48 % 8 != 0)] : List Case), c.Met := cases_met (by decide +kernel)

/-- O7: system words, every status number at its bounds, the writes, and the hints with their three counts of `rep`. -/
theorem witness_SystemAndHintWords_a : ∀ c ∈ ([
    (withOther (place .yield), .yield, fun s x _ => readyOthers s x.g x.sid != []),
    (place .nop, .nop, free), (place .brk, .brk, fun s x _ => !debugOn s x.g), (debug (place .brk), .brk, fun s x _ => debugOn s x.g),
    (place (.mfs 3 4), .mfs 3 4, fun s x _ => vecDone s x.g x.sid), (place (.mts 4 4), .mts 4 4, fun s x _ => vecDone s x.g x.sid),
    (place (.mts 4 5), .mts 4 5, free), (place (.mts 4 16), .mts 4 16, fun _ x _ => x.c.kpend == []), (place (.mts 4 31), .mts 4 31, fun _ x _ => x.c.kpend == [])] : List Case), c.Met :=
  cases_met (by decide +kernel)
theorem witness_SystemAndHintWords_b : ∀ c ∈ plain ([0, 1, 2, 3, 5, 6, 7, 8, 9, 16, 31].map (Instr.mfs 3)), c.Met := cases_met (by decide +kernel)
theorem witness_SystemAndHintWords_c : ∀ c ∈ ([
    (place (.immHi 0x200000), .immHi 0x200000, free), (place .rlx, .rlx, free),
    (placeR (.rep 0 9 7) [(9, 2)], .rep 0 9 7, fun _ x _ => decide (0 + 1 < (x.t.gen 9).toNat)),
    (placeR (.rep 63 9 7) [(9, 0)], .rep 63 9 7, fun _ x _ => (x.t.gen 9).toNat == 0),
    (onT (placeR (.rep 63 9 7) [(9, 64)]) fun t => { t with hint := .rlx (t.pc - 4) }, .rep 63 9 7, fun _ x _ => decide (0 < (x.t.gen 9).toNat) && decide ((x.t.gen 9).toNat ≤ 64)),
    (place .ckpt, .ckpt, fun _ x _ => x.c.lock.isNone),
    (locked (place .ckpt) [0], .ckpt, fun _ x _ => x.c.lock.any fun l => l.granted.contains x.sid),
    (locked (place .ckpt) [], .ckpt, fun _ x _ => x.c.lock.any fun l => !l.granted.contains x.sid)] : List Case), c.Met := cases_met (by decide +kernel)

/-- What O8 and O9 ask of every access: no debug launch, no lock-step pair, ready to issue; and its address. -/
def access (aligned : Bool) (ea : State → Iss → Instr → Nat) (size : Nat) : State → Iss → Instr → Bool := fun s x i =>
  !debugOn (afterReads s x i) x.g && x.c.lock.isNone && accessReady s x.g x.sid (relaxedWord x.t) &&
  (if aligned then ea s x i % size == 0 && migration (afterReads s x i) x (ea s x i) == .stay else ea s x i % size != 0)
/-- The address of a form with an offset (R175), its base the n-th operand. -/
def atOff (n : Nat) (o : BitVec 6) (size : Nat) : State → Iss → Instr → Nat := fun s x i => (((input s x i n).toInt + o.toInt * size) % 2 ^ 48).toNat
/-- A word with each base aligned, wrapping below 0, and misaligned. -/
def bases (i : Instr) (r : Nat) (ea : State → Iss → Instr → Nat) (size : Nat) : List Case :=
  [(placeR i [(r, 0x10000000000)], i, access true ea size), (placeR i [(r, 0xFFFF000000000000)], i, access true ea size)] ++
  (if size = 1 then [] else [(placeR i [(r, 0x10000000001)], i, access false ea size)])

/-- O8: each width of load and store, each full/empty word and atomic, aligned (with an offset that wraps below 0 too) and misaligned; a relaxed load. -/
theorem witness_MemoryAccessesIssue_a : ∀ c ∈ bases (.ld 7 2 15 3 0x20) 2 (atOff 0 0x20 8) 8 ++ bases (.ld 7 2 0 0 0x1F) 2 (atOff 0 0x1F 1) 1 ++
    bases (.lds 7 2 3 2 1) 2 (atOff 0 1 4) 4 ++ bases (.lds 7 2 3 1 0x3F) 2 (atOff 0 0x3F 2) 2, c.Met := cases_met (by decide +kernel)
theorem witness_MemoryAccessesIssue_b : ∀ c ∈ bases (.st 7 2 3 0x20) 2 (atOff 1 0x20 8) 8 ++ bases (.st 7 2 0 1) 2 (atOff 1 1 1) 1 ++ bases (.stf 7 2 1) 2 (atOff 1 1 8) 8 ++
    bases (.stp 7 2 0x3F) 2 (atOff 1 0x3F 8) 8 ++ bases (.stempty 2 1) 2 (atOff 0 1 8) 8, c.Met := cases_met (by decide +kernel)
theorem witness_MemoryAccessesIssue_c : ∀ c ∈ bases (.ldf 7 2 3 1) 2 (atOff 0 1 8) 8 ++ bases (.ldt 7 2 3 0x20) 2 (atOff 0 0x20 8) 8 ++
    bases (.cas 6 2 7 4) 2 (atOff 0 0 8) 8 ++ bases (.xadd 6 2 7 4) 2 (atOff 0 0 8) 8, c.Met := cases_met (by decide +kernel)
theorem witness_MemoryAccessesIssue_d : ∀ c ∈ ([(onT (place (.ld 7 2 3 3 0)) fun t => { t with hint := .rlx (t.pc - 4) }, .ld 7 2 3 3 0,
    fun s x i => relaxedWord x.t && access true (atOff 0 0 8) 8 s x i)] : List Case), c.Met := cases_met (by decide +kernel)

/-- Leaving a lock-step pair: a store into its release buffer, a synchronising access before and after its checkpoint; and an audit that fails. -/
theorem witness_MemoryAccessesIssue_e : ∀ c ∈ ([(Instr.st 7 2 3 0), .stf 7 2 0, .ldf 7 2 3 0, .cas 6 2 7 4].map fun i =>
    ((locked (placeR i [(2, 0x1000)]) [], i, fun s x i => let s1 := afterReads s x i
      accessReady s x.g x.sid (relaxedWord x.t) && leavesPair x 0x1000 && migration s1 x 0x1000 == .stay && !debugOn s1 x.g && !lockDue s1 x.g &&
      x.c.lock.any fun l => !l.granted.contains x.sid) : Case) : List Case), c.Met := cases_met (by decide +kernel)
theorem witness_MemoryAccessesIssue_f : ∀ c ∈ ([(onT (debug (placeR (.ld 7 2 3 3 0) [(2, 0x1000)])) fun t => { t with wins := [] }, .ld 7 2 3 3 0, fun s x i => let s1 := afterReads s x i
      accessReady s x.g x.sid false && debugOn s1 x.g && !inWindow x.t 0x1000 8 1),
    (debug (placeR (.ld 7 2 3 3 0) [(2, 0x1000)]), .ld 7 2 3 3 0, fun s x i => debugOn (afterReads s x i) x.g && inWindow x.t 0x1000 8 1)] : List Case), c.Met := cases_met (by decide +kernel)

/-- O8, O9: a roaming strand's access to the slot of a member of its gang, with no entry pending and with one, and of a core outside it. -/
def roaming (i : Instr) (a : Nat) (p : List Pending) : State := gang (onT (placeR i [(2, BitVec.ofNat 64 a)]) fun t =>
  { t with roaming := true, carry := 24, shapeW := 24, shapeV := 0, shapeD := 0, pending := p }) [0, 1]
def openEntry : Pending := { id := 77, dst := .gen 20, remaining := 9, value := none, arrived := false, flags := 0, fault := none, pc := 0 }
def roams (s : State) (x : Iss) (a : Nat) : Bool := x.t.roaming && isSpad a && slotOf a != x.g && !coreDisabled s (slotOf a) && (taskOn s x.g).isSome
theorem witness_MemoryAccessesIssue_roams : ∀ c ∈ (([Instr.ld 7 2 15 3 0, .st 7 2 3 0, .join 2, .barArrive 3 2].flatMap fun i =>
    ([(0x10000200000, [], true, true), (0x10000200000, [openEntry], true, false), (0x10000400000, [], false, true)] : List (Nat × List Pending × Bool × Bool)).map fun p =>
    ((roaming i p.1 p.2.1, i, fun s x _ => let s1 := afterReads s x i
      accessReady s x.g x.sid false && !debugOn s1 x.g && roams s1 x p.1 && (taskOn s1 x.g).any fun T => T.members.contains (slotOf p.1) == p.2.2.1 &&
        (x.t.pending == []) == p.2.2.2) : Case)) : List Case), c.Met := cases_met (by decide +kernel)

/-- O9: `join` at a word and at a hole, barrier words, each misaligned; fences with nothing to perform, and with an access to perform. -/
theorem witness_BlockingWordsAndFences_a : ∀ c ∈ bases (.join 2) 2 (atOff 0 0 8) 8 ++ bases (.barArrive 3 2) 2 (atOff 0 0 8) 8 ++ bases (.barWait 2 3) 2 (atOff 0 0 8) 8 ++
    [(placeR (.join 2) [(2, 0xFFFFFFFFFFF8)], .join 2, fun s x i => access true (atOff 0 0 8) 8 s x i && holeAt (afterReads s x i) 0xFFFFFFFFFFF8)], c.Met :=
  cases_met (by decide +kernel)
theorem witness_BlockingWordsAndFences_b : ∀ c ∈ ([(Instr.fenceCore, 0), (.fenceCluster, 1), (.fenceDie, 2), (.fencePackage, 3), (.fenceGroup, 3)].flatMap fun p => [
    (withAcc (place p.1) (acc (.store 8) 0x10000000000), p.1, fun s x _ => (accsOf s x.g x.sid).any (mustPerform s p.2 x.g)),
    (if p.2 = 3 then place p.1 else withAcc (place p.1) (acc (.store 8) 0x1000), p.1, fun s x _ => (accsOf s x.g x.sid).all fun a => !mustPerform s p.2 x.g a)] : List Case), c.Met :=
  cases_met (by decide +kernel)

/-- A tag table with one valid line: set 1, way 0, source line 1, window 2, local line 3; clean or dirty. -/
def tagged (s : State) (dirty : Bool) : State := onC s fun c => { c with tagTab := [(4, BitVec.ofNat 64 (2 ^ 63 + (if dirty then 2 ^ 62 else 0) + 2 * 2 ^ 57 + 3 * 2 ^ 40 + 1))] }
/-- Window 2 over 0x1000 to 0x2000 with some access. -/
def windowed (s : State) (a : BitVec 2) : State := onT s fun t => { t with wins := [(2, { gen := 1, region := 7, access := a, limit := 0x2000, base := 0x1000 })] }

/-- A tag table whose set 1 is full: ways 0 to 3, way 0 dirty, the victim of the set given. -/
def fullSet (s : State) (v : BitVec 2) : State := onC s fun c =>
  { c with tagTab := (List.range 4).map fun w => (4 + w, BitVec.ofNat 64 (2 ^ 63 + (if w = 0 then 2 ^ 62 else 0) + 2 * 2 ^ 57 + 3 * 2 ^ 40 + 1 + 1024 * (w + 1))), victims := [(1, v)] }
/-- O10: a lookup that finds its line, one of reserved memory, one with a free way, two without; a fill of reserved memory, of another set and one that passes; evictions of a dirty, a clean and an invalid entry; an invalidation. -/
theorem witness_TagTableAndWindowWords_a : ∀ c ∈ ([
    (tagged (placeR (.tlk 3 4) [(4, 0x1FF)]) false, .tlk 3 4, fun s x i => let A := (input s x i 0).toNat % 2 ^ 48
      tagValid (tagEntry x.c (4 * (A / 256 % 1024))) && tagSrc (tagEntry x.c (4 * (A / 256 % 1024))) == A / 256),
    (placeR (.tlk 3 4) [(4, 0xFC00000000)], .tlk 3 4, fun s x i => decide (0xFC00000000 ≤ (input s x i 0).toNat % 2 ^ 48)),
    (tagged (placeR (.tlk 3 4) [(4, 0x40100)]) false, .tlk 3 4, fun s x i => let A := (input s x i 0).toNat % 2 ^ 48
      A / 256 % 1024 == 1 && tagSrc (tagEntry x.c 4) != A / 256 && !tagValid (tagEntry x.c 5)),
    (fullSet (placeR (.tlk 3 4) [(4, 0x100)]) 0, .tlk 3 4, fun _ x _ => [4, 5, 6, 7].all fun w => tagValid (tagEntry x.c w) && tagSrc (tagEntry x.c w) != 1),
    (fullSet (placeR (.tlk 3 4) [(4, 0x100)]) 3, .tlk 3 4, fun _ x _ => [4, 5, 6, 7].all fun w => tagValid (tagEntry x.c w) && tagSrc (tagEntry x.c w) != 1),
    (placeR (.tfill 2 4 5) [(4, 0xFC00000000)], .tfill 2 4 5, fun s x i => accessReady s x.g x.sid false && decide (0xFC00000000 ≤ (input s x i 0).toNat % 2 ^ 48)),
    (placeR (.tfill 2 4 5) [(4, 0xFBFFFFFF00)], .tfill 2 4 5, fun s x i => let A := (input s x i 0).toNat % 2 ^ 48
      accessReady s x.g x.sid false && decide (A < 0xFC00000000) && decide ((input s x i 1).toNat % 4096 / 4 ≠ A / 256 % 1024)),
    (placeR (.tfill 2 4 5) [(4, 0x100), (5, 0x30000000005)], .tfill 2 4 5, fun s x i => accessReady s x.g x.sid false &&
      (tfillFault x.c ((input s x i 0).toNat % 2 ^ 48) ((input s x i 1).toNat % 4096) ((input s x i 1).toNat / 2 ^ 40 % 2 ^ 13 * 256)).isNone),
    (tagged (placeR (.tevict 4) [(4, 4)]) true, .tevict 4, fun s x _ => accessReady s x.g x.sid false && tagValid (tagEntry x.c 4) && tagDirty (tagEntry x.c 4) &&
      !leavesPair x 0x100),
    (withAcc (tagged (placeR (.tevict 4) [(4, 4)]) true) (acc (.load 8 false) 0x1000), .tevict 4, fun s x _ => !accessReady s x.g x.sid false && tagValid (tagEntry x.c 4) &&
      tagDirty (tagEntry x.c 4)),
    (locked (tagged (placeR (.tevict 4) [(4, 4)]) true) [], .tevict 4, fun s x _ => accessReady s x.g x.sid false && tagDirty (tagEntry x.c 4) &&
      leavesPair x (tagSrc (tagEntry x.c 4) * 256) && !lockDue s x.g),
    (tagged (placeR (.tevict 4) [(4, 4)]) false, .tevict 4, fun _ x _ => tagValid (tagEntry x.c 4) && !tagDirty (tagEntry x.c 4)),
    (placeR (.tevict 4) [(4, 4095)], .tevict 4, fun _ x _ => !tagValid (tagEntry x.c 4095)),
    (tagged (placeR (.tinval 4) [(4, 4)]) true, .tinval 4, free)] : List Case), c.Met := cases_met (by decide +kernel)
theorem witness_TagTableAndWindowWords_b : ∀ c ∈ plain [.wba 3 2 4, .wrd 3 2 0, .wrd 3 2 1, .wrd 3 15 2, .wrd 3 2 3], c.Met := cases_met (by decide +kernel)
/-- Each check at the window's last bytes, one byte beyond, and against other access bits. -/
theorem witness_TagTableAndWindowWords_c : ∀ c ∈ ([(Instr.chkR 2 4 3, (1 : BitVec 2), (2 : BitVec 2)), (.chkW 2 4 3, 2, 1), (.chkRw 2 4 3, 3, 1)].flatMap fun p => [
    (windowed (placeR p.1 [(4, 0x1FF8)]) p.2.1, p.1, fun s x i => decide ((input s x i 0).toNat + 8 ≤ (x.t.win 2).limit.toNat)),
    (windowed (placeR p.1 [(4, 0x1FF9)]) p.2.1, p.1, fun s x i => decide ((x.t.win 2).limit.toNat < (input s x i 0).toNat + 8)),
    (windowed (placeR p.1 [(4, 0x1000)]) p.2.2, p.1, fun _ x _ => (x.t.win 2).access &&& p.2.1 != p.2.1)] : List Case), c.Met := cases_met (by decide +kernel)

/-- O11: a trap of a strand and of an escapement processor, for a task; a word that its issuer may not execute (R282). -/
theorem witness_WordsTakeExceptions_a : ∀ c ∈ ([(place (.trap 3 17), .trap 3 17, fun s x _ => (taskOn s x.g).isSome)] : List Case), c.Met := cases_met (by decide +kernel)
theorem witness_WordsTakeExceptions_b : let s := place (.fork 1 4 1)
    let i : Instr := .cpStart 4 5
    ∃ x, issuer? s = some x ∧ (encode i).isSome = true ∧ legalFor x i = false := ⟨who (place (.fork 1 4 1)), by decide +kernel, by decide, by decide +kernel⟩

/-! ### Witnesses: rills and accesses -/

/-- A core in the middle of a cascade of three, its rill holding some items (R316). -/
def middle (s : State) (q : List RItem) : State := onC s fun c =>
  { c with stage := some { stage := 1, stages := 3, up := some 1, down := some 2, period := 1, pushes := 0, taken := 0, due := false, recs := [] }, rill := { c.rill with inq := q } }
def closed (s : State) : State := onC s fun c => { c with rill := { c.rill with closed := true, outClosed := true } }

/-- O12, the words: outside a cascade, open, at the end of a stream and closed. -/
theorem witness_RillsMoveValues_a : ∀ c ∈ ([
    (place (.rcnt 3), .rcnt 3, fun _ x _ => !x.qinOk), (closed (middle (place (.rcnt 3)) []), .rcnt 3, fun _ x _ => x.qinOk && x.c.rill.closed),
    (middle (place (.rcnt 3)) [.marker, .val eos], .rcnt 3, fun _ x _ => x.qinOk && !x.c.rill.closed && (takeValues 1 x.c.rill.inq).1 == [eos]),
    (place (.rfree 3), .rfree 3, fun _ x _ => !x.qoutOk), (middle (place (.rfree 3)) [], .rfree 3, fun _ x _ => x.qoutOk && !x.c.rill.outClosed),
    (closed (middle (place (.rfree 3)) []), .rfree 3, fun _ x _ => x.qoutOk && x.c.rill.outClosed)] : List Case), c.Met := cases_met (by decide +kernel)
theorem witness_RillsMoveValues_b : ∀ c ∈ ([
    (place .reosDn, .reosDn, fun _ x _ => !x.qoutOk), (middle (place .reosDn) [], .reosDn, fun s x _ => x.qoutOk && pushReady s x.g x.sid),
    (place .reosUp, .reosUp, fun _ x _ => !x.qinOk), (middle (place .reosUp) [.val 1], .reosUp, fun s x _ => x.qinOk && !x.c.rill.closed && stageCore s x.g true == some 1),
    (closed (middle (place .reosUp) []), .reosUp, fun _ x _ => x.qinOk && x.c.rill.closed)] : List Case), c.Met := cases_met (by decide +kernel)

/-- O12, the steps: a value that lands, one that a closed rill discards, a credit, a notice; checkpoints of the first stage and of a later one. -/
def flying (s : State) : State := onC s fun c => { c with rill := { c.rill with flight := [.val 7, .marker], slot := 7, creditFlight := 1, noticeFlight := true } }
theorem witness_RillsMoveValues_c : ∀ c ∈ ([
    (flying (middle base []), fun s => (coreAt s 0).rill.flight.head? == some (.val 7) && !(coreAt s 0).rill.closed && Memory.wf s.mem &&
      stageCore s 0 true == some 1 && firstOnWay s 1 0 .value && stageCore s 0 false == some 2 && firstOnWay s 2 0 .credit && firstOnWay s 2 0 .notice),
    (flying (closed base), fun s => (coreAt s 0).rill.flight.head? == some (.val 7) && (coreAt s 0).rill.closed),
    (flying base, fun s => decide (0 < (coreAt s 0).rill.creditFlight) && (coreAt s 0).rill.noticeFlight)] : List At), c.2 c.1 = true := by decide +kernel
/-- A stage whose strand waits for its checkpoint. -/
def atCheckpoint (stage : Nat) (due : Bool) (q : List RItem) : State := onT (onC base fun c => { c with
    stage := some { stage := stage, stages := 3, up := none, down := some 2, period := 1, pushes := 8, taken := 0, due := due, recs := [] }, rill := { c.rill with inq := q } })
  fun t => { t with wait := some .checkpoint }
theorem witness_RillsMoveValues_d : ∀ c ∈ ([(atCheckpoint 0 true [], 0), (atCheckpoint 1 false [.marker, .val 1], 1)] : List (State × Nat)),
    (match (coreAt c.1 0).stage, (coreAt c.1 0).strands.find? fun p => p.1 != 64 with
      | some st, some (_, u) => st.period != 0 && u.wait == some .checkpoint && u.pending.all (fun p => p.arrived) && st.down != some 0 && st.stage == c.2 &&
          (if st.stage = 0 then st.due && decide (st.taken ≤ lastTaken c.1 16 0) else !(coreAt c.1 0).rill.closed && (coreAt c.1 0).rill.inq.head? == some .marker)
      | _, _ => false) = true := by decide +kernel

/-- The three places of an access of core 0: its own slot, another core's, HBM (R20). -/
def places : List (Nat × Place) := [(0x10000000008, .own), (0x1000013BFF8, .own), (0x10000200000, .remote), (0xFBFFFFFFF8, .hbm), (0, .hbm)]
theorem readies {l : List (State × Access × Place)}
    (h : l.all (fun p => ready p.1 p.2.1 && decide (placeOf p.1 p.2.1.gcn p.2.1.addr = p.2.2)) = true) :
    ∀ p ∈ l, p.2.1.Ready p.1 ∧ placeOf p.1 p.2.1.gcn p.2.1.addr = p.2.2 := by
  intro p hp
  have := List.all_eq_true.mp h p hp
  simp only [Bool.and_eq_true, decide_eq_true_eq] at this
  exact ⟨ready_ready this.1, this.2⟩
/-- An access of each kind at each place, as the only one in flight; before it, memory as `s` has it. -/
def everywhere (s : State) (l : List AccKind) : List (State × Access × Place) :=
  places.flatMap fun p => l.map fun k => (withAcc s (acc k p.1), acc k p.1, p.2)

/-- O13: loads of each width and sign, `ldf` and `ldt` of full words, at each place. -/
theorem witness_LoadsArePerformed : ∀ p ∈ everywhere base [.load 1 false, .load 8 false, .load 1 true, .load 4 true, .ldf, .ldt], p.2.1.Ready p.1 ∧
    placeOf p.1 p.2.1.gcn p.2.1.addr = p.2.2 := readies (by decide +kernel)

/-- The first and the last word of a `dld` and of a `dmk`. -/
def midway (k : AccKind) (n : Nat) : List (State × Access × Place) := places.map fun p => (withAcc base { acc k p.1 with done := n }, { acc k p.1 with done := n }, p.2)
theorem witness_LoadsArePerformed_words : ∀ p ∈ midway (.dld 5) 0 ++ midway (.dld 5) 504 ++ midway (.dmk 5) 0 ++ midway (.dmk 5) 248, p.2.1.Ready p.1 ∧
    placeOf p.1 p.2.1.gcn p.2.1.addr = p.2.2 := readies (by decide +kernel)

/-- O14: stores of each width, `stp`, and `stf` at empty words. -/
theorem witness_StoresArePerformed_a : ∀ p ∈ everywhere base [.store 1, .store 8, .stp], p.2.1.Ready p.1 ∧ placeOf p.1 p.2.1.gcn p.2.1.addr = p.2.2 := readies (by decide +kernel)
theorem witness_StoresArePerformed_b : ∀ p ∈ everywhere { base with empties := places.map fun p => p.1 } [.stf], p.2.1.Ready p.1 ∧
    placeOf p.1 p.2.1.gcn p.2.1.addr = p.2.2 := readies (by decide +kernel)
theorem witness_StoresArePerformed_words : ∀ p ∈ midway .dst 0 ++ midway .dst 504, p.2.1.Ready p.1 ∧ placeOf p.1 p.2.1.gcn p.2.1.addr = p.2.2 := readies (by decide +kernel)
/-- A byte of the second scratchpad of a lock-step pair. -/
theorem witness_StoresArePerformed_twin : twinByte (locked base []) 0x10000000008 8 (0x10000000008 + 2 ^ 21) := by
  unfold twinByte; decide +kernel
theorem witness_StoresArePerformed_c : Memory.wf base.mem = true ∧ base.poison = [] ∧ ∀ p ∈ places, p.1 + 8 ≤ 2 ^ 48 := by decide +kernel

/-- Memory with one word listed at 0x1000. -/
def word8 (v : Nat) : State := pokeRaw base 0x1000 (leBytes 8 v)
/-- O15: `cas` that succeeds and fails, `xadd`, arrivals that count down, that turn the phase and that fault, decrements of 1 and of 0. -/
theorem witness_AtomicsArePerformed : ∀ c ∈ ([
    (word8 0xFFFFFFFFFFFFFFFF, .cas 0xFFFFFFFFFFFFFFFF, fun v => v == 0xFFFFFFFFFFFFFFFF), (word8 5, .cas 4, fun v => v != 4), (word8 5, .xadd, fun _ => true),
    (word8 (2 * 2 ^ 24 + 2), .barArrive 3, fun v => v % 2 ^ 24 == 2 && v / 2 ^ 24 % 2 ^ 24 != 0),
    (word8 (0xFFFF * 2 ^ 48 + 2 * 2 ^ 24 + 1), .barArrive 3, fun v => v % 2 ^ 24 == 1 && v / 2 ^ 24 % 2 ^ 24 != 0),
    (word8 (2 ^ 24), .barArrive 3, fun v => v % 2 ^ 24 == 0), (word8 1, .barArrive 3, fun v => v / 2 ^ 24 % 2 ^ 24 == 0), (word8 1, .exitDec, fun v => v != 0),
    (word8 0, .exitDec, fun v => v == 0)] : List (State × AccKind × (Nat → Bool))),
    (let s := withAcc c.1 (acc c.2.1 0x1000)
     ready s (acc c.2.1 0x1000) && Memory.wf s.mem && s.poison == [] && !holeAt s 0x1000 && c.2.2 (readVal s 0x1000 8)) = true := by decide +kernel
theorem witness_AtomicsArePerformed_ready : (acc .xadd 0x1000).Ready (withAcc (word8 5) (acc .xadd 0x1000)) := ready_ready (by decide +kernel)

/-- A pending entry for access 0 in g7. -/
def pend (k : Nat) (v : Option PVal) (arrived : Bool) : Pending :=
  { id := 0, dst := .gen 7, remaining := k, value := v, arrived := arrived, flags := 0, fault := none, pc := 0 }
def pends (s : State) (p : Pending) : State := onT s fun t => { t with pending := [p] }
/-- A full wait table: 128 accesses parked in one slot (R172). -/
def parkedAccs (a n : Nat) : List Access := (List.range n).map fun i => { acc .ldf a with id := i + 1, sid := 1, parked := true }

/-- O16: an arrival, an acknowledgement; tests that fail with room in the table and with none, at each place; a retry. -/
theorem witness_WaitsAndRetries_a : ∀ c ∈ ([
    (pends base (pend 1 (some (.word 5)) false), fun s => (accAt? s 0).isNone && findPending s 0 == some (0, 0) && answerInTurn s 0),
    (withAcc base { acc (.store 8) 0x1000 with performed := true }, fun s => answerInTurn s 0 && (accAt? s 0).any fun a => isStore a.kind && a.performed)] : List At), c.2 c.1 = true := by decide +kernel
/-- The conditions of a test that fails at its bank. -/
def failing (s : State) (a : Access) : Bool :=
  accAt? s a.id == some a && !a.performed && !a.parked && a.mayRepeat s && !coreHeld s a.gcn && mayPerform s a && !guardHolds s a && !testPasses s a
theorem witness_WaitsAndRetries_b : ∀ p ∈ places, ∀ k ∈ [AccKind.ldf, .ldt, .barWait 0], let a := acc k p.1
    let s := { withAcc base a with empties := [p.1] }
    (failing s a && !stopsOn s 0 && !waitTableFull s a.addr && placeOf s 0 p.1 == p.2) = true := by decide +kernel
theorem witness_WaitsAndRetries_c : ∀ p ∈ places, let a := acc .stf p.1
    (failing (withAcc base a) a && !waitTableFull (withAcc base a) a.addr) = true := by decide +kernel
/-- A test that fails where its task has stopped. -/
theorem witness_WaitsAndRetries_stopped : let a := acc .ldf 0x1000
    let s := onK { withAcc base a with empties := [0x1000] } fun t => { t with stopped := true }
    (failing s a && stopsOn s a.gcn) = true := by decide +kernel
theorem witness_WaitsAndRetries_d : let a := acc .join 0x1000
    (failing (withAcc (word8 3) a) a && !waitTableFull (withAcc (word8 3) a) a.addr) = true := by decide +kernel
theorem witness_WaitsAndRetries_e : let a := acc .ldf 0x10000000008
    let s := { base with accs := a :: parkedAccs 0x10000000000 128, empties := [0x10000000008], nextId := 200 }
    (failing s a && waitTableFull s a.addr && !a.refused) = true := by decide +kernel
theorem witness_WaitsAndRetries_f : let a := { acc .ldf 0x10000200000 with refused := true }
    let s := { withAcc base a with clk := 256 }
    (ready s a && a.refused && placeOf s 0 a.addr == .remote && !a.mayRepeat { s with clk := 255 }) = true := by decide +kernel
theorem witness_WaitsAndRetries_g : let a := { acc .ldf 0x1000 with parked := true }
    let s := { pends (withAcc base a) (pend 1 none false) with waiters := [0] }
    (waitersOn s (wordOf 0x1000) == [0] && accAt? s 0 == some a && testPasses s a && !guardHolds s a) = true := by decide +kernel
/-- Retries of the other tests: a store at a word set empty, a join at 0, a phase that has come; and two waiters on one word. -/
theorem witness_WaitsAndRetries_i : ∀ c ∈ ([(.stf, { base with empties := [0x1000] }), (.join, base), (.barWait 0xFFFF, base)] : List (AccKind × State)), (let a := { acc c.1 0x1000 with parked := true }
    let s := { withAcc c.2 a with waiters := [0] }
    waitersOn s (wordOf 0x1000) == [a.id] && accAt? s a.id == some a && testPasses s a && !a.byMessage && s.poison == [] && Memory.wf s.mem && !holeAt s a.addr) = true := by decide +kernel
/-- At a word of another core of the cluster the answer is a message, which then arrives in its turn (R305). -/
theorem witness_WaitsAndRetries_message : ∀ k ∈ [AccKind.join, .barWait 0xFFFF], (let a := { acc k 0x10000200000 with parked := true }
    let s := { withAcc base a with waiters := [0] }
    let r := withAcc base { a with parked := false, performed := true }
    a.byMessage && waitersOn s (wordOf a.addr) == [a.id] && accAt? s a.id == some a && testPasses s a && !holeAt s a.addr && answerInTurn r 0 &&
    match exec (.feWaiterRetry a.addr) s with
    | .next t => (accAt? t 0).any (fun c => c.performed && !c.parked) && strandAt? t 0 0 == strandAt? s 0 0 && answerInTurn t 0
    | _ => false) = true := by decide +kernel
theorem witness_WaitsAndRetries_j : (let a := { acc .ldt 0x1000 with parked := true }
    let b := { acc .ldf 0x1000 with parked := true, id := 1, sid := 1 }
    let s := { base with accs := [a, b], nextId := 2, waiters := [0, 1] }
    waitersOn s (wordOf 0x1000) == [0, 1] && accAt? s 0 == some a && accAt? s 1 == some b && testPasses s a && !guardHolds s a && !holeAt s 0x1000) = true := by decide +kernel

/-- O16: a fill whose chunk passes its check, and one that fails it. -/
def fillAcc : Access := { acc (.fill 5 2) 0x10000000300 with data := 0x1000 }
def regionR (st gen : Nat) : Region :=
  { base := 0x1000, extent := 0x1000, gen := BitVec.ofNat 16 gen, tag := 0, owner := 0, state := BitVec.ofNat 2 st, prot := false, inc := false, rekey := false, tensor := 0,
    wver := 0, sweep := 0, moveTo := none }
theorem witness_WaitsAndRetries_h : ∀ c ∈ ([(1, Check.pass), (2, .fail)] : List (Nat × Check)),
    (let s := { windowed (withAcc base fillAcc) 3 with regions := [(7, regionR 1 c.1)] }
     accAt? s 0 == some fillAcc && mayPerform s fillAcc && s.accs.all (fun b => !decide (b.id < fillAcc.id)) &&
     chunkCheck s (((strandAt? s 0 0).map fun t => t.win 2).getD default) (tenantOn s 0) false 0x1000 256 == c.2 && !poisonedIn s 0x1000 256 &&
     Memory.wf s.mem && !holeAt s 0x10000000300) = true := by decide +kernel

/-! ### Witnesses: strands that come and go -/

/-- Core 0 with its one strand, room for more, and candidates of each kind. -/
def core0 (s : State) : Core := coreAt s 0
def roamer : Child := { child with roaming := true, carry := 8, shapeW := 0 }
def ctx (carry : Nat) : Ctx :=
  { regs := List.replicate 24 1, tid := 3, lr := 4, pred := 5, tagc := 1, origin := 4095, flags := 0, rnd := 0, carry := carry, moves := 1, pc := 0x1000 }
def someFrames (s : State) : State := onT s fun t => { t with gRun := (0, 1850), frames := frames 5 32 true ++ frames 1 24 false }

/-- O17: a start message, stolen entries, the bottom of the deque, a context read back; each fits. -/
theorem witness_StrandsAreAdmitted : ∀ c ∈ ([
    (onC (gang base [0]) fun c => { c with startQ := [child, roamer] }, fun s => mayAdmit s 0 && (candidates s 0).head? == some (.start child) &&
      (roomFor (core0 s) child.width child.shapeV child.shapeD).isSome && decide (child.width ≤ spareEntries (core0 s))),
    (onC (gang base [0]) fun c => { c with stolen := [roamer, child] }, fun s => mayAdmit s 0 && (core0 s).stolen.head? == some roamer &&
      (roomFor (core0 s) roamer.width 0 0).isSome && decide (roamer.width ≤ spareEntries (core0 s))),
    (onC (gang base [0]) fun c => { c with deque := [child, roamer] }, fun s => mayAdmit s 0 && (core0 s).stolen == [] && (core0 s).startQ == [] && (core0 s).refilled.isNone &&
      (core0 s).spilled == [] && (core0 s).arrivals == [] && (core0 s).deque.getLast? == some roamer && (roomFor (core0 s) 8 0 0).isSome && decide (roamer.width ≤ spareEntries (core0 s))),
    (onC (gang base [0]) fun c => { c with refilled := some (ctx 24) }, fun s => mayAdmit s 0 && (core0 s).stolen == [] && (core0 s).startQ == [] &&
      (core0 s).refilled == some (ctx 24) && (roomFor (core0 s) 24 0 0).isSome && decide (24 ≤ spareEntries (core0 s))),
    (onC (gang base [0]) fun c => { c with arrivals := [ctx 8, ctx 16] }, fun s => mayAdmit s 0 && (core0 s).stolen == [] && (core0 s).startQ == [] && (core0 s).refilled.isNone &&
      (core0 s).spilled == [] && (core0 s).arrivals.head? == some (ctx 8) && (roomFor (core0 s) 8 0 0).isSome && decide (8 ≤ spareEntries (core0 s)))] : List At), c.2 c.1 = true := by decide +kernel

/-- O18: frames in the way of a strand at `enter`; a spilled top frame that comes back; contexts in and out of the spill area; forwarding entries. -/
theorem witness_FramesAndContextsSpill_a : ∀ c ∈ ([
    (onT (someFrames base) fun t => { t with wait := some .frame }, fun s => entriesNeeded s 0 &&
      (residents (core0 s)).map (fun p => p.1) == [0] && (residents (core0 s)).all fun p => p.2.frames.any fun f => f.resident),
    (onT base fun t => { t with wait := some .frame, frames := frames 1 32 false }, fun s => (strandAt? s 0 0).any fun u => u.wait == some .frame &&
      match u.frames with
        | f :: _ => !f.resident && decide (f.k + 2 ≤ spareEntries (core0 s))
        | [] => false)] : List At), c.2 c.1 = true := by decide +kernel
/-- A strand of the same task that has come to core 1 (R373), and the entry that it left on core 0. -/
def moved (p : List Pending) : State := updCore base 1 fun c => { c with strands := [(0, { Strand.blank with roaming := true, tid := 9, pending := p })] }
def fwd0 : Fwd := { tid := 9, sid := 3, dst := 1, since := 0 }
theorem witness_FramesAndContextsSpill_b : ∀ c ∈ ([
    (onC base fun c => { c with arrivals := [ctx 8, ctx 16], spilled := List.range 63 }, fun s => (core0 s).arrivals.head? == some (ctx 8) && !(core0 s).spilled.contains 63 && !admitsArrival s 0 &&
      Memory.wf s.mem && (ctx 8).regs.length == 24),
    (onC (gang (pokeRaw base (spillAddr 0 5) (leBytes 256 (ctx 16).encode)) [0]) fun c => { c with spilled := [5] }, fun s => (core0 s).refilled.isNone &&
      (core0 s).spilled == [5] && mayAdmit s 0 && (core0 s).stolen == [] && (core0 s).startQ == [] && spillCtx s 0 5 == ctx 16 && (roomFor (core0 s) (spillCtx s 0 5).carry 0 0).isSome),
    (onC { base with clk := 1024 } fun c => { c with fwds := [{ tid := 0, sid := 3, dst := 1, since := 0 }] }, fun s => (core0 s).fwds.any fun e => decide (1024 ≤ (s.clk - e.since).toNat)),
    (onC (moved [pend 1 (some (.word 5)) false]) fun c => { c with fwds := [fwd0] }, fun s => (core0 s).fwds.contains fwd0 && fwd0.dst == 1 && (accAt? s 0).isNone &&
      findPending s 0 == some (1, 0) && answerInTurn s 0 && (strandAt? s 1 0).any fun u => u.roaming && u.tid == fwd0.tid),
    (onC (moved []) fun c => { c with fwds := [fwd0] }, fun s => (core0 s).fwds != [] && (accAt? s 0).isNone && (findPending s 0).isNone)] : List At), c.2 c.1 = true := by decide +kernel

/-- O19: a thief with its victim; a request at the victim; answers with an entry and empty; a back-off. -/
def stealing (s : State) (a : Option Nat) (r : Option (Option Child)) (b : Option (BitVec 64)) : State := onC s fun c => { c with steal := { c.steal with asked := a, answer := r, backoff := b } }
theorem witness_StealingMovesEntries : ∀ c ∈ ([
    (gang base [0, 1], fun s => isThief s 0 && (core0 s).steal.backoff == none && ((taskOn s 0).map fun t => (victimsOf t 0 ((core0 s).steal.last.getD 0)).head?) == some (some 1)),
    (stealing (updCore base 1 fun c => { c with deque := [child] }) (some 1) none none, fun s => (core0 s).steal.asked == some 1 && (core0 s).steal.answer.isNone && firstOnWay s 0 1 .steal),
    (stealing base (some 1) (some (some child)) none, fun s => (core0 s).steal.answer == some (some child) && firstOnWay s 1 0 .stolen),
    (stealing (gang base [0, 1]) (some 1) (some none) none, fun s => (core0 s).steal.answer == some none && (taskOn s 0).isSome && (core0 s).steal.backoff == none),
    ({ stealing base none none (some 5) with clk := 261 }, fun s => (core0 s).steal.backoff == some 5 && decide (256 ≤ (s.clk - 5).toNat))] : List At), c.2 c.1 = true := by decide +kernel

/-- O20: a strand ready to depart; a context at a target with room and with none; refused, backed off, accepted. -/
def flight (p : FlightPhase) : Flight := { id := 4, src := 0, sid := 0, dst := 1, ctx := ctx 8, phase := p }
theorem witness_MigrationMovesStrands_a : let s := onT (roam (gang base [0, 1])) fun t => { t with wait := some (.migrate 1) }
    ((strandAt? s 0 0).any (fun u => u.wait == some (.migrate 1) && !u.stopped && u.pending == []) && accsOf s 0 0 == [] &&
      ((taskOn s 0).any fun k => k.goesOn 0) && s.flights == []) = true := by decide +kernel
theorem witness_MigrationMovesStrands_b : ∀ p ∈ [FlightPhase.sent, .refused, .backoff, .accepted], ∀ n ∈ [31, 32],
    let s := updCore { base with flights := [flight p], clk := 256 } 1 fun c => { c with arrivals := List.replicate n (ctx 8) }
    (flightAt? s 4 p == some (flight p) && firstOnWay s 0 1 (.context 4) && firstOnWay s 1 0 (.contextAnswer 4) && (coreAt s 1).arrivals.length == n && s.flights == [flight p] && decide (256 ≤ (s.clk - (flight p).since).toNat)) = true := by decide +kernel

/-! ### Witnesses: vectors -/

/-- A word and its place once its operands are 0, its pointers aligned, and the queue has room. -/
def vplain (l : List Instr) : List Case := l.map fun i => (place i, i, fun s x i => !debugOn (afterReads s x i) x.g && decide (x.c.vq.length < 2) &&
  (xNums i).all (fun n => xAddr x.t n % 64 == 0) && (!vecAccess i || accessReady s x.g x.sid false) && (queuedWord i || (input s x i 0).toNat % 64 == 0) && x.t.hint == .none && x.c.lock.isNone)

/-- O21: every word of the engine's queue, with pointers as sources and destinations among them. -/
theorem witness_VectorWordsIssue_a : ∀ c ∈ vplain [.vadd 32 33 34 2, .vsub 1 2 3 0, .vmul 1 2 3 1, .vmulh 1 2 3 2, .vmin 1 2 3 0, .vmax 1 2 3 0, .vminn 1 2 3 0, .vmaxn 1 2 3 0], c.Met :=
  cases_met (by decide +kernel)
theorem witness_VectorWordsIssue_b : ∀ c ∈ vplain [.vadds 1 2 3 0, .vsubs 1 2 3 0, .vaddsn 1 2 3 0, .vsubsn 1 2 3 0, .vabs 1 2 0, .vneg 1 2 0, .vshl 1 2 3 0, .vshr 1 2 3 0, .vsra 39 39 39 2], c.Met :=
  cases_met (by decide +kernel)
theorem witness_VectorWordsIssue_c : ∀ c ∈ vplain [.vdot 1 2 3 1, .vwadd 30 2 3 0, .vwmul 38 2 3 1, .vfadd 1 2 3 7, .vfsub 1 2 3 3, .vfmul 1 2 44 4, .vfdiv 1 2 3 5, .vfmac 1 2 3 6, .vfmin 1 2 3 7], c.Met :=
  cases_met (by decide +kernel)
theorem witness_VectorWordsIssue_d : ∀ c ∈ vplain [.vfmax 1 2 3 7, .vfabs 1 2 7, .vfneg 1 2 7, .vfsqrt 1 2 7, .vfscl 1 2 3 7, .vceq 1 2 3 0, .vclt 1 2 3 7, .vcle 1 2 3 2, .vcltn 1 2 3 2], c.Met :=
  cases_met (by decide +kernel)
theorem witness_VectorWordsIssue_e : ∀ c ∈ vplain [.vand 1 2 3, .vor 1 2 3, .vxor 1 2 3, .vandn 1 2 3, .vsel 1 2 3, .vcvt 4 1 0 1 7 5, .vcvtn 4 1 0 0 7 2, .vcvt4 1 2 0 1 0, .vpack4 31 2 3], c.Met :=
  cases_met (by decide +kernel)
theorem witness_VectorWordsIssue_f : ∀ c ∈ vplain [.vunpk4 1 2 1 0, .vquant 0 1 2 1 3 7, .vprune24 1 2 3 0, .vprune48 1 2 3 1, .vradd 1 32 0, .vrmax 1 2 1, .vrmin 1 2 2], c.Met :=
  cases_met (by decide +kernel)
theorem witness_VectorWordsIssue_g : ∀ c ∈ vplain [.vperm 1 2 3 0, .vrot 1 2 3 7, .vtld 1 2 3 6, .vswap 1 2, .vld 1 4, .vld 39 4, .vst 1 4, .vst 40 4], c.Met :=
  cases_met (by decide +kernel)
/-- A word under `rep`, its first repeat and its last. -/
theorem witness_VectorWordsIssue_rep : ∀ c ∈ ([2, 0].map fun n => ((onT (placeR (.vadd 32 33 34 2) [(9, 3)]) fun t => { t with hint := .rep (t.pc - 4) false n 9 3 }, .vadd 32 33 34 2,
    fun _ x _ => decide (x.c.vq.length < 2) && x.c.lock.isNone) : Case) : List Case), c.Met := cases_met (by decide +kernel)
/-- A store that leaves a lock-step pair. -/
theorem witness_VectorWordsIssue_pair : ∀ c ∈ ([(locked (placeR (.vst 1 4) [(4, 0x1000)]) [], .vst 1 4, fun s x i => leavesPair x 0x1000 && !lockDue (afterReads s x i) x.g &&
    accessReady s x.g x.sid false && decide (x.c.vq.length < 2) && !debugOn (afterReads s x i) x.g && x.t.hint == .none)] : List Case), c.Met := cases_met (by decide +kernel)
/-- The moves between files, with lane numbers of 0 and beyond the lanes. -/
theorem witness_VectorWordsIssue_h : ∀ c ∈ ([(place (.vmovg 7 1 2 7), .vmovg 7 1 2 7, fun s x _ => vecDone s x.g x.sid), (place (.vmovg 7 31 2 0), .vmovg 7 31 2 0, fun s x _ => vecDone s x.g x.sid),
    (placeR (.vmovv 1 4 5 0) [(5, 513)], .vmovv 1 4 5 0, fun s x _ => vecDone s x.g x.sid), (place (.vmovx 7 4), .vmovx 7 4, free), (place (.vmovfx 4 7), .vmovfx 4 7, free),
    (place .vxSync, .vxSync, fun s x _ => vecDone s x.g x.sid)] : List Case), c.Met := cases_met (by decide +kernel)

/-- A queue entry, and a started one with what it will write. -/
def entry (i : Instr) (ea : Nat) : VEntry := { instr := i, sid := 0, xs := [], rnd := 0, ea := ea, acc := none, pc := 0, word := 0 }
def running (e : VEntry) (w : List VWrite) : State := onC base fun c => { c with vrun := some { entry := e, writes := w, flags := 1, hole := false, partner := false } }

/-- O22: a start; completions of one and of two registers, of a load and of a store; a channel's and a partner's vector. -/
theorem witness_QueuedVectorsRun_a : ∀ c ∈ ([
    (onC base fun c => { c with vq := [entry (.vadd 1 2 3 0) 0, entry (.vadd 2 1 3 0) 0] }, fun s => !quiescing s 0 && (core0 s).vrun.isNone && chNums (.vadd 1 2 3 0) == [] &&
      (channelFault s 0 (.vadd 1 2 3 0)).isNone && vecMemReady s 0 (entry (.vadd 1 2 3 0) 0) && poisonedSource s 0 (entry (.vadd 1 2 3 0) 0) == none && (kget? (core0 s).strands 0).isSome),
    ({ onC base fun c => { c with vq := [entry (.vadd 1 41 41 0) 0], chans := [(1, [8, 9])] } with
        streams := [(2, { entry := BitVec.ofNat 256 (fields [(84, 1), (88, 2), (95, 1), (128, 1), (144, 5), (192, 2)]), valid := true, read := 0, held := [], delivered := [(0, 2)], taken := [(0, 0)],
                          released := 0 })] },
      fun s => let e := entry (.vadd 1 41 41 0) 0
      !quiescing s 0 && (core0 s).vrun.isNone && chNums e.instr == [1, 1] && (channelFault s 0 e.instr).isNone && (kget (core0 s).chans 1 []).length == 2 && vecMemReady s 0 e &&
      (poisonedSource s 0 e).isNone && (kget? (core0 s).strands 0).isSome),
    (running (entry (.vadd 32 2 3 0) 0) [.mem 0x10000000040 5], fun s => (core0 s).vrun.any fun r => !r.partner && queuedWord r.entry.instr && r.writes == [.mem 0x10000000040 5] && Memory.wf s.mem),
    (running (entry (.vadd 1 2 3 0) 0) [.reg 1 5], fun s => (core0 s).vrun.any fun r => !r.partner && queuedWord r.entry.instr && r.writes == [.reg 1 5]),
    (running (entry (.vwadd 2 4 6 0) 0) [.reg 2 5, .reg 3 6], fun s => (core0 s).vrun.any fun r => !r.partner && queuedWord r.entry.instr && r.writes == [.reg 2 5, .reg 3 6]),
    (running (entry (.vld 31 4) 0xFBFFFFFE00) [], fun s => (core0 s).vrun.any fun r => !r.partner && r.entry.instr == .vld 31 4 && vecTurn s r && !poisonedIn s r.entry.ea 512),
    (withAcc (running { entry (.vld 31 4) 0x10000200000 with acc := some 0 } []) { acc .vector 0x10000200000 with performed := true }, fun s => (core0 s).vrun.any fun r =>
      !r.partner && (r.entry.acc.bind (accAt? s)).any fun q => q.performed && answerInTurn s q.id && q.bad.isNone),
    (withAcc (running { entry (.vld 31 4) 0x10000200000 with acc := some 0 } []) (acc .vector 0x10000200000), fun s => (accAt? s 0).any fun a => ready s a && startedVld s a &&
      placeOf s 0 a.addr == .remote),
    (withAcc (running { entry (.vst 1 4) 0x10000000000 with acc := some 0 } [.mem 0x10000000000 7]) (acc .vector 0x10000000000), fun s => (core0 s).vrun.any (fun r => !r.partner &&
      r.entry.instr == .vst 1 4 && r.writes == [.mem r.entry.ea 7] && r.entry.acc == some 0) && (accAt? s 0).isSome)] : List At), c.2 c.1 = true := by decide +kernel
/-- A `vst` whose write is in flight, at each place. -/
theorem witness_QueuedVectorsRun_stores : (∀ p ∈ everywhere base [.vst], p.2.1.Ready p.1 ∧ placeOf p.1 p.2.1.gcn p.2.1.addr = p.2.2) ∧ base.poison = [] ∧ Memory.wf base.mem = true :=
  ⟨readies (by decide +kernel), by decide +kernel⟩
theorem witness_QueuedVectorsRun_b : ∀ c ∈ ([
    (onC base fun c => { c with chanFlight := [(3, 9)], chans := [(3, [8])] }, fun s => (core0 s).chanFlight.find? (fun p => p.1 == 3) == some (3, 9) &&
      decide ((kget (core0 s).chans 3 []).length < 2)),
    (updCore base 4 fun c => { c with vswapSent := [(1, 5), (2, 6)] }, fun s => partnerOf 1 == 4 && (coreAt s (partnerOf 1)).vswapSent.head? == some (1, 5) && firstOnWay s 4 1 .swap && !swapKnown (coreAt s 1) 1),
    (onC base fun c => { c with vswapStarted := 1, vswapIn := [(1, 5)], vrun := some { entry := entry (.vswap 1 2) 0, writes := [.reg 1 7], flags := 0, hole := false, partner := true } },
      fun s => (core0 s).vrun.any (fun r => r.partner && r.entry.instr == .vswap 1 2) && (core0 s).vswapIn.any fun p => p.1 == (core0 s).vswapStarted)] : List At), c.2 c.1 = true := by
  decide +kernel

/-- O23: the greatest and the least operands, each integer type. -/
theorem witness_VectorIntegerLanes : ∀ t ∈ [(0 : BitVec 3), 1, 2], t.toNat < 3 ∧ (2 ^ 4096 - 1 : Nat) < 2 ^ 4096 ∧ (0 : Nat) < 2 ^ 4096 := by decide +kernel

/-! ### Witnesses: distributions -/

/-- Distribution register 1 with 8 points of weight 4096, tag 7; register 2 with the same tag or another. -/
def points (v : Nat) : Vec := BitVec.ofNat 4096 (((List.range 64).map fun j => (v + 4096 * 2 ^ 32) * 2 ^ (64 * j)).sum)
def dists (s : State) (t : BitVec 16) : State := onT s fun x => { x with dregs := [(1, { bits := points 0x3F800000, tag := 7 }), (2, { bits := points 0x40000000, tag := t })] }
/-- O24: each word with equal tags and with different ones, the engine free; an engine to release. -/
theorem witness_DistributionArithmetic_a : ∀ c ∈ ([Instr.dadd 3 1 2 0, .dsub 3 1 2 0, .dmul 7 1 2 15, .dmax 3 1 2 0, .dmin 3 1 2 0].flatMap fun i => [
    ((dists (place i) 7, i, fun _ x _ => !x.c.distBusy && !earlierWaits x.c x.sid && (x.t.dreg 1).tag == (x.t.dreg 2).tag) : Case),
    (dists (place i) 8, i, fun _ x _ => !x.c.distBusy && !earlierWaits x.c x.sid && (x.t.dreg 1).tag != (x.t.dreg 2).tag)] : List Case), c.Met := cases_met (by decide +kernel)
theorem witness_DistributionArithmetic_b : ∀ c ∈ ([(place (.dneg 3 1 0), .dneg 3 1 0, fun _ x _ => !x.c.distBusy && !earlierWaits x.c x.sid)] : List Case), c.Met := cases_met (by decide +kernel)
theorem witness_DistributionArithmetic_c : (coreAt (onC base fun c => { c with distBusy := true }) 0).distBusy = true := by decide +kernel

/-- O25: aligned and misaligned loads, stores and makes; retags and splats; moments of each order and quantiles. -/
def daccess (a : Bool) : State → Iss → Instr → Bool := fun s x i => !debugOn (afterReads s x i) x.g && x.c.lock.isNone && accessReady s x.g x.sid false &&
  (if a then (input s x i 0).toNat % 64 == 0 && migration (afterReads s x i) x ((input s x i 0).toNat % 2 ^ 48) == .stay else (input s x i 0).toNat % 64 != 0)
theorem witness_DistributionMovesAndExtraction_a : ∀ c ∈ ([Instr.dld 3 4 15, .dmk 0 4 0, .dst 1 4].flatMap fun i => [
    ((placeR i [(4, 0x10000000040)], i, daccess true) : Case), (placeR i [(4, 0x10000000020)], i, daccess false)] : List Case), c.Met := cases_met (by decide +kernel)
theorem witness_DistributionMovesAndExtraction_b : ∀ c ∈ ([Instr.dtag 3 1 4 0, .dsplat 3 4 0, .dmomV 3 1 0 0, .dmomV 3 1 0 3, .dmomG 1 10 0 1, .dqntV 3 1 4 0, .dqntG 1 10 0].map fun i =>
    ((place i, i, fun s x i => !x.c.distBusy && !earlierWaits x.c x.sid && !debugOn (afterReads s x i) x.g && x.c.lock.isNone) : Case) : List Case), c.Met := cases_met (by decide +kernel)

/-- O26: a list of finite points, one with a NaN, one whose weights sum to 32,768. -/
theorem witness_CombinationAndExtraction_moments :
    (∀ p ∈ ([{ w := 16384, v := 0x7F7FFFFF }, { w := 16384, v := 0xFF7FFFFF }, { w := 0, v := 0x7F800000 }] : List Point).filter fun p => p.w != 0, (f32.decode p.v).isFin = true) ∧
    (∃ p ∈ ([{ w := 1, v := 0x7F800001 }] : List Point).filter fun p => p.w != 0, (f32.decode p.v).isNan = true) ∧
    ((([{ w := 16384, v := 0x7F7FFFFF }, { w := 16384, v := 0xFF7FFFFF }] : List Point).filter fun p => p.w != 0).map fun q => q.w).sum = 32768 ∧ (0xFFFF : Nat) < 2 ^ 16 := by decide +kernel

/-- O26: points whose masses total 2^30, an infinity and a NaN among them. -/
theorem witness_CombinationAndExtraction_masses : (([(0x3F800000, 2 ^ 29), (0x7F800000, 2 ^ 28), (0x7FC00000, 2 ^ 28)] : List (Nat × Nat)).map fun p => p.2).sum = 2 ^ 30 := by decide +kernel

/-! ### Witnesses: requests and copies -/

/-- O27: `mx.issue` with and without metadata, misaligned, and into the queue; `mx.wait`; `cp.req` without and with a movement program; `tspawn` and `tstat`. -/
theorem witness_RequestsToEngines_a : ∀ c ∈ ([Instr.mxIssue 4, .mxIssueMeta 4 31].flatMap fun i => [
    ((placeR i [(4, 0x10000000020)], i, fun s x i => !x.t.roaming && (input s x i 0).toNat % 2 ^ 48 % 64 != 0) : Case),
    (placeR i [(4, 0x10000000040)], i, fun s x i => !x.t.roaming && (input s x i 0).toNat % 2 ^ 48 % 64 == 0 && !debugOn s x.g && accsOf s x.g x.sid == [] && vecDone s x.g x.sid &&
      decide (x.c.mq.length < 2) && ownBytes x.g 0x10000000040 && !poisonedIn s 0x10000000040 64)] : List Case), c.Met := cases_met (by decide +kernel)
def cmd (l : List (Nat × Nat)) (m : Option Nat) : MCmd :=
  { record := BitVec.ofNat 512 (fields l), meta? := m.map (BitVec.ofNat 4096), sid := 0, addr := 0x10000000040, pc := 0, headOk := true, gateOk := false }
theorem witness_RequestsToEngines_b : ∀ c ∈ ([
    (onC (place .mxWait) fun c => { c with mq := [{ cmd [] none with sid := 1 }] }, .mxWait, fun _ x _ => x.c.mq.all (fun m => m.sid != x.sid) && x.c.mrun.isNone),
    (place (.cpReq 4 5), .cpReq 4 5, fun s x _ => accsOf s x.g x.sid == [] && x.c.epHalted),
    (onC (place (.cpReq 4 5)) fun c => { c with epHalted := false, mailbox := List.replicate 31 (1, 2) }, .cpReq 4 5,
      fun s x _ => accsOf s x.g x.sid == [] && !x.c.epHalted && decide (x.c.mailbox.length < 32)),
    (locked (place (.tspawn 3 4 2)) [], .tspawn 3 4 2, fun _ x _ => x.c.lock.any fun l => !l.granted.contains x.sid),
    (place (.tspawn 3 4 2), .tspawn 3 4 2, fun s x _ => (accsOf s x.g x.sid).all (fun q => q.performed) && x.c.lock.isNone),
    (place (.tstat 3 4), .tstat 3 4, free)] : List Case), c.Met := cases_met (by decide +kernel)

/-- A control block of one element of 2^e bytes, by windows 0 and 1, with a tag (R285). -/
def block (l : List (Nat × Nat)) : Nat := fields ([(0, 1), (252, 0), (316, 1), (512, 1), (528, 1), (544, 1), (560, 1), (448, 77)] ++ l)
/-- Windows over HBM for the source and over core 0's slot for the destination. -/
def ends : KMap Window :=
  [(0, { gen := 1, region := 7, access := 3, limit := 0x2000, base := 0x1000 }), (1, { gen := 1, region := 8, access := 3, limit := 0x10000100000, base := 0x10000000000 })]
def copying (s : State) (b : Nat) : State := onT (pokeRaw s 0x10000000400 (leBytes 128 b)) fun t => { t with wins := ends }
def start (n : Word) (a : Word) : State := regs (copying (place (.cpStart 4 5)) (block [(576, 3), (336, 0x800), (364, 2), (368, 1), (384, 8), (416, 8)])) [(4, a), (5, n)]

/-- O28: `cp.start` of channel 96, misaligned, of a good block for channel 95 with two release words, and of a block that fails its check. -/
theorem witness_MovementProgramRuns_a : ∀ c ∈ ([
    (start 96 0x10000000400, .cpStart 4 5, fun s x i => decide (96 ≤ (input s x i 1).toNat)),
    (start 95 0x10000000420, .cpStart 4 5, fun s x i => decide ((input s x i 1).toNat < 96) && (input s x i 0).toNat % 2 ^ 48 % 64 != 0),
    (start 95 0x10000000400, .cpStart 4 5, fun s x i => let S := afterReads s x i
      let blk : Blk := BitVec.ofNat 1024 (readVal S 0x10000000400 128)
      (input s x i 0) == 0x10000000400 && decide ((input s x i 1).toNat < 96) && !debugOn S x.g && accsOf S x.g x.sid == [] && (chanAt x.c 95).st == 0 &&
      !poisonedIn S 0x10000000400 128 && (blockFault blk x.g (x.t.win blk.swin) (x.t.win blk.dwin)).isNone && blk.stages == 2 &&
      !holeAt s (slotBase x.g + blk.rel + 8)),
    (regs (copying (place (.cpStart 4 5)) (block [(576, 10)])) [(4, 0x10000000400), (5, 5)], .cpStart 4 5, fun s x i => let S := afterReads s x i
      let blk : Blk := BitVec.ofNat 1024 (readVal S 0x10000000400 128)
      !debugOn S x.g && accsOf S x.g x.sid == [] && (chanAt x.c 5).st == 0 && !poisonedIn S 0x10000000400 128 &&
      blockFault blk x.g (x.t.win blk.swin) (x.t.win blk.dwin) == some (0x11, 63)),
    (regs (copying (place (.cpStart 4 5)) (block [(192, 0x1000)])) [(4, 0x10000000400), (5, 5)], .cpStart 4 5, fun s x i => let blk : Blk := BitVec.ofNat 1024 (readVal (afterReads s x i) 0x10000000400 128)
      blockFault blk x.g (x.t.win blk.swin) (x.t.win blk.dwin) == some (0x12, 0)),
    (regs (copying (place (.cpStart 4 5)) (block [(256, 0x100000)])) [(4, 0x10000000400), (5, 5)], .cpStart 4 5, fun s x i => let blk : Blk := BitVec.ofNat 1024 (readVal (afterReads s x i) 0x10000000400 128)
      blockFault blk x.g (x.t.win blk.swin) (x.t.win blk.dwin) == some (0x12, 1))] : List Case), c.Met := cases_met (by decide +kernel)
/-- A channel in some state, and the movement program's words (R297 to R300). -/
def chan (st : Nat) (b : Nat) : Channel :=
  { idleChannel with st := st, block := BitVec.ofNat 1024 b, blockAddr := 0x10000000400, sw := (ends.getD 0 default).2, dw := (ends.getD 1 default).2 }
def withChan (s : State) (ch : Channel) : State := onC s fun c => { c with channels := [(5, ch)] }
theorem witness_MovementProgramRuns_b : ∀ c ∈ ([
    (withChan (placeR (.cpAbort 4) [(4, 101)]) (chan 1 (block [])), .cpAbort 4, fun s x i => (chanAt x.c ((input s x i 0).toNat % 128 % 96)).st == 1),
    (place (.cpAbort 4), .cpAbort 4, fun s x i => (chanAt x.c ((input s x i 0).toNat % 128 % 96)).st != 1),
    (place (.cpWait 4), .cpWait 4, fun s x i => (chanAt x.c ((input s x i 0).toNat % 128 % 96)).st == 0),
    (place (.cpStatSt 3 4), .cpStatSt 3 4, fun s x i => (chanAt x.c ((input s x i 0).toNat % 128 % 96)).st == 0),
    (withChan (placeR (.cpStatSt 3 4) [(4, 5)]) (chan 4 (block [])), .cpStatSt 3 4, fun _ x _ => (chanAt x.c 5).st != 0 && decide (x.c.events.length < 64)),
    (place (.cpStatWm 3 4), .cpStatWm 3 4, free), (place (.cpStatBc 3 4), .cpStatBc 3 4, free), (place (.cpStatNb 3 4), .cpStatNb 3 4, free)] : List Case), c.Met :=
  cases_met (by decide +kernel)
theorem witness_MovementProgramRuns_c : ∀ c ∈ ([
    (onC (place (.cpMbox 4 1)) fun c => { c with mailbox := [(1, 2), (3, 4)] }, .cpMbox 4 1, fun _ x _ => x.c.mailbox.head? == some (1, 2)),
    (onC (place (.cpMbox 4 0)) fun c => { c with task := none }, .cpMbox 4 0, fun s x i => x.c.mailbox == [] && x.c.task.all fun k => !strandsLeft (afterReads s x i) k),
    (onC (place (.cpEv 62 31)) fun c => { c with events := [7] }, .cpEv 62 31, fun _ x _ => x.c.events.head? == some 7),
    (withChan (place (.cpEv 4 1)) (chan 0 0), .cpEv 4 1, fun _ x _ => x.c.events == [] && x.c.channels.all fun q => q.2.st == 0),
    (withChan (place .cpHalt) (chan 0 0), .cpHalt, fun _ x _ => x.c.channels.all fun q => q.2.st == 0)] : List Case), c.Met := cases_met (by decide +kernel)

/-! ### Witnesses: the matrix unit -/

def queued (m : MCmd) : State := onC base fun c => { c with mq := [m, m] }
/-- O29: a head that passes, one with a gate word out of place, one with a done word outside the slot's data; a gate word that is full. -/
theorem witness_MatrixCommandsStart_a : ∀ c ∈ ([
    ({ cmd [(19, 1), (384, 0x13FFF8), (20, 1), (448, 0x13FFF8)] none with headOk := false }, fun r : MRec => r.gate % 8 == 0 && decide (r.gate < 0x140000) && decide (r.done < 0x140000)),
    ({ cmd [(19, 1), (384, 4)] none with headOk := false }, fun r : MRec => r.gate % 8 != 0),
    ({ cmd [(20, 1), (448, 0x140000)] none with headOk := false }, fun r : MRec => r.done % 8 == 0 && r.gate % 8 == 0 && decide (0x140000 ≤ r.done))] : List (MCmd × (MRec → Bool))),
    ((coreAt (queued c.1) 0).mq.head? == some c.1 && engineOn (queued c.1) 0 && !quiescing (queued c.1) 0 && !c.1.headOk && c.2 c.1.record) = true := by decide +kernel
theorem witness_MatrixCommandsStart_b : let m := cmd [(19, 1), (384, 0x100)] none
    ((coreAt (queued m) 0).mq.head? == some m && m.headOk && MRec.gt m.record && !m.gateOk && (coreAt (queued m) 0).mrun.isNone && !isEmpty (queued m) (slotBase 0 + MRec.gate m.record)) = true := by
  decide +kernel
/-- Commands of each op that may start, without a gate word or with one passed; of gather and the sparse and grouped products with their metadata. -/
def good : List (Nat × MCmd) := [
  (1, cmd [(0, 1), (4, 5), (8, 5), (48, 1)] none), (2, cmd [(0, 2), (4, 5), (8, 5), (48, 32)] none),
  (8, cmd [(0, 8), (4, 5), (8, 5), (48, 4)] (some 0x4)), (9, cmd [(0, 9), (4, 5), (8, 5), (48, 8)] (some 0x688)),
  (10, cmd [(0, 10), (48, 1), (128, 0x100)] (some 0)), (11, cmd [(0, 11), (4, 5), (8, 5), (48, 1)] (some 0x10001))]
theorem witness_MatrixCommandsStart_c : ∀ p ∈ good, (MRec.op p.2.record == p.1 && (coreAt (queued p.2) 0).mq.head? == some p.2 && engineOn (queued p.2) 0 && !quiescing (queued p.2) 0 && p.2.headOk &&
    !MRec.gt p.2.record && (coreAt (queued p.2) 0).mrun.isNone && (startFault (queued p.2) 0 p.2).isNone) = true := by decide +kernel
/-- The same ops with a record that fails, and with a gate word not yet passed. -/
theorem witness_MatrixCommandsStart_d : ∀ op ∈ [1, 2, 8, 9, 10, 11], (let m := cmd [(0, op), (21, 1)] none
    MRec.op m.record == op && m.headOk && !MRec.gt m.record && (startFault (queued m) 0 m).isSome) = true ∧
    (let m := cmd [(0, op), (19, 1)] none
     MRec.op m.record == op && m.headOk && MRec.gt m.record && !m.gateOk && engineOn (queued m) 0) = true := by decide +kernel

/-- Records that fail at their start, each with its code and window: of every kind of check. -/
def failingStart : List (MCmd × Option (Nat × Nat)) := [
  (cmd [(0, 7)] none, some (1, 63)), (cmd [(0, 1), (4, 5), (8, 5)] none, some (1, 63)), (cmd [(0, 1), (4, 1), (8, 5), (48, 1)] none, some (1, 63)),
  (cmd [(0, 3), (32, 128)] none, some (1, 63)), (cmd [(0, 3), (24, 15), (40, 32)] none, some (1, 63)), (cmd [(0, 2), (4, 5), (8, 5), (48, 33)] none, some (1, 63)),
  (cmd [(0, 8), (4, 5), (8, 5), (48, 4)] none, some (8, 63)), (cmd [(0, 10), (48, 8), (64, 0x100), (128, 0x104)] (some 0), some (1, 63)),
  (cmd [(0, 10), (48, 8), (128, 0x13FFFC)] (some 0), some (4, 63)), (cmd [(0, 10), (12, 1), (48, 8), (64, 0xFFC)] (some 0), some (5, 0)), (cmd [(0, 10), (12, 1), (48, 8)] (some 0), none),
  (cmd [(0, 11), (4, 5), (8, 5), (48, 1)] (some 0x20001), some (6, 63)), (cmd [(0, 11), (4, 5), (8, 5), (48, 1)] (some 0), some (6, 63)), (cmd [(0, 8), (4, 5), (8, 5), (48, 4)] (some 0x1), some (7, 63)),
  (cmd [(0, 1), (4, 5), (8, 5), (48, 1), (64, 1)] none, some (2, 63)), (cmd [(0, 1), (4, 5), (8, 5), (48, 1), (128, 0x140000)] none, some (4, 63)),
  (cmd [(0, 2), (4, 5), (8, 5), (48, 32), (256, 0x140000)] none, some (4, 63)), (cmd [(0, 1), (4, 5), (8, 5), (12, 1), (48, 1), (64, 1)] none, some (2, 0)),
  (cmd [(0, 1), (4, 5), (8, 5), (12, 1), (48, 1)] none, some (3, 0)), (cmd [(0, 1), (4, 5), (8, 5), (12, 1), (48, 1), (100, 1), (64, 0x200000)] none, some (5, 1)),
  (cmd [(0, 1), (4, 5), (8, 5), (12, 1), (48, 1), (100, 2), (64, 0x200000)] none, none), (cmd [(0, 1), (4, 5), (8, 5), (12, 2), (48, 1), (64, 9)] none, some (9, 63)),
  (cmd [(0, 4), (4, 7), (64, 2)] none, some (2, 63)), (cmd [(0, 4), (4, 7), (64, 0x140000)] none, some (4, 63)), (cmd [(0, 5), (4, 5), (64, 1)] none, some (2, 63)),
  (cmd [(0, 5), (4, 5), (64, 0x13FFFE)] none, none), (cmd [(0, 1), (4, 5), (8, 5), (14, 1), (48, 1), (128, 1)] none, some (2, 0)), (cmd [(0, 1), (4, 5), (8, 5), (14, 1), (48, 1)] none, some (3, 0)),
  (cmd [(0, 1), (4, 5), (8, 5), (14, 1), (48, 1), (164, 1), (128, 0x200000)] none, some (5, 1)), (cmd [(0, 1), (4, 5), (8, 5), (14, 1), (48, 1), (164, 2), (128, 0x200000)] none, none),
  (cmd [(0, 1), (4, 5), (8, 5), (14, 2), (48, 1), (128, 9)] none, some (9, 63)), (cmd [(0, 1), (4, 5), (8, 5), (14, 2), (48, 1), (56, 1), (128, 9), (216, 1)] none, some (2, 63)),
  (cmd [(0, 2), (4, 5), (8, 5), (12, 1), (48, 32), (100, 2), (64, 0x200000)] none, none), (cmd [(0, 8), (4, 5), (8, 5), (48, 4), (64, 1)] (some 0x4), some (2, 63)),
  (cmd [(0, 9), (4, 5), (8, 5), (48, 8), (128, 0x140000)] (some 0x688), some (4, 63)), (cmd [(0, 11), (4, 5), (8, 5), (48, 1), (128, 1)] (some 0x10001), some (2, 63)),
  (cmd [(0, 11), (4, 5), (8, 5), (14, 1), (48, 1)] (some 0x10001), some (3, 0))]
def windowsOf (m : MCmd) : State := onT (queued m) fun t =>
  { t with wins := ends ++ [(2, { gen := 1, region := 8, access := 3, limit := 0x10000400000, base := 0x10000000000 })] }
theorem witness_MatrixCommandsStart_codes : ∀ p ∈ failingStart, startFault (windowsOf p.1) 0 p.1 = p.2 := by decide +kernel
theorem witness_MatrixCommandsStart_shapes : ∀ p ∈ failingStart.drop 6, badCmd p.1.record = false ∧ (windowsOf p.1).service = .full := by decide +kernel
/-- A stream that a command exhausts, and in a debug launch one whose window is too small. -/
def bound2 (l w : Nat) : State :=
  { debug base with streams := [(2, { entry := BitVec.ofNat 256 (fields [(84, 1), (88, 2), (95, 1), (96, l), (128, 1), (192, w)]), valid := true, read := 0, held := [], delivered := [],
                                      taken := [(0, 0)], released := 0 })] }
theorem witness_MatrixCommandsStart_streams : ∀ c ∈ [(1, 2, some (10, 63)), (0, 1, some (11, 63)), (0, 2, none)], (let m := cmd [(0, 1), (4, 5), (8, 5), (12, 2), (48, 1), (32, 2), (64, 2), (192, 256)] none
    let s := bound2 c.1 c.2.1
    !badCmd m.record && debugOn s 0 && startFault s 0 m == c.2.2) = true := by decide +kernel
theorem witness_MatrixCommandsStart_reduced : (let s := { base with service := .reduced }
    (startFault s 0 (cmd [(0, 1), (4, 7), (8, 5), (48, 1)] none)) = some (1, 63)) := by decide +kernel

/-- O30: each tile command, whole tiles and the last one included. -/
theorem witness_TileCommands : ∀ p ∈ ([(3, cmd [(0, 3), (24, 15), (32, 31), (40, 31)] none), (4, cmd [(0, 4), (4, 7), (40, 1), (64, 0x100)] none), (6, cmd [(0, 6), (48, 255)] none),
    (5, { cmd [(0, 5), (4, 5), (19, 1), (40, 1), (32, 1), (64, 0x200), (192, 4)] none with gateOk := true })] : List (Nat × MCmd)),
    (let s := queued p.2
     MRec.op p.2.record == p.1 && (coreAt s 0).mq.head? == some p.2 && engineOn s 0 && !quiescing s 0 && p.2.headOk && (!MRec.gt p.2.record || p.2.gateOk) && (coreAt s 0).mrun.isNone &&
     (startFault s 0 p.2).isNone && s.poison == [] && Memory.wf s.mem && (MRec.M p.2.record == 1 || decide (rowBytes (MRec.afmt p.2.record) (MRec.N p.2.record) ≤ MRec.astride p.2.record) ||
       p.1 != 5)) = true := by decide +kernel

/-- A running command with chunks still to come. -/
def running2 (m : MCmd) (l : List Chunk) (done : Bool) : State :=
  { onC base fun c => { c with mrun := some { cmd := m, awin := (ends.getD 0 default).2, bwin := (ends.getD 0 default).2, chunks := l, buf := [], flags := 0, effectDone := done, landed := [] } } with
    regions := [(7, regionR 1 1)] }
def chunk (z : Bool) : Chunk := { src := 0x1000, dst := 0x10000000200, len := 512, iter := 0, zero := z }
/-- O31: a remote chunk that passes; gather chunks of zeros, of the own slot and of another; commands that complete with and without a done word. -/
theorem witness_MatrixCommandsComplete_a : (let s := running2 (cmd [(0, 1), (12, 1)] none) [chunk false, chunk false] false
    s.poison == [] && Memory.wf s.mem && (coreAt s 0).mrun.any fun r => r.chunks.head? == some (chunk false) && MRec.op r.cmd.record != 10 &&
      pathClear s 0 r.sent [(0x1000, 512)] && chunkCheck s r.awin (tenantOn s 0) false 0x1000 512 == .pass) = true := by decide +kernel
theorem witness_MatrixCommandsComplete_b : ∀ p ∈ [(0, false), (0, true), (1, false)], (let s := running2 (cmd [(0, 10), (12, p.1)] (some 0)) [chunk false, chunk p.2] false
    (coreAt s 0).mrun.any fun r => MRec.op r.cmd.record == 10 && r.chunks[1]? == some (chunk p.2) && (p.2 || MRec.asrc r.cmd.record == 0 || pathClear s 0 r.sent [(0x1000, 512)] &&
      chunkCheck s r.awin (tenantOn s 0) false 0x1000 512 == .pass)) = true := by decide +kernel
theorem witness_MatrixCommandsComplete_c : ∀ p ∈ ([(cmd [(0, 10), (20, 1), (448, 0xFFFF8), (480, 0xFFFFFFFF)] (some 0), false, false), (cmd [(0, 3)] none, true, false),
    (cmd [(0, 1), (4, 5), (8, 5), (48, 1), (20, 1)] none, false, true)] : List (MCmd × Bool × Bool)), (let s := running2 p.1 [] p.2.1
    (coreAt s 0).mrun.any fun r => r.chunks == [] && isProduct (MRec.op r.cmd.record) == p.2.2 && (p.2.2 || MRec.op r.cmd.record == 10 || r.effectDone) && streamsReady (coreAt s 0) r.cmd &&
      (strandAt? s 0 r.cmd.sid).isSome && (List.range (MRec.M r.cmd.record)).all fun i => (bOffsets r.cmd).contains (bFor r.cmd.record (r.cmd.meta?.getD 0) i)) = true ∧
    coreDisabled (running2 p.1 [] p.2.1) 0 = false := by decide +kernel

/-- O32: a group of 32 finite products, one with a NaN, one with an infinity times zero. -/
theorem witness_ProductsRoundOncePerGroup : (List.replicate 32 ((FVal.fin false (2 ^ 24 - 1) 104, FVal.fin true 1 (-149)) : FVal × FVal)).length ≤ 32 ∧
    (∀ p ∈ List.replicate 32 ((FVal.fin false (2 ^ 24 - 1) 104, FVal.fin true 1 (-149)) : FVal × FVal), (match p.1 with
      | .fin _ m e => decide (m < 2 ^ 24) && decide (-149 ≤ e)
      | _ => false) = true ∧ (match p.2 with
      | .fin _ m e => decide (m < 2 ^ 24) && decide (-149 ≤ e)
      | _ => false) = true) ∧ (f32.decode 0x7F7FFFFF).isFin = true ∧
    (∃ p ∈ [(f32.decode 0x7F800001, f32.decode 0)], p.1.isNan = true ∨ p.2.isNan = true) ∧
    (∃ p ∈ [(FVal.inf false, FVal.fin true 0 (-149))], p = (.inf false, .fin true 0 (-149))) := by decide +kernel
/-- Infinite products of each sign, beside an accumulator that is finite, infinite of either sign, or a NaN; and a product of both signs' infinities. -/
theorem witness_ProductsRoundOncePerGroup_infinities :
    (∀ c ∈ [(0, (0x7F800000, 0)), (0x7F800000, (0x7F800000, 0)), (0xFF800000, (0x7FC00000, fNv)), (0x7F800001, (0x7FC00000, 0))],
      dotGroups 1 [(some (.inf false), .fin false 1 0)] [0] c.1 0 = c.2) ∧
    (∀ c ∈ [(0, (0xFF800000, 0)), (0x7F800000, (0x7FC00000, fNv)), (0xFF800000, (0xFF800000, 0))], dotGroups 1 [(some (.inf false), .inf true)] [0] c.1 0 = c.2) ∧
    dotGroups 1 [(some (.inf false), .inf true), (some (.inf true), .fin true 3 0)] [0] 0 0 = (0x7FC00000, fNv) ∧
    dotGroups 1 [(some (.fin false 1 0), .fin true 1 0)] [0] 0xFF800000 0 = (0xFF800000, 0) := by decide +kernel

/-! ### Witnesses: copies, streams, lock-step -/

/-- Channel 5 of core 0, its next to issue, between the regions 7 and 8. -/
def copier (ch : Channel) : State :=
  { onC base fun c => { c with channels := [(5, ch)], rr := 5 } with
    regions := [(7, regionR 1 1), (8, { regionR 1 1 with base := 0x10000000000, extent := 0x100000 })] }
def plainBlock : Nat := block [(576, 3)]
def staged : Nat := block [(576, 3), (364, 2), (336, 0x800), (368, 1), (384, 8), (416, 8)]
def inFlight (it : Nat) : CopyFlight :=
  { id := 9, chunk := { src := 0x1000, dst := 0x10000000000, len := 8, iter := it, zero := false }, bytes := List.replicate 8 1, hole := false }

/-- O33: a chunk issued and one landed; a stage released; an iteration landed with a release word, also ahead of an earlier one, with a record, and with no room for it; a record that
was owed; an end and an abort. -/
theorem witness_CopyEngineSteps_a : ∀ c ∈ ([
    (copier (chan 1 plainBlock), fun s => let ch := beginIter (chanAt (core0 s) 5)
      engineOn s 0 && channelsRun s 0 && (core0 s).rr == 5 && ch.st == 1 && s.poison == [] && Memory.wf s.mem &&
      ch.todo.head?.any fun k => pathClear s 0 s.nextId [(k.src, k.len)] && copyCheck s 0 ch k == (.pass, false) && !releaseFull s 0 k),
    (copier { chan 1 plainBlock with flight := [inFlight 0] }, fun s => ((chanAt (core0 s) 5).flight[0]?).any fun f => !heldNo s 0 f.id && pathClear s 0 f.id [(f.chunk.dst, f.chunk.len)] && f.bytes.length == f.chunk.len &&
      decide (f.chunk.len ≤ 512)),
    ({ copier (chan 1 staged) with empties := [0x10000000800] }, fun s => let ch := chanAt (core0 s) 5
      engineOn s 0 && channelsRun s 0 && ch.st == 1 && !ch.begun && Blk.stages ch.block != 0 && decide (ch.iter ≤ Blk.iters ch.block) && isEmpty s (releaseWord 0 ch.block ch.iter)),
    (copier { chan 1 staged with iter := 2 }, fun s => let ch := chanAt (core0 s) 5
      ch.st == 1 && Blk.stages ch.block != 0 && ch.iterDone == 0 && decide (0 < Blk.iters ch.block) && ch.flight == [] && ch.early == [] && !Blk.ie ch.block &&
      releaseWord 0 ch.block 0 % 8 == 0 && !holeAt s (releaseWord 0 ch.block 0)),
    (copier { chan 1 staged with iter := 2, flight := [inFlight 0] }, fun s => let ch := chanAt (core0 s) 5
      ch.st == 1 && Blk.stages ch.block != 0 && ch.iterDone == 0 && decide (1 ≤ Blk.iters ch.block) && ch.early == [] && (ch.flight.all fun f => f.chunk.iter == 0) &&
      releaseWord 0 ch.block 1 % 8 == 0 && !holeAt s (releaseWord 0 ch.block 1))] : List At), c.2 c.1 = true := by decide +kernel
def recorded (n : Nat) (ch : Channel) : State := onC (copier ch) fun c => { c with events := List.replicate n 0 }
theorem witness_CopyEngineSteps_b : ∀ c ∈ ([
    (recorded 63 { chan 1 (block [(7, 1)]) with iter := 1 }, fun s => let ch := chanAt (core0 s) 5
      ch.st == 1 && Blk.stages ch.block == 0 && Blk.ie ch.block && ch.iterDone == 0 && ch.early == [] && ch.flight == [] && ch.owed == [] && decide ((core0 s).events.length < 64)),
    (recorded 64 { chan 1 (block [(7, 1)]) with iter := 1 }, fun s => let ch := chanAt (core0 s) 5
      ch.st == 1 && Blk.ie ch.block && ch.iterDone == 0 && ch.early == [] && ch.flight == [] && ch.owed == [] && !haltWaits (core0 s) && decide (64 ≤ (core0 s).events.length)),
    (recorded 0 { chan 1 (block [(7, 1)]) with iter := 1, iterDone := 1, owed := [0] }, fun s => let ch := chanAt (core0 s) 5
      ch.st == 1 && Blk.ie ch.block && (endingIter ch).isNone && ch.owed == [0] && decide ((core0 s).events.length < 64)),
    (copier { chan 1 plainBlock with iter := 1 }, fun s => let ch := chanAt (core0 s) 5
      ch.st == 1 && decide (Blk.iters ch.block < ch.iter) && ch.flight == [] && ch.lost == [] && Blk.stages ch.block == 0 && !Blk.ie ch.block && decide ((core0 s).events.length < 64)),
    (copier { chan 1 (block [(7, 1)]) with iter := 1, iterDone := 1 }, fun s => let ch := chanAt (core0 s) 5
      ch.st == 1 && decide (Blk.iters ch.block < ch.iter) && ch.flight == [] && Blk.ie ch.block && decide (Blk.iters ch.block < ch.iterDone) && ch.owed == [] &&
      decide ((core0 s).events.length < 64)),
    (onC (copier (chan 4 plainBlock)) fun c => { c with events := List.replicate 64 0, strands := kset c.strands 64 { probeStrand true with wait := some .engine } }, fun s =>
      (chanAt (core0 s) 5).st == 4 && (chanAt (core0 s) 5).flight == [] && haltWaits (core0 s))] : List At), c.2 c.1 = true := by decide +kernel
/-- A landing behind an earlier chunk of its iteration that a poisoned word kept from landing. -/
theorem witness_CopyEngineSteps_lost : (let s := copier { chan 1 staged with iter := 2, lost := [inFlight 1] }
    let ch := chanAt (core0 s) 5
    ch.st == 1 && Blk.stages ch.block != 0 && ch.iterDone == 0 && decide (0 < Blk.iters ch.block) && ch.early == [] && (ch.flight ++ ch.lost).all (fun f => f.chunk.iter != 0) &&
      releaseWord 0 ch.block 0 % 8 == 0 && !holeAt s (releaseWord 0 ch.block 0)) = true := by decide +kernel
/-- A chunk that leaves a lock-step pair. -/
theorem witness_CopyEngineSteps_c : (let s := locked (copier { chan 1 plainBlock with todo := [{ src := 0x10000000000, dst := 0x1000, len := 8, iter := 0, zero := false }], begun := true }) []
    outsidePair s 0 { src := 0x10000000000, dst := 0x1000, len := 8, iter := 0, zero := false } && !releaseFull s 0 { src := 0x10000000000, dst := 0x1000, len := 8, iter := 0, zero := false }) = true := by
  decide +kernel

/-- Stream 2 of cluster 0: source core 1, a ring of 2, subscribers core 0 (matrix unit) and core 3 (channel 5), windows of 2. -/
def streamE : Nat := fields [(84, 1), (88, 2), (95, 1), (128, 9), (153, 5), (192, 2), (204, 2), (32, 0x400)]
def stream (read rel : Nat) (t : Nat) : Stream :=
  { entry := BitVec.ofNat 256 streamE, valid := true, read := read, held := [(0, 77)], delivered := [], taken := [(0, t), (3, t)], released := rel }
def streaming (read rel t : Nat) : State := { base with streams := [(2, stream read rel t)] }
/-- O34: a read, deliveries to a matrix unit and to a channel, a release. -/
theorem witness_StreamsMoveBlocks_a : ∀ c ∈ ([
    (streaming 1 0 0, fun s => (kget? s.streams 2).any fun r => engineOn s 1 && channelsRun s 1 && bits r.entry 96 32 == 0 && decide (r.read < r.released + 2) && !isEmpty s (streamRel 0 r.entry r.read)),
    (streaming 1 0 1, fun s => (kget? s.streams 2).any fun r => decide (r.released < r.read) && decide (r.released < kget r.taken 0 0) && decide (r.released < kget r.taken 3 0) &&
      subscribers r.entry == [0, 3] && !holeAt s (streamRel 0 r.entry 0))] : List At), c.2 c.1 = true ∧ (kget? c.1.streams 2).any (fun r => r.valid) = true ∧ c.1.poison = [] := by decide +kernel
theorem witness_StreamsMoveBlocks_b : ∀ p ∈ [(0, 0), (3, 5)], (kget? (streaming 1 0 0).streams 2).any (fun r => channelsRun (streaming 1 0 0) p.1 && bits r.entry (128 + p.1) 1 == 1 && bits r.entry (144 + 3 * p.1) 3 == p.2 &&
    kget? r.held (kget r.delivered p.1 0) == some 77 && decide (kget r.delivered p.1 0 < kget r.taken p.1 0 + streamWin r.entry p.1)) = true := by decide +kernel

/-- O35: a checkpoint due by the buffer, the log and the time, and one asked for; a first and a second mismatch. -/
def pair (l : Lock) : State := onC { base with clk := 1024 } fun c => { c with lock := some l }
theorem witness_LockstepSteps : ∀ l ∈ [{ freshLock with release := List.range 64 }, { freshLock with undo := List.replicate 1024 (0x10000000000, []) }, freshLock],
    ((core0 (pair l)).lock == some l && lockDue (pair l) 0 && !lockDrains (pair l) 0 &&
      enginesIdle (core0 (pair l)) && (core0 (pair l)).strands.all (fun p => p.2.pending == []) && (pair l).accs == [] && (pair l).reqs == [] && l.missed.isNone) = true := by decide +kernel
theorem witness_LockstepSteps_asked : (let s := onT (locked base []) fun t => { t with wait := some .checkpoint }
    ((core0 s).strands.any fun p => p.2.wait == some .checkpoint) && (core0 s).lock.any (fun l => l.granted == []) && !lockDue s 0 && !lockDrains s 0 && enginesIdle (core0 s) &&
      (core0 s).strands.all (fun p => p.2.pending == []) && s.accs == [] && s.reqs == []) = true := by decide +kernel
/-- A log of three granules, one of them twice, with words and bits that the roll-back puts back; no mismatch since the checkpoint, one since it, one before it with its drain
not ended, and a task that has stopped. -/
def rolled : Lock :=
  { freshLock with undo := [(0x10000000040, List.replicate 64 2), (0x10000000080, List.replicate 64 3), (0x10000000040, List.replicate 64 4)], bits := [(0x10000000040, true), (0x10000000040, false)],
                   bad := [0x10000000048], chUsed := [(3, 9), (4, 1), (3, 8)], count := 1 }
def mismatched (m : Option Nat) (drain : List Nat) : State := onK { pair { rolled with missed := m, drain := drain } with poison := [0x10000000050, 0x1000], accs := drain.map fun n => { acc (.store 8) 0x1000 with id := n } } fun k =>
  { k with faults := [{ (default : FaultInfo) with cls := 3, gcn := 0 }] }
theorem witness_LockstepSteps_mismatch : ∀ p ∈ ([(none, [], false), (some 0, [], false), (some 1, [], true), (some 0, [4], true), (some 1, [4], true)] : List (Option Nat × List Nat × Bool)),
    (let s := mismatched p.1 p.2.1
     !stopsOn s 0 && Memory.wf s.mem && (core0 s).lock.any fun l => (l.missed == some l.count || (lockDrains s 0 && l.missed == some (l.count - 1))) == p.2.2 &&
      l.undo.all (fun q => q.2.length == 64) &&
      (taskOn s 0).any fun u => u.faults.all fun f => f.gcn == 0 && f.cls == 3 && l.faults == 0) = true := by decide +kernel
theorem witness_LockstepSteps_stopped : stopsOn (onK (mismatched none []) fun k => { k with stopped := true }) 0 = true := by decide +kernel
/-- The oldest entry of the log stands; a word that was poisoned is again, and one that became poisoned is not. -/
theorem test_lockstep_log : (match exec (.lockstepMismatch 0) (mismatched none []) with
    | .next t => Memory.get t.mem 0x10000000040 == 2 && Memory.get t.mem 0x10000200080 == 3 && t.poison.contains 0x10000000048 && !t.poison.contains 0x10000000050 && t.poison.contains 0x1000 &&
      kget (core0 t).chans 3 [] == [9, 8] && (taskOn t 0).all fun u => u.faults == []
    | _ => false) = true := by decide +kernel

/-! ### Witnesses: tasks -/

/-- A tenant with a queue whose rings are regions 20 and 21, a fence, a fault ring in region 22. -/
def queue0 : Queue := { fence := 4, tail := 1, head := 0, cring := 20, cslots := 4, lring := 21, lslots := 4, cseq := 3, cfreed := 0 }
def ring0 : FaultRing := { region := 22, slots := 32, next := 31, seq := 9, used := [(3, 3)] }
def tenant0 : Tenant :=
  { endpoint := 0, handler := 9, wins := [(0, BitVec.ofNat 128 (fields [(48, 0xFC00000000), (110, 3)]))], part := some (BitVec.ofNat 256 (160 * 2 ^ 176)), degraded := false, effMin := (0, 0),
    slice := 65536, queues := [(2, queue0)], fences := [(1, 10)], ring := some ring0, nextLaunch := 5, dropped := 0, migr := none, chainFailed := false }
def at4k (b : Nat) : Region := { regionR 1 1 with base := b }
/-- The least record that R339 accepts: operator 1, one core, no fence. -/
def launch : List (Nat × Nat) := [(1600, 1), (1692, 64), (1672, 1), (1684, 1), (1328, 0xFFFF)]
def sys : State :=
  { pokeRaw base 0x8000 (leBytes 256 (fields launch)) with
    tenants := [(0, tenant0)], regions := [(7, regionR 1 1), (20, at4k 0x4000), (21, at4k 0x8000), (22, at4k 0xC000)] }
def request (n : Nat) (spawn : Bool) (arg : Word) (v : Option Word) : State :=
  { sys with reqs := [{ id := n, gcn := 0, sid := 0, d := 3, spawn := spawn, win := { gen := 1, region := 21, access := 1, limit := 0x9000, base := 0x8000 }, arg := arg, answer := v }] }

/-- O36: a launch record accepted and one refused with room for its completion; doorbells are free of conditions. -/
theorem witness_TasksAreAccepted_a : ∀ c ∈ [(sys, (none : Option Nat)), ({ sys with mem := [] }, some 8)],
    ((queueAt c.1 0 2).any (fun r => decide (r.head < r.tail) && decide (r.cseq - r.cfreed < 2 ^ r.cslots) && ringCheck c.1 0 r.lring 0 256 false == .pass) && inService c.1 && !draining c.1 0 &&
      refusal c.1 (BitVec.ofNat 2048 (readVal c.1 0x8000 256)) 0 none == c.2 && newSlot c.1 == some 1) = true := by decide +kernel
/-- Spawn requests that fail their read, are refused, and are accepted; `tstat`; an answered request. -/
theorem witness_TasksAreAccepted_b : ∀ c ∈ ([(4, .fail, none), (0x100, .pass, some 8), (0, .pass, none)] : List (Word × Check × Option Nat)),
    (let s := request 6 true c.1 none
     (reqAt? s 6).any (fun q => q.spawn && q.answer.isNone && (taskOn s q.gcn).any fun U => spawnCheck s U.tenant q.win (0x8000 + c.1.toNat) == c.2.1 &&
       (c.2.1 == .fail || refusal s (spawnRecord (BitVec.ofNat 2048 (readVal s (0x8000 + c.1.toNat) 256)) U) U.tenant (some (BitVec.ofNat 64 (U.f 1344 64))) == c.2.2))) = true := by decide +kernel
theorem witness_TasksAreAccepted_c : (reqAt? (request 6 false 1 none) 6).any (fun q => !q.spawn && q.answer.isNone) = true ∧
    (reqAt? (request 6 false 1 (some 2)) 6).any (fun q => q.answer == some 2) = true := by decide +kernel

/-- O37: a queue of a tenant, fences that stand at their value and below it, a wait. -/
theorem witness_HostsExchangeData_a : (kget? sys.tenants 0).any (fun T => (kget? T.queues 2).isSome && fenceValue T 1 == some 10 && fenceValue T 4098 == some 4) = true ∧
    ((({ sys with clk := 9, fenceWaits := [{ id := 3, endpoint := 0, tenant := 0, fence := 1, value := 11, timeout := 5, start := 4 }] } : State).fenceWaits.find? fun w => w.id == 3).any
      (fun w => decide (w.timeout ≤ (9 - w.start).toNat)) = true) := by decide +kernel
/-- Transfers that read and write, and one of a region that is not the tenant's. -/
def transfer (r : Nat) (w : Bool) : Transfer := { endpoint := 0, tenant := 0, region := r, gen := 1, offset := 0x200, len := 512, write := w, bytes := List.replicate 512 3 }
theorem witness_HostsExchangeData_b : ∀ c ∈ [(7, false, 0), (7, true, 0), (99, true, 1)], (let x := transfer c.1 c.2.1
    inService sys && Memory.wf sys.mem && ((kget? sys.regions x.region).all fun E => E.state != 2) && sys.poison == [] && x.bytes.length == x.len && transferCode sys x == c.2.2) = true := by decide +kernel
/-- Group packets of another view, from no member, that fail and that pass. -/
def grouped (roster : Bool) : State := { sys with groups := [(1, { number := 6, members := [0, 4], roster := roster, tenant := 0, key := none })] }
def packet (v : BitVec 32) (m r : Nat) : GroupPacket := { group := 1, view := v, member := m, dreg := r, dgen := 1, doff := 0, flag := false, bytes := [1, 2, 3, 4, 5, 6, 7, 8] }
theorem witness_HostsExchangeData_c : ∀ c ∈ ([(false, packet 5 0 7, none), (true, packet 6 3 7, none), (true, packet 6 4 99, some .fail), (false, packet 6 3 7, some .pass)] :
    List (Bool × GroupPacket × Option Check)), (kget? (grouped c.1).groups 1).any (fun G => match c.2.2 with
      | none => c.2.1.view != G.number || (G.roster && !G.members.contains c.2.1.member)
      | some k => c.2.1.view == G.number && (!G.roster || G.members.contains c.2.1.member) && receiveCheck (grouped c.1) G c.2.1 == k) = true := by decide +kernel
/-- Packets under a key: which tag protects one is a free value, so one that carries it meets the hypothesis by its form. -/
theorem witness_HostsExchangeData_key : ∀ k : BitVec 512, ∃ p : GroupPacket, p.view = 6 ∧ p.bytes ≠ [] ∧ p.tss = Config.tssTag k (leBytes 4 p.view.toNat ++ leBytes 4 p.dreg ++
    leBytes 2 p.dgen.toNat ++ leBytes 8 p.doff ++ leBytes 1 (if p.flag then 1 else 0) ++ p.bytes) :=
  fun k => ⟨{ packet 6 4 7 with tss := Config.tssTag k (leBytes 4 6 ++ leBytes 4 7 ++ leBytes 2 1 ++ leBytes 8 0 ++ leBytes 1 0 ++ [1, 2, 3, 4, 5, 6, 7, 8]) }, rfl, by simp [packet], rfl⟩
/-- A send queue in region 7 with a submitted slot: 600 bytes of region 20, for the group's view or for another; one in transit. -/
def slotRec (v : Nat) : Nat := fields [(64, 20), (84, 1), (144, 0x1000), (224, 600), (416, v)]
def sending (v : Nat) (run : Option SendRun) : State :=
  { pokeRaw (grouped false) 0x1000 (leBytes 64 (slotRec v)) with empties := [0x1038], sendqs := [(4, { region := 7, port := 0, group := 1, next := 0, run := run })] }
theorem witness_HostsExchangeData_d : ∀ v ∈ [5, 6], (let s := sending v none
    let b := BitVec.ofNat 512 (readVal s 0x1000 64)
    inService s && Memory.wf s.mem && s.empties.contains (0x1000 + 56) && (v == 5 || ((kget? s.groups 1).any fun G => bits b 416 32 == G.number.toNat) &&
      (slotChunks s b).length == 2 && (slotChunks s b).all fun k => sourceCheck s 0 b k == .pass)) = true := by decide +kernel
theorem witness_HostsExchangeData_e : ∀ c ∈ [([(0, [1]), (1, [2])], false), ([(0, [1])], true), ([(0, [1])], false)],
    (let run : SendRun := { slot := 0, record := BitVec.ofNat 512 (if c.2 then 2 ^ 192 else 0), unacked := c.1, flagSent := c.2 }
     (kget? (sending 6 (some run)).sendqs 4).any fun q => q.run == some run && run.unacked.any fun u => u.1 == 0) = true := by decide +kernel

/-- A held task in slot 1 of a machine with method 3 for its operator, of image 1. -/
def methodE : BitVec 512 := BitVec.ofNat 512 (fields [(136, 1), (160, 1), (192, 1), (121, 1)])
def heldTask : Task := { newTask sys 1 1 (BitVec.ofNat 2048 (fields launch)) 0 2 .user 4 with method := some 3, image := 1 }
def holding (t : Task) : State := { sys with tasks := [(1, t)], methods := [(3, methodE)], cores := [] }
/-- O38: a release to a method and one to the no-method trap. -/
theorem witness_TasksReachTheirCores_a : ∀ c ∈ ([({ heldTask with method := none }, .method 3), ({ heldTask with state := 1, image := 0 }, .method 3),
    ({ heldTask with record := BitVec.ofNat 2048 (fields [(1600, 2)]) }, .nothing)] : List (Task × Found)),
    (let s := holding c.1
     (c.1.state == 0 || c.1.state == 1) && c.1.deps == [] && c.1.faults == [] && releasable s 1 c.1 && lookup s c.1 == c.2 &&
       (c.2 == .nothing || c.1.state == 1 || c.1.method != some 3 || c.1.image != mImage (kget s.methods 3 0))) = true := by decide +kernel
/-- A release to conversions: method 3 wants region 7 with tag 5; entries 4 and 5 make tag 6 of tag 0 and tag 5 of tag 6. -/
def convTask : Task := { heldTask with method := none, record := BitVec.ofNat 2048 (fields (launch ++ [(0, 7), (20, 3), (80, 0x400), (1708, 1)])) }
def converting : State :=
  { holding convTask with methods := [(3, BitVec.ofNat 512 (fields [(136, 1), (140, 1), (160, 1), (192, 1), (121, 1), (152, 1), (384, 5)])),
      (4, BitVec.ofNat 512 (fields [(136, 2), (140, 1), (121, 1), (152, 1), (144, 1), (192, 1), (256, 6)])),
      (5, BitVec.ofNat 512 (fields [(136, 2), (140, 1), (121, 1), (152, 1), (144, 1), (192, 1), (384, 6), (256, 5)]))] }
theorem witness_TasksReachTheirCores_convert : (releasable converting 1 convTask && convTask.deps == [] && convTask.faults == [] &&
    lookup converting convTask == .convert [(7, [4, 5])] && ((insertAll converting 1 convTask [(7, 4), (7, 5)]).any fun q => q.1 == [0, 2]) &&
    (kget? converting.regions 7).any fun R => decide (R.extent < 2 ^ 48)) = true := by decide +kernel
/-- A placement that passes its dispatch checks, and one against an image that declares a window the task does not have. -/
def withImage (h : Nat) : State := { holding heldTask with images := [(1, { header := BitVec.ofNat 2048 h, base := 0xFD00200100, amap := [] })] }
theorem witness_TasksReachTheirCores_b : ∀ h ∈ [0, 8 * 2 ^ 512], (let s := withImage h
    heldTask.state == 0 && releasable s 1 heldTask && inService s && !s.switching && lookup s heldTask == .method 3 && (kget? s.images 1).isSome && (boundTo s heldTask).isNone &&
    placementOk s heldTask [17] && !outranked s 1 heldTask && !savedFirst s 1 (takenBy heldTask [17]) && (dispatchFault s heldTask (imageAt s heldTask).header).isSome == (h != 0)) = true := by decide +kernel
/-- The root's start message and a member's spawn message. -/
def placedT (started : Bool) (l : List Nat) : Task := { heldTask with state := 2, members := [0, 17, 18], started := started, spawnsLeft := l.map fun i => (i, child) }
theorem witness_TasksReachTheirCores_c : ∀ c ∈ [(placedT false [0, 1, 2], 0), (placedT true [1, 2], 1), (placedT true [2], 2)],
    (c.1.state == 2 && c.1.started == (c.2 != 0) && !c.1.stopped && c.1.faults == [] && !c.1.saved && (c.1.members[c.2]?).isSome && c.1.spawnsLeft.find? (fun p => p.1 == c.2) == some (c.2, child) &&
      c.1.spawnsLeft.all fun p => c.2 == 0 || !spawnsBefore c.1 c.2 p.1) = true := by decide +kernel


/-- Task 0 at the end of its work: one record with write access to bytes 0 to 0x400 of region 7, its strand gone. -/
def written : BitVec 2048 := BitVec.ofNat 2048 (fields [(0, 7), (20, 3), (80, 0x400), (1708, 1), (1328, 1), (1280, 5), (1600, 1)])
def endTask : Task := { newTask sys 0 1 written 0 2 .user 4 with state := 2, started := true, members := [0], image := 1, method := some 3 }
def ending (f : Task → Task) : State :=
  { sys with tasks := [(0, f endTask)], methods := [(3, BitVec.ofNat 512 (fields [(121, 1), (136, 1), (144, 1), (160, 1), (256, 6)]))], cores := [(0, { Core.idle with task := some 0 })] }
def task0 (s : State) : Task := (kget? s.tasks 0).getD endTask
def flushing (c : Nat) (t : Task) : Task := { t with state := 3, cursor := mkCursor c 0 0 0x1000 }
/-- Its tag entry for the first line of region 7, dirty, in local line 1. -/
def dirtyLine (s : State) : State := onC s fun c => { c with tagTab := [(4, BitVec.ofNat 64 (2 ^ 63 + 2 ^ 62 + 2 ^ 40 + 0x10))] }

/-- O39: the end of the work; granules of the walk with and without a line. -/
theorem witness_TasksComplete_a : (let s := ending id
    let t := task0 s
    t.state == 2 && t.started && t.faults == [] && t.quiesce == .no && !t.saved && !namesMoving s t && !strandsLeft s 0 && (coresOf s 0 t).all (coreDone s) && (coresOf s 0 t) == [0] &&
      (chooseConsumer s 0 t).isNone) = true := by decide +kernel
theorem witness_TasksComplete_b : (let s := ending (flushing 0)
    let t := task0 s
    t.state == 3 && curGranule s t == some (0, 0x1000) && granuleTags s 0 t 0x1000 == []) = true := by decide +kernel
theorem witness_TasksComplete_c : (let s := dirtyLine (ending (flushing 0))
    let t := task0 s
    (granuleTags s 0 t 0x1000).any (fun q => q.1 == 0 && q.2.1 == 4 && tagAddr q.2.2 == 0x1000 &&
      chunkCheck s (walkWin s t q.2.2) t.tenant true (tagAddr q.2.2) 256 == .pass && (lineBad s (writeRanges s t) (tagAddr q.2.2)).isNone && !poisonedIn s (slotBase 0 + tagLocal q.2.2 * 256) 256) &&
    (granuleTags s 0 t 0x1000).length == 1) = true := by decide +kernel
/-- The commit, with an output tag for the record's region. -/
theorem witness_TasksComplete_d : (let s := dirtyLine (ending (flushing 2))
    let t := task0 s
    t.state == 3 && (curGranule s t).isNone && curPhase t.cursor != 3 && s.accs == [] && t.consumer.isNone && t.producer.isNone && !t.isHandler &&
      (t.method.bind (kget? s.methods)).any (fun e => mOmask e 0) && t.nrec == 1 && (kget? s.regions (t.reg 0)).isSome) = true := by decide +kernel
/-- Completion records of a committed, an aborted and a faulted task; retirements. -/
theorem witness_TasksComplete_e : ∀ t ∈ [flushing 3 endTask, { endTask with state := 6 }, { endTask with state := 5, quiet := true }],
    (let s := ending fun _ => t
     t.kind == .user && (kget? s.tenants t.tenant).any (fun n => (kget? n.queues t.queue).any (fun q => decide (q.cseq - q.cfreed < 2 ^ q.cslots)) && (fenceValue n (fenceOf t)).isSome) &&
       t.producer.isNone && ((t.state == 3 && curPhase t.cursor == 3 && t.consumer.isNone && t.faults == [] && !t.saved && t.bound.isNone) || !t.completed && (t.state == 6 || t.state == 5 && t.quiet))) = true := by decide +kernel
theorem witness_TasksComplete_f : ∀ t ∈ [{ endTask with state := 4, kind := .handler 7 }, { endTask with state := 6, kind := .conversion 9 }, { endTask with state := 5, quiet := true, kind := .handler 7 },
      { endTask with state := 5, quiet := true, recorded := true, kind := .handler 7 }],
    (let s := ending fun _ => t
     (t.state == 4 || t.state == 6 || (t.state == 5 && t.quiet)) && slotFreed s t && s.tasks.all fun p => p.2.state != 0 && p.2.deps == [] && p.2.producer.isNone && p.2.consumer.isNone) = true := by
  decide +kernel

def oneFault (cls : Nat) : FaultInfo :=
  { cls := cls, code := 1, aux := 0, addr := 0, word := 0, pcoff := 0, image := 1, time := 0, gcn := 0, sid := 63, win := 0, eng := true, gang := false }

/-- O38: the handler of a stopped stage takes the stage's core. -/
def stageFault : Task := { endTask with confined := some 0, members := [0, 17], faults := [oneFault 3] }
def boundTask : Task := { heldTask with kind := .handler stageFault.handle, bound := some 0, stageOf := some (0, 2) }
theorem witness_TasksReachTheirCores_bound : (let s := { withImage 0 with tasks := [(0, stageFault), (1, boundTask)], cores := [(0, { Core.idle with task := some 0 })] }
    boundTask.state == 0 && releasable s 1 boundTask && inService s && !s.switching && boundTask.method == some 3 && lookup s boundTask == .method 3 && (kget? s.images 1).isSome &&
    boundTo s boundTask == some 0 && boundReady s 0 0 && !savedFirst s 1 [] && (dispatchFault s boundTask (imageAt s boundTask).header).isNone) = true := by decide +kernel

/-- On a core of a confidential cascade it finds nothing (R468); no start message goes to a task with a fault. -/
theorem test_bound_core_is_scrubbed : (let s := { withImage 0 with
      tasks := [(0, { stageFault with record := BitVec.ofNat 2048 (2 ^ 1344) }), (1, boundTask)], cores := [(0, { Core.idle with task := some 0 })],
      mem := [(0x10000000008, 3), (0x10000200008, 4)], empties := [0x10000000010], poison := [0x10000000018] }
    !boundTask.lockStep && match stepPlacement s 1 [0] with
    | some t => t.mem == [(0x10000200008, 4)] && t.empties == [] && t.poison == []
    | none => false) = true := by decide +kernel
theorem witness_TasksReachTheirCores_faulted : (placedT false [0, 1]).faults = [] ∧ ({ placedT false [0, 1] with faults := [oneFault 3] } : Task).faults ≠ [] := by decide

/-- O40: a fault of an engine in a task, in a cascade, and the end of a stop. -/
def faulted (period : Nat) (f : Task → Task) : State :=
  let r : BitVec 2048 := BitVec.ofNat 2048 (fields [(0, 7), (20, 3), (80, 0x400), (1708, 1), (1328, 1), (1600, 1), (1712, period)])
  ending fun t => f { t with faults := [oneFault 3], record := r }
theorem witness_FaultedTasksStop : ∀ c ∈ [(0, (id : Task → Task), 0), (9, id, 1), (9, fun t => { t with spawnsLeft := [(1, child)] }, 3), (0, fun t => { t with stopped := true }, 2)],
    (let s := faulted c.1 c.2.1
     let t := task0 s
     (firstFault t.faults).any (fun f => confinable f) && !t.quiet && t.faults.all (vecSettled s) && t.confined.isNone && (match c.2.2 with
       | 0 => !t.stopped && t.period == 0
       | 1 => !t.stopped && t.period != 0 && t.state == 2 && t.faults.length == 1 && t.spawnsLeft == []
       | 3 => !t.stopped && t.period != 0 && t.spawnsLeft != []
       | _ => t.stopped && (coresOf s 0 t).all (coreQuiet s) && t.carried == [] && t.bound.isNone && t.f 1344 64 == 0 && bit1 (t.recBits 0) 21 && (kget? s.regions (t.reg 0)).isSome)) = true := by
  decide +kernel

/-- O41: a record written into a live ring and the spawn of the tenant's default handler. -/
def handlerEntry : BitVec 512 := BitVec.ofNat 512 (fields [(121, 1), (136, 1), (160, 9)])
theorem witness_FaultRecordsAreWritten_a : (let s := faulted 0 fun t => { t with state := 5, quiet := true }
    let t := task0 s
    (kget? s.tenants t.tenant).any (fun n => n.ring.any fun r => freeRun r (slotsNeeded t false) == some [31] && (kget? s.regions r.region).any fun e =>
      e.state == 1 && decide (e.base + 128 * r.slots ≤ 2 ^ 48)) && (firstFault t.faults).isSome && t.quiet && !t.recorded && (newSlot s).isSome && decide (t.nrec ≤ 8) &&
      s.unreported == [] && Memory.wf s.mem && s.empties == []) = true := by decide +kernel
/-- The record of a task that has retired. -/
theorem witness_FaultRecordsAreWritten_retired : (let T := task0 (faulted 0 fun t => { t with state := 5, quiet := true })
    let s := { faulted 0 id with tasks := [], unreported := [T] }
    (kget? s.tenants T.tenant).any (fun n => n.ring.any fun r => freeRun r (slotsNeeded T false) == some [31]) && handleSlot T.handle == 0 && T.quiet && !T.recorded && (firstFault T.faults).isSome &&
      (newSlot s).isSome) = true := by decide +kernel
theorem witness_FaultRecordsAreWritten_b : (let s := faulted 0 id
    let t := task0 s
    handlerOp t 9 == some 9 && (entriesOf { s with methods := [(5, handlerEntry)] } t 1).any fun p => mOp p.2 == 9) = true := by decide +kernel
theorem witness_FaultRecordsAreWritten_c : (core0 (faulted 0 id)).task = some 0 ∧ (core0 (ending id)).task = some 0 ∧ (task0 (ending id)).faults = [] ∧ Core.idle.task = none ∧ coreDisabled base ((0x1000017FFF8 - 2 ^ 40) / 2 ^ 21) = false ∧ (0x1000017FFF8 - 2 ^ 40) % 2 ^ 21 < 0x180000 := by decide +kernel

/-- O42: the end of a slice with another tenant's task waiting; quiescence by slice, for a compaction and for full service; a cancel, a retry, resumptions. -/
def waiting (s : State) : State :=
  { s with tenants := kset s.tenants 1 { tenant0 with slice := 0 }, tasks := kset s.tasks 1 { newTask s 1 1 (BitVec.ofNat 2048 (fields [(1600, 1), (1692, 64), (1672, 16), (1684, 1), (1328, 0xFFFF), (1664, 3)])) 1 2 .user 4 with method := some 3 },
           service := .reduced, tested := [(0, true)] }
theorem witness_TasksArePreempted_a : (let s := { waiting (ending id) with clk := 70000 }
    let t := task0 s
    (kget? s.tenants t.tenant).any (fun n => decide (0 < n.slice) && decide (n.slice ≤ (s.clk - t.placedAt).toNat)) && t.state == 2 && !t.saved && t.quiesce == .no && t.retry.isNone && !t.held && !t.stopped && !t.stops &&
      t.faults == [] && decide (slotsTaken s + t.members.length ≤ 3072) && (s.tasks.all fun p => !holdsStage s 0 p.2) && s.retiring == []) = true ∧ ((waiting (ending id)).tasks.map fun p => p.1).Nodup := by decide +kernel
/-- A cascade with the handler of its stopped stage, at the end of its slice. -/
theorem witness_TasksArePreempted_stage : (let s := { ending id with tasks := [(0, { stageFault with members := [0] }), (1, { boundTask with state := 2, members := [0] })], cores := [(0, { Core.idle with task := some 1 })] }
    (kget? s.tasks 1).any fun u => holdsStage s 0 u && u.retry.isNone && u.quiesce == .no) = true := by decide +kernel
theorem witness_TasksArePreempted_b : (let s := { waiting (ending id) with clk := 70000 }
    s.tasks.any fun p => wantsCores s (task0 s) p.1 p.2) = true := by decide +kernel
theorem witness_TasksArePreempted_c : ∀ q ∈ [Quiesce.slice, .service, .compact 7], (let s := ending fun t => { t with quiesce := q }
    let t := task0 s
    t.quiesce == q && t.state == 2 && !t.held && !t.stopped && !t.stops && t.faults == [] && (s.tasks.all fun p => !holdsStage s 0 p.2) && s.retiring == [] && t.bound.isNone && (coresOf s 0 t).all (fun g => !needsCheckpoint s t g) && coresOf s 0 t == [0] && gangAtRest s 0 t &&
      !rollsBack t) = true := by decide +kernel
def busyMatrix : MRun :=
  { cmd := { record := 0, meta? := none, sid := 0, addr := 0, pc := 0, headOk := true, gateOk := true }, awin := Window.empty, bwin := Window.empty, chunks := [], buf := [], flags := 0,
    effectDone := false, landed := [] }
theorem witness_TasksArePreempted_d : (let s := { onC (ending fun t => { t with quiesce := .slice, stopAt := 5 }) (fun c => { c with mrun := some busyMatrix }) with clk := 65541 }
    let t := task0 s
    t.quiesce != .no && !t.held && (coresOf s 0 t).any (fun g => startedWork (coreAt s g)) && decide (65536 ≤ (s.clk - t.stopAt).toNat)) = true := by decide +kernel
theorem witness_TasksArePreempted_e : ∀ l ∈ [[], [0]], (let s := { ending (fun t => { t with retry := some (.slice, 5) }) with clk := 0x100005, retiring := l }
    (task0 s).retry.any (fun r => decide (2 ^ 20 ≤ (s.clk - r.2).toNat)) && !(task0 s).stopped && !(task0 s).stops && decide (slotsTaken s + (task0 s).members.length ≤ 3072) &&
      ((coresOf s 0 (task0 s)).any fun g => s.retiring.contains (clusterOf g)) == (l != [])) = true := by decide +kernel
/-- No save slot is left for the two gangs that would leave. -/
theorem witness_TasksArePreempted_full : ∀ f ∈ [(fun t => t : Task → Task), fun t => { t with retry := some (.slice, 5) }], (let s := { waiting (ending f) with
      clk := 0x100005, saves := List.replicate 3072 { slot := 1, member := 0, gcn := 1, core := Core.idle, bytes := [], empties := [], poison := [], accs := [], streams := [], key := 0 } }
    (kget? s.tenants 0).any (fun n => decide (0 < n.slice) && decide (n.slice ≤ (s.clk - (task0 s).placedAt).toNat)) && (task0 s).state == 2 && decide (3072 < s.saves.length + (task0 s).members.length) &&
      nextQuiesce s (task0 s) == .no) = true := by decide +kernel
theorem witness_TasksArePreempted_f : ∀ q ∈ [Quiesce.service, .compact 8], (let s := ending fun t => { t with held := true, quiesce := q }
    let t := task0 s
    !t.saved && t.held && t.quiesce == q && !s.switching && !namesMoving s t) = true := by decide +kernel
/-- Task 0 saved from core 0. -/
def savedAway : State := match stepQuiesced (ending fun t => { t with quiesce := .slice }) 0 with
  | some s => s
  | none => base
theorem witness_TasksArePreempted_g : (let s := savedAway
    let t := task0 s
    t.saved && !s.switching && t.faults == [] && coresBack s 0 t && (s.tasks.all fun p => !needsRetiring s p.1) && !namesMoving s t && !t.lockStep && s.saves.length == 1 && s.saves.all fun v => v.slot == 0 && v.gcn == 0) = true := by decide +kernel

/-! ### Witnesses: regions, retirement and the owner's requests -/

/-- O43: a move, a sweep under way and at its end, a cluster, a channel without data and with region 7. -/
def moving : State := { sys with regions := [(7, { regionR 2 1 with moveTo := some 0x1800 })], empties := [0x1008] }
theorem witness_RegionsMoveAndUnitsRetire_a : (kget? moving.regions 7).any (fun e => e.state == 2 && e.moveTo.isSome && (holders moving 7).all (fun p => p.2.held) && !namedInFlush moving 7 && Memory.wf moving.mem) = true ∧
    (∀ n ∈ [0, 0x1000], (let e := { regionR 1 1 with rekey := true, sweep := n }
      e.rekey && e.state != 0) = true) := by decide +kernel
theorem witness_RegionsMoveAndUnitsRetire_b : (let s := { sys with retiring := [3] }
    s.retiring.contains 3 && !clusterInUse s 3) = true := by decide +kernel
theorem witness_RegionsMoveAndUnitsRetire_c : ∀ b ∈ [0x1000, 0xFBFFFFF000], (let s := { sys with chanPending := [(15, 31)], regions := [(7, { regionR 1 1 with base := b })] }
    s.chanPending.contains (15, 31) && (stranded s (15, 31) == []) == (b == 0x1000) && !noRoom s (15, 31) && (nextMove s (15, 31)).any (fun n => n.1 == 7) == (b != 0x1000)) = true := by decide +kernel

/-- The owner's requests: master 2 owns a machine in full service. -/
def hdr : ReqHdr := { master := 2, seq := 5, tenant := 0, kind := 4 }
def owned : State := { sys with owner := some 2 }
theorem owner_met : (kget? owned.mgmt hdr.master).isSome = true ∧ inService owned = true ∧ owned.owner = some hdr.master ∧ owned.service ≠ .halted ∧ owned.reqWait = [] ∧ hdr.kind = 4 := by decide +kernel
/-- Every listed kind, two that are not, and requests that stand alone, again, and behind another. -/
theorem request_met : (∀ k ∈ (List.range 16).drop 1, ({ hdr with kind := k }).kind = k) ∧ ({ hdr with kind := 0 }).kind = 0 ∧ 15 < ({ hdr with kind := 16 }).kind ∧
    (∀ p ∈ ({ owned with reqWait := [(2, 5)] } : State).reqWait, p = (hdr.master, hdr.seq)) ∧ ¬(∀ p ∈ ({ owned with reqWait := [(3, 1)] } : State).reqWait, p = (hdr.master, hdr.seq)) ∧
    (∀ p ∈ ({ owned with reqWait := [(3, 1)] } : State).reqWait, p.1 = hdr.master → p.2 = hdr.seq) := by decide +kernel

/-- A header that names the tenant and the first argument, and one that names another of either (log entry 98). -/
theorem header_met : ∀ c ∈ [(0, 7, true), (63, 2559, true), (1, 8, false)], (let h := { hdr with tenant := c.1, arg := BitVec.ofNat 64 c.2.1 }
    (h.tenant == c.1 && h.arg == BitVec.ofNat 64 c.2.1) = true ∧ ((h.tenant == 0 && h.arg == 7) || (h.tenant == 63 && h.arg == 2559)) = c.2.2) := by decide +kernel
/-- A slice set as the header says, and one for another tenant. -/
theorem test_header_decides : ∀ c ∈ [(0, 65536, 0), (1, 65536, 1), (0, 65535, 1)], (match exec (.sliceSet { hdr with kind := 6, tenant := c.1, arg := BitVec.ofNat 64 c.2.1 } 0 65536) owned with
    | .next t => t.outbox.map fun m => match m with
      | .reply _ h _ => (h.getD 3 9).toNat
      | _ => 9
    | _ => []) = [c.2.2] := by decide +kernel

/-- O44: a request before reduced service, one of another master, a claim, a handover under way and late, a late keepalive. -/
theorem witness_OwnershipIsKept_a : inService { owned with service := .bringUp } = false ∧ (inService { owned with owner := some 3 } = true ∧
    ({ owned with owner := some 3 } : State).owner ≠ some hdr.master) ∧ sys.owner = none ∧ owned.owner.isSome = true ∧ ((kget? owned.mgmt 7).isSome = true ∧ 7 ≠ hdr.master) := by decide +kernel
theorem witness_OwnershipIsKept_b : let s := { owned with handover := some (2, 100), clk := 100 }
    s.handover = some (hdr.master, 100) ∧ ¬ 3600000000 * 10 ≤ (s.clk - 100).toNat ∧ (let t := { owned with handover := some (3, 100), clk := 100 + 3600000000 * 10 }
      3600000000 * 10 ≤ (t.clk - 100).toNat) ∧ (let t := { owned with ownerSeen := 7, clk := 7 + 3600000000 * 30 }
      t.owner = some hdr.master ∧ 3600000000 * 30 ≤ (t.clk - t.ownerSeen).toNat) ∧ (({ hdr with kind := 2 }).kind = 2 ∧ ({ owned with clk := 9 } : State).ownerSeen ≠ 9) := by decide +kernel

/-- A free of a region that no task names and of one that a task names, revocation of one that a task names and of one it does not, a move, a rekey, a mark, queries. -/
def ownedTask : State := { ending id with owner := some 2 }
theorem witness_RegionsAreManaged_b : (kget? ownedTask.regions 20).any (fun e => e.state != 0 && !regionNamed ownedTask 20 && moveOk ownedTask 20 e 0x20000 && !namedInFlush ownedTask 20 && !e.rekey &&
      e.owner == hdr.tenant && masterServes ownedTask hdr.master hdr.tenant) = true ∧
    ((task0 ownedTask).state ≤ 3 ∧ names ownedTask (task0 ownedTask) 7 = true ∧ names ownedTask (task0 ownedTask) 20 = false ∧
      (kget? ownedTask.regions 7).any (fun e => e.state != 0) = true ∧ regionNamed ownedTask 7 = true ∧ ownedTask.reqWait = []) := by decide +kernel
theorem witness_RegionsAreManaged_c : (let e := { regionR 1 1 with prot := true, inc := true }
    e.state == 1 && e.prot && !e.rekey && e.wver != 0xFFFFFFFF) = true ∧ (let e := { regionR 1 1 with owner := 3 }
    e.owner ≠ hdr.tenant) := by decide +kernel

/-- O46: a tenant created and refused. -/
theorem witness_TenantsAreManaged_a : (5 < 64 ∧ kget? owned.tenants 5 = none) ∧ (kget? owned.tenants 0).isSome = true ∧ inService owned = true := by decide +kernel
/-- A queue record with rings of 2 records in the regions 20 and 21; one whose counts come from another device. -/
def queueRec : BitVec 256 := BitVec.ofNat 256 (fields [(16, 1), (20, 21), (40, 1), (44, 20)])
def movedRec : BitVec 256 := BitVec.ofNat 256 (fields [(16, 1), (20, 21), (40, 1), (44, 20), (64, 8), (128, 10), (192, 7)])
theorem witness_TenantsAreManaged_b : (kget? owned.tenants 0).any (fun n => (kget? n.queues 3).isNone && n.ring.isSome && (kget? n.fences 0).isNone) = true ∧ 2 ^ 64 - 1 < 2 ^ 64 ∧
    ∀ c ∈ [(queueRec, 0, 0), (movedRec, 6, 5), (movedRec, 7, 5)], bits c.1 40 4 ≠ 0 ∧ bits c.1 16 4 ≠ 0 ∧ bits c.1 16 4 ≤ 12 ∧ ringFits owned 0 (bits c.1 44 20) (32 * 2 ^ bits c.1 40 4) = true ∧
    ringFits owned 0 (bits c.1 20 20) (256 * 2 ^ bits c.1 16 4) = true ∧ bits c.1 64 64 ≤ bits c.1 128 64 ∧ bits c.1 128 64 ≤ bits c.1 64 64 + 2 ^ bits c.1 16 4 ∧
    c.2.2 ≤ c.2.1 ∧ c.2.1 ≤ c.2.2 + 2 ^ bits c.1 40 4 := by decide +kernel
theorem witness_TenantsAreManaged_c : (kget? owned.regions 22).any (fun e => e.state == 1 && e.owner == 0 && !isSpad e.base && decide (16 * 128 ≤ e.extent)) = true ∧
    ({ tenant0 with ring := none }).ring = none ∧ tenant0.ring.any (fun r => kget? r.used 3 == some 3 && !handlerUses owned 0 3) = true := by decide +kernel
/-- Windows: one below the reserved range, an empty one, one out of alignment. -/
def winRec (lo hi : Nat) : BitVec 128 := BitVec.ofNat 128 (lo + hi * 2 ^ 48)
theorem witness_TenantsAreManaged_d : ∀ c ∈ [(0, 0xFC00000000, true), (0xFD00000000, 0xFD00000000, true), (2 ^ 40, 2 ^ 40 + 4096, true), (0x800, 0x1000, false)],
    (let w := winRec c.1 c.2.1
     (bits w 0 48 % 4096 == 0 && bits w 48 48 % 4096 == 0) == c.2.2 &&
       (!c.2.2 || decide (bits w 48 48 ≤ 0xFC00000000) || decide (2 ^ 40 ≤ bits w 0 48) || decide (bits w 48 48 ≤ bits w 0 48))) = true := by decide +kernel
theorem witness_TenantsAreManaged_e : (2 ^ 16 ≤ 65536 ∧ 65536 ≤ 2 ^ 32) ∧ (65535 ≠ 0 ∧ 65535 < 2 ^ 16) ∧ 2 ^ 32 < 2 ^ 32 + 1 ∧ (1500 ≤ 3300 ∧ 3300 ≤ 3300) ∧ 1499 < 1500 ∧ owned.order ≠ .zn9m2560L ∧ 3300 < 3301 := by decide +kernel
/-- A partition that fits, with 64 to 8 GiB, 50 to 10 hundredths of bandwidth and some clusters; and one whose minimum is over its maximum. -/
def partRec (clmax clmin : Nat) : BitVec 256 := BitVec.ofNat 256 (fields [(224, 64), (208, 8), (200, 50), (192, 10), (176, clmax), (160, clmin)])
theorem witness_TenantsAreManaged_p : ∀ c ∈ [(16, 1, false), (16, 17, true), (161, 0, true), (160, 160, false)], (bits (partRec c.1 c.2.1) 0 6 == 0 && partRefused owned (partRec c.1 c.2.1) == c.2.2) = true := by
  decide +kernel
/-- O45: descriptors that are accepted and refused. -/
def desc (n b : Nat) : RegionDesc := { number := n, base := b, extent := 0x1000, owner := 0, tag := 3, prot := false, tensor := 0 }
def roomy : State := { owned with tenants := [(0, { tenant0 with part := some (partRec 16 1) })] }
theorem witness_RegionsAreManaged_a : createRefused roomy (desc 900 0x20000) = false ∧ genOf roomy 900 + 1 ≠ 0xFFFF ∧ Memory.wf roomy.mem = true ∧
    createRefused roomy (desc 7 0x20000) = true := by decide +kernel
/-- A region that comes from another device with its generation and mark. -/
theorem witness_RegionsAreManaged_moved : createRefused roomy { desc 900 0x20000 with moved := some (7, true) } = false ∧ (7 : BitVec 16) ≠ 0xFFFF := by decide +kernel
theorem witness_TenantsAreManaged_f : methodRefused 3 methodE = false := by decide +kernel
theorem witness_TenantsAreManaged_g : 15 ∉ owned.split ∧ 15 ∉ owned.splitPending ∧ (159 ∉ owned.disabled ∧ 159 ∉ owned.retired ∧ 159 ∉ owned.retiring ∧ ∀ p ∈ owned.tasks, p.2.saved = false) ∧
    ((15, 31) ∉ owned.chanRetired ∧ (15, 31) ∉ owned.chanPending) := by decide +kernel
theorem witness_TenantsAreManaged_h : (let s := { owned with cores := [(2559, { Core.idle with withheld := true })] }
    !coreDisabled s 2559 && (coreAt s 2559).withheld && (coreAt s 2559).task.isNone) = true := by decide +kernel
theorem witness_TenantsAreManaged_i : (kget? (grouped false).groups 1).any (fun G => (kget? (grouped false).regions 7).any fun R => R.state == 1 && R.owner == G.tenant && decide (128 ≤ R.extent) &&
    decide (R.extent ≤ 16384)) = true ∧ (grouped false).sendqs = [] := by decide +kernel
theorem witness_TenantsAreManaged_j : portExists (grouped false) 15 = true := by decide +kernel
theorem witness_TenantsAreManaged_k : (kget? (grouped true).groups 1).any (fun G => decide (G.number < 7)) = true := by decide +kernel
/-- A view with its wrapped key, a roster under an installed key, one with none, and the key itself. -/
theorem witness_TenantsAreManaged_l : (let v : ViewRecord := { group := 1, number := 7, members := List.range 16, tenant := 0, ct := List.replicate 1568 0, key := List.replicate 72 0 }
    v.members.length ≤ 16 ∧ v.number = 7 ∧ v.ct.length = 1568 ∧ v.key.length = 72) ∧
    (let r : RosterRecord := { group := 1, number := 7, members := [0, 4], tenant := 0, signature := [] }
     r.manager = none ∧ ({ r with manager := some [3] }).manager = some [3] ∧ owned.fabricKey = none ∧ ({ owned with fabricKey := some [3] } : State).fabricKey = some [3]) := by decide +kernel

/-- O47: an image of 256 bytes, identifier 5; a list; a domain of 2 landings, number 7; a member image with one export; keys; rounds. -/
def imageBytes : List Byte := leBytes 256 5
def domRec : BitVec 1024 := BitVec.ofNat 1024 (fields [(0, 7), (54, 1), (47, 120), (41, 32), (37, 8)])
def member : Image := { header := BitVec.ofNat 2048 (fields [(0, 9), (160, 16), (1280, 7), (1290, 1), (1312, 1), (1320, 64)]), base := 0xFD00201000, amap := [] }
def linked (bound : KMap Word) : State := { ownedTask with domains := [(7, { record := domRec, bound := bound })], images := [(9, member)], keys := [(1, { gen := 3, held := some (0, 0) })] }
theorem witness_ImagesAndKeysAreManaged_a : kget? owned.images (bits (headerOf imageBytes) 0 64) = none ∧ storeFits owned 0xFD00201000 (bits (headerOf imageBytes) 192 32) = true ∧
    owned.revSeq < 1 := by decide +kernel
theorem witness_ImagesAndKeysAreManaged_b : bits domRec 0 10 = 7 ∧ kget? owned.domains 7 = none ∧ bits domRec 54 4 ≤ 9 ∧ bits domRec 47 7 % 8 = 0 ∧ 8 ≤ bits domRec 47 7 ∧ bits domRec 47 7 ≤ 120 ∧
    bits domRec 41 6 ≤ 32 ∧ bits domRec 37 4 ≤ 8 ∧ Memory.wf owned.mem = true := by decide +kernel
theorem witness_ImagesAndKeysAreManaged_c : (kget? (linked []).domains 7).any (fun D => (kget? (linked []).images 9).any (fun im => !bindRefused D im 9 7 1 0) && bits D.record 54 4 == 1 &&
    (linked []).tasks.all fun p => !taskInDomain (linked []) p.2 7) = true ∧ Memory.wf (linked []).mem = true := by decide +kernel
theorem witness_ImagesAndKeysAreManaged_d : freeKeySlot (linked []) = some 2 ∧ (List.replicate 1568 (0 : Byte)).length = 1568 ∧ (kget? (linked []).tenants hdr.tenant).isSome = true ∧
    (let w := keyHandle 0 3 1
     keyHeld (linked []) (bits w 58 6) w = true ∧ keyInUse (linked []) w = false) := by decide +kernel
theorem witness_ImagesAndKeysAreManaged_e : (kget? owned.tenants 0).any (fun n => n.migr.isNone) = true ∧
    ({ tenant0 with migr := some { round := 1, log := [3], final := false, ran := [] } } : Tenant).migr.any (fun m => !m.final) = true := by decide +kernel

/-- O48: the stages of bring-up, and the limits. -/
def waking (n : Nat) : State := { State.reset with dieOk := List.range n }
def tested : State := { owned with service := .reduced, tested := (List.range 160).map fun c => (c, true) }
theorem witness_ServiceComesUp_a : [true, false, true, true].length = 4 ∧ (kget? owned.mgmt hdr.master).isSome = true ∧ (waking 4).service = .bringUp ∧ (waking 4).dieOk.length = 4 ∧
    (∃ p < 16, p ∉ (waking 4).trained) ∧ (∀ p < 16, p ∈ ({ waking 4 with trained := List.range 16 } : State).trained) ∧
    (waking 4).disabled.contains 159 = false ∧ kget? (waking 4).tested 159 = none ∧ (waking 3).dieOk.length ≠ 4 := by decide +kernel
/-- The order of bring-up: a self-test before its ports are trained, and one behind them, which stands for the basic training of its die's stacks (log entry 91). -/
theorem test_bring_up_order : ((match exec (.clusterSelfTestResult 159 true) (waking 4) with
    | .refused _ => true
    | _ => false) && match exec (.clusterSelfTestResult 159 true) { waking 4 with trained := List.range 16 } with
    | .next t => kget? t.tested 159 == some true && t.stacksBasic == [12, 13, 14, 15]
    | _ => false) = true := by decide +kernel
theorem witness_ServiceComesUp_b : tested.service = .reduced ∧ allTested tested = true ∧ tested.switching = false ∧ (let s := { tested with switching := true, tasks := [] }
    s.switching = true ∧ ∀ p ∈ s.tasks, gangRuns p.2 = false) := by decide +kernel
theorem witness_ServiceComesUp_c : 3 ∉ tested.throttled ∧ 3 ∈ ({ tested with throttled := [3] } : State).throttled ∧ 1500 ≤ tested.powerCap ∧
    5 ∈ ({ tested with splitPending := [5] } : State).splitPending ∧ 5 ∉ tested.splitPending ∧ tested.service ≠ .halted := by decide +kernel

/-! ### Witnesses: lanes, frames, steps, encodings -/

/-- O49 to O51: registers of 4,096 bits, a float and an integer type, the parts of a conversion. -/
theorem witness_VectorLanes : (2 ^ 4096 - 1 < 2 ^ 4096) ∧ (∀ t ∈ ([3, 4, 5, 6, 7] : List (BitVec 3)), 3 ≤ t.toNat) ∧ (∀ t ∈ ([0, 1, 2] : List (BitVec 3)), t.toNat < 3) ∧
    (∀ t ∈ ([0, 1] : List (BitVec 3)), t.toNat < 2) := by decide +kernel
/-- A part of a conversion of four-bit elements; float words whose values are a NaN, infinities and zeros among finite values. -/
theorem witness_VectorOtherLanes_quads : ∀ t ∈ ([0, 3, 5, 7] : List (BitVec 3)), (∀ P ∈ ([0, 1] : List (BitVec 3)), P.toNat < 2 * laneBytes t) := by decide +kernel
/-- O3: values of every format, zero and not. -/
theorem witness_ScalarFloat_values : ∀ F ∈ [f8e4, f8e5, f16, b16, f32], ((FVal.nan true).isNan = true ∧ (F.decode F.maxFin).isNan = false) ∧ 0 < 3 ∧ 0 = 0 := by decide +kernel
/-- O51: blocks of 32 values: one infinite, all zero, and finite ones whose measured values fit the top scale. -/
theorem witness_VectorPacking_blocks : (let one := FVal.fin false 1 0
    let zeros := List.replicate 32 (FVal.fin false 0 0)
    let some := FVal.inf true :: List.replicate 31 one
    let fits := FVal.fin true 40 0 :: List.replicate 31 one
    some.length == 32 && some.any (fun y => !y.isFin) && zeros.length == 32 && zeros.all (fun y => y.isFin && y.isZero) && fits.length == 32 && fits.all FVal.isFin && fits.any (fun y => !y.isZero) &&
      [448, 7].all (fun top => fits.all fun y => !(FVal.fin false top 126).lt y.abs)) = true := by decide +kernel
/-- O51: the elements of a quad, an outlier in either place and in neither. -/
theorem witness_VectorPacking_quads : ((-128 : Int) = -128 ∧ (5 : Int) ≠ -128) ∧ 255 < 256 ∧ (8 < 16 ∧ 15 < 16) := by decide +kernel
theorem witness_VectorOtherLanes_parts : ∀ c ∈ ([(0, 2, 3), (1, 0, 1), (7, 7, 0), (2, 0, 3)] : List (BitVec 3 × BitVec 3 × BitVec 2)),
    c.2.2.toNat * min (laneBits c.1) (laneBits c.2.1) < max (laneBits c.1) (laneBits c.2.1) := by decide +kernel
theorem witness_VectorPacking_formats : ∀ c ∈ ([(0, 0), (0, 1), (1, 0)] : List (BitVec 1 × BitVec 1)), 2 * c.1.toNat + c.2.toNat < 3 := by decide +kernel

/-- O52, O53: a word that issues and one that takes an exception, with their next states. -/
def nexts (s : State) (i : Instr) : Bool := match exec i s with
  | .next t => (strandAt? t 0 0).isSome
  | _ => false
theorem witness_WordsKeepTheMachine : ∀ i ∈ [Instr.adds 9 9 10, .trap 3 17], ((encode i).isSome && (issuer? (place i)).isSome && nexts (place i) i) = true := by decide +kernel

/-- O54: turns of a strand with a word that decodes, one under a hint that may not govern it, one that is reserved, and a `rep` that steps. -/
def turning (h : Hint) (w : Nat) : State := onT (probe State.reset w) fun t => { t with hint := h, regs := [(5, 3)] }
def turns (s : State) : Bool := s.sched.head?.any fun m => match m with
  | .issue a =>
    let now := turnFor { s with sched := s.sched.tail } a
    let b := now.cur
    (issuer? now).any fun x => !issueStopped now x && !lockStops now x && (x.c.stage.map fun st => st.due).getD false == false && !stillWaits now x &&
      (accsOf now b.gcn b.slot).isEmpty && (countWord x.t).pending.all fun p => p.remaining != 0
  | _ => false
theorem witness_StepRunsTheDecodedWord_a : ∀ c ∈ ([(.none, 0x04489150, some true), (.rlx 0, 0x04489150, some false), (.none, 0, none)] : List (Hint × Nat × Option Bool)),
    (turns (turning c.1 c.2.1) && (match decodeWord c.2.1 with
      | .ok i => some (hintOk c.1 i)
      | .error _ => none) == c.2.2 && (turning c.1 c.2.1).service != .halted) = true := by decide +kernel
theorem witness_StepRunsTheDecodedWord_b : ∀ i ∈ [(Instr.adds 9 9 10, true), (.adds 127 9 10, false)], (let w := (encode i.1).getD 0
    let h := Hint.rep 0 false 6 5 7
    turns (turning h w) && decodeTableWord 32 w == some i.1 && hintOk h i.1 && (stepWord i.1 w 7 3).isSome == i.2 && (stepWord i.1 w 7 3).all fun j => !writesReg j 5) = true := by decide +kernel
theorem witness_StepRunsTheDecodedWord_c : (let s := { base with service := .halted, sched := [.event (.packageReset [true])] }
    s.service = .halted ∧ s.sched = .event (.packageReset [true]) :: []) ∧ ({ base with sched := [.event .nop] } : State).sched = .event .nop :: [] := by decide +kernel
theorem witness_StepRunsTheDecodedWord_halted : ∀ l q, ({ base with service := .halted, sched := [.event .nop] } : State).sched ≠ .event (.packageReset l) :: q := by simp
/-- Two strands of a core in the order of its scan, the first waiting for a request: the turn is the second's. -/
def twoReady : State :=
  onC { turning .none 0x04489150 with reqs := (request 9 false 1 none).reqs } fun c => { c with strands := [(0, { Strand.blank with wait := some (.request 9) }), (1, Strand.blank)] }
theorem witness_StepRunsTheDecodedWord_scan : (let a : Agent := { gcn := 0, slot := 1 }
    let now := settleCore { twoReady with sched := [] } a.gcn
    let turn := fun (p : Nat × Strand) => p.1 == a.slot || eligible now a.gcn (issueClk now a) p
    (scanOrder (coreAt now 0)).map (fun p => (p.1, turn p)) == [(0, false), (1, true)]) = true := by decide +kernel

/-- O55: one pending entry that falls due: not arrived, faulted, and with a word, a pair, a vector and a distribution value. -/
def due (d : Dst) (v : Option PVal) (arrived : Bool) (f : Option FaultInfo) : State :=
  onT (probe State.reset 0x04489150) fun t => { t with pending := [{ id := 3, dst := d, remaining := 1, value := v, arrived := arrived, flags := 1, fault := f, pc := 0 }] }
theorem witness_WindowsClose : ∀ s ∈ [due (.gen 4) none false none, due (.gen 4) none true (some (oneFault 3)), due (.gen 4) (some (.word 7)) true none, due (.pair 120) (some (.pair 1 2)) true none,
      due (.vec 31) (some (.vec 5)) true none, due (.dist 7) (some (.dist { bits := 1, tag := 2 })) true none],
    (let now := turnFor { s with sched := [] } { gcn := 0, slot := 0 }
     let b := now.cur
     b == { gcn := 0, slot := 0 } && s.sched == [.issue { gcn := 0, slot := 0 }] && (issuer? now).any fun x => !issueStopped now x && !lockStops now x && x.c.stage.isNone && !stillWaits now x && (accsOf now 0 0).isEmpty &&
       x.t.hint == .none && !x.t.counted && ((countWord x.t).pending.filter fun q => q.remaining == 0).length == 1 && vecDone now 0 0) = true := by decide +kernel

/-- O56: words of the largest fields. -/
theorem witness_EncodingAndDecodingAgree : ∀ i ∈ [Instr.adds 127 127 127, .br (BitVec.ofInt 26 (-1)), .trap 3 17, .immHi 0x3FFFFF], (encode i).any (fun w => decide (w < 2 ^ 32)) = true := by decide +kernel
/-- O57: a step of a memory in its form. -/
theorem witness_MemoryStaysCanonical : Memory.wf base.mem = true ∧ (match step base with
  | .next _ => true
  | _ => false) = true := by decide +kernel
/-- O58: a value between two numbers of each format, a tie and one that is exact, in both signs. -/
theorem witness_RoundingIsCorrect : ∀ F ∈ [f8e4, f8e5, f16, b16, f32], ∀ c ∈ [(false, 2 ^ 30 + 1, (-30 : Int)), (true, 2 ^ (F.mb + 2) + 2, 0 - (F.mb : Int)), (false, 3, 0)], ∀ mode ∈ ([0, 1, 2, 3] : List (BitVec 2)),
    (F.round mode c.1 c.2.1 c.2.2).2 &&& fOf = 0 := by decide +kernel
/-- The first magnitudes beyond the largest finite value, half a unit above it: replaced by mode and format (R61); 448 in f8e4 always. -/
theorem witness_RoundingIsCorrect_overflow : ∀ F ∈ [f8e5, f16, b16, f32], (let m := 2 ^ (F.mb + 2) - 1
    let e : Int := (2 ^ F.eb - 2 : Nat) - F.bias - F.mb - 1
    F.round 0 false m e = (F.maxFin + 1, fOf ||| fNx) ∧ F.round 1 true (m + 1) e = (F.signBit + F.maxFin, fOf ||| fNx) ∧ F.round 2 false (m + 1) e = (F.maxFin, fOf ||| fNx) ∧
    F.round 2 true m e = (F.signBit + F.maxFin + 1, fOf ||| fNx) ∧ F.round 3 false m e = (F.maxFin + 1, fOf ||| fNx)) ∧
    f8e4.round 1 false 465 0 = (0x7E, fNx) ∧ f8e4.round 0 true 465 0 = (0xFE, fOf ||| fSat ||| fNx) ∧ f8e4.round 0 false 464 0 = (0x7E, fNx) ∧ f8e4.infinity true = (0xFE, fOf ||| fSat) ∧
    f32.round 0 false 3 (-150) = (2, fUf ||| fNx) := by decide +kernel

/-! ### Worked values of the spec -/

/-- The strand after one word, from given registers. -/
def after (i : Instr) (l : List (Nat × Word)) (m : BitVec 2) : Strand :=
  match exec i (onT (placeR i l) fun t => { t with rnd := m }) with
  | .next t => (strandAt? t 0 0).getD Strand.blank
  | _ => Strand.blank
/-- What its pending entry will write, and with which flags. -/
def owed (i : Instr) (l : List (Nat × Word)) (m : BitVec 2) : List (Option PVal × BitVec 9) := (after i l m).pending.map fun p => (p.value, p.flags)

/-- R95. -/
theorem test_adds_saturates : let t := after (.adds 9 9 10) [(9, 0x7FFFFFFFFFFFFFF0), (10, 0x20)] 0
    t.gen 9 = 0x7FFFFFFFFFFFFFFF ∧ t.flags = fSat := by decide +kernel
theorem test_sra_uses_six_bits : (after (.sra 9 9 10) [(9, 0x8000000000000000), (10, 0x43)] 0).gen 9 = 0xF000000000000000 := by decide +kernel
/-- R96. -/
theorem test_sext : (after (.sext 3 4 12) [(4, 0xABC)] 0).gen 3 = 0xFFFFFFFFFFFFFABC := by decide +kernel
/-- R102: the pairs of its four lines. -/
theorem test_mul_and_div : owed (.mul 10 4 5 1) [(4, 0xFFFFFFFFFFFFFFF9), (5, 2)] 0 = [(some (.pair 0xFFFFFFFFFFFFFFF2 0xFFFFFFFFFFFFFFFF), 0)] ∧
    owed (.div 12 4 120 0) [(4, 0xFFFFFFFFFFFFFFF9)] 0 = [(some (.pair 0xFFFFFFFFFFFFFFFF 0xFFFFFFFFFFFFFFF9), fDz)] ∧
    owed (.div 16 4 5 0) [(4, 0xFFFFFFFFFFFFFFF9), (5, 2)] 0 = [(some (.pair 0xFFFFFFFFFFFFFFFD 0xFFFFFFFFFFFFFFFF), 0)] := by decide +kernel
/-- R101: the quotient that does not fit. -/
theorem test_div_overflows : owed (.div 16 4 5 0) [(4, 0x8000000000000000), (5, 0xFFFFFFFFFFFFFFFF)] 0 = [(some (.pair 0x8000000000000000 0), fOf)] := by decide +kernel
/-- R109: its worked f32 results. -/
theorem test_fadd : ∀ c ∈ ([(0, 0x3F800000), (3, 0x3F800001)] : List (BitVec 2 × Nat)), (let t := after (.fadd 1 2 3) [(2, 0x3F800000), (3, 0x33800000)] c.1
    t.gen 1 == w64 c.2 && t.flags == fNx) = true := by decide +kernel
theorem test_fdiv_fsqrt : ∀ m ∈ ([0, 1, 2, 3] : List (BitVec 2)), (let t := after (.fdiv 1 2 3) [(2, 0x3F800000), (3, 0x80000000)] m
    let u := after (.fsqrt 1 2) [(2, 0xBF800000)] m
    t.gen 1 == 0xFF800000 && t.flags == fDz && u.gen 1 == 0x7FC00000 && u.flags == fNv) = true := by decide +kernel
theorem test_fmin : let t := after (.fmin 1 2 3) [(2, 0x7FA00000), (3, 0x40000000)] 0
    t.gen 1 = 0x40000000 ∧ t.flags = fNv := by decide +kernel
theorem test_fcvt : ∀ c ∈ ([(0, 0xFFFFFFFFFFFFFFFE), (2, 0xFFFFFFFFFFFFFFFD)] : List (BitVec 2 × Nat)), (let t := after (.fcvtI 1 2) [(2, 0xC0200000)] c.1
    t.gen 1 == w64 c.2 && t.flags == fNx) = true := by decide +kernel
theorem test_fcvt_natural : let t := after (.fcvtN 1 2) [(2, 0xC0200000)] 0
    t.gen 1 = 0 ∧ t.flags = fNv := by decide +kernel
theorem test_icvt : let t := after (.icvtF 1 2) [(2, 0x20000000000001)] 0
    t.gen 1 = 0x5A000000 ∧ t.flags = fNx := by decide +kernel
/-- R229: lane 0 with the scale byte 0x7D; lane 40 uses byte 1. -/
theorem test_vfscl : (let r := vecOut (.vfscl 1 2 3 7) 0 [0x40400000 + 0x40400000 * 2 ^ 1280, 0x7D + 0x7F * 2 ^ 8, 0x3F800000 + 0x3F800000 * 2 ^ 1280]
    r.flags == 0 && r.writes.map (fun w => (lane 32 w.2.2 0, lane 32 w.2.2 40)) == [(0x3FE00000, 0x40800000)]) = true := by decide +kernel
/-- R227: sums of four products that wrap; the pair of a widening product. -/
theorem test_vdot : (vecOut (.vdot 6 0 1 0) 0 [0x80807F01, 0x8001FF02, 0x7FFFFFFF]).writes.map (fun w => lane 32 w.2.2 0) = [(0x7FFFFFFF + 2 - 127 - 128 + 16384) % 2 ^ 32] := by decide +kernel
theorem test_vwmul : (vecOut (.vwmul 2 4 5 0) 0 [0x807F, 0x7F80]).writes.map (fun w => (w.2.1, lane 16 w.2.2 0)) = [(false, 0xC080), (true, 0xC080)] := by decide +kernel
/-- R237: the worked block. -/
def quantSource : Nat := pack 32 ([0x3F000000, 0, 0, 0x42200000] ++ List.replicate 28 0xBFC00000)
theorem test_vquant : (let r := vecOut (.vquant 0 6 1 0 7 7) 0 [quantSource, 0, 0]
    r.flags == 0 && r.writes.map (fun w => (w.1.toNat, w.2.2 / 2 ^ (8 * 448))) == [(6, pack 8 ([0x22, 0x87] ++ List.replicate 14 0xAA)), (7, 0x7D * 2 ^ (8 * 60))]) = true := by decide +kernel
/-- R238: the worked group. -/
theorem test_vprune : (vecOut (.vprune24 2 0 5 3) 0 [0x3040B838, 0, 0]).writes.map (fun w => (w.1.toNat, lane 16 w.2.2 128, lane 8 w.2.2 448 % 16)) =
    [(2, 0x4038, 0), (5, 0, 8)] := by decide +kernel
/-- R8: eight bytes stored, little end first. -/
theorem test_little_end_first : readVal (pokeRaw base 0x1000 (leBytes 8 0x1122334455667788)) 0x1000 4 = 0x55667788 ∧
    readVal (pokeRaw base 0x1000 (leBytes 8 0x1122334455667788)) 0x1007 1 = 0x11 := by decide +kernel
end Sys2Proof.Tests
end

section
/-! What the scalar integer words compute (O1, O2). First the rules that every scalar word shares: its clause from its meaning, its
encoding, the reserved codes of its major. Then the arithmetic of majors 1, 2, 3 and of the immediate forms, and the statements. -/

namespace Sys2Proof.Machine

/-! ### The clause of a word -/

/-- A word that issues computes what its meaning, a `scalar`, gives on its operands. -/
theorem computes_of_scalar {s : State} {x : Iss} {i w : Instr} {d : RCode} {g : Iss → List Word → Word × Flags} {v : Word} {f : Flags}
    (h : Issues s x i) (hw : exec w s = scalar w d s g) (hg : g x (inputs s x i) = (v, f)) : i = w → Computes s x i d v f := by
  rintro rfl
  rw [Computes, hw, scalar_of_issues h, hg]

/-- The same for a word that sets no flag. -/
theorem computes_value {s : State} {x : Iss} {i w : Instr} {d : RCode} {k : Iss → List Word → Word} {v : Word}
    (h : Issues s x i) (hw : exec w s = scalar w d s fun x vs => (k x vs, 0)) (hk : k x (inputs s x i) = v) : i = w → Computes s x i d v 0 :=
  computes_of_scalar h hw (by rw [hk])

/-- The same for a word whose value a property describes. -/
theorem computes_exists {s : State} {x : Iss} {i w : Instr} {d : RCode} {k : Iss → List Word → Word} {P : Word → Prop}
    (h : Issues s x i) (hw : exec w s = scalar w d s fun x vs => (k x vs, 0)) (hk : i = w → P (k x (inputs s x i))) :
    i = w → ∃ v, P v ∧ Computes s x i d v 0 :=
  fun e => ⟨_, hk e, computes_value h hw rfl e⟩

theorem Issues.wf {s : State} {x : Iss} {i : Instr} (h : Issues s x i) : i.wf = true := by
  have hl := h.legal
  simp only [legalFor, Bool.and_eq_true] at hl
  obtain ⟨⟨⟨⟨⟨⟨⟨⟨⟨hw, -⟩, -⟩, -⟩, -⟩, -⟩, -⟩, -⟩, -⟩, -⟩ := hl
  exact hw

/-- The width field of `sext` and `zext` (R96). -/
theorem width_of_issues {s : State} {x : Iss} {i : Instr} {d a : RCode} {w : BitVec 7} (h : Issues s x i) (e : i = .sext d a w ∨ i = .zext d a w) :
    1 ≤ w.toNat ∧ w.toNat ≤ 63 := by
  have hw : (genDst d && genSrc a && decide (1 ≤ w.toNat ∧ w.toNat ≤ 63)) = true := by rcases e with rfl | rfl <;> exact h.wf
  exact of_decide_eq_true (Bool.and_eq_true_iff.mp hw).2

/-! ### Encodings

A table of instructions with their codes is encoded as the list of words; its hypothesis closes by `rfl`. -/

/-- Form T: fields d, a, b above a selector. -/
theorem encode_dab {n : Nat} {d a b : RCode} {l : List (Instr × Nat)}
    (h : l.map (fun p => encode p.1) = l.map fun p => some (encF (n + p.2) [(19, d.toNat), (12, a.toNat), (5, b.toNat)])) :
    ∀ p ∈ l, encode p.1 = some (n + d.toNat * 2 ^ 19 + a.toNat * 2 ^ 12 + b.toNat * 2 ^ 5 + p.2) := by
  intro p hp
  rw [List.map_inj_left.mp h p hp]
  simp only [encF, Option.some.injEq]
  omega

/-- Form T with field b zero. -/
theorem encode_da {n : Nat} {d a : RCode} {l : List (Instr × Nat)}
    (h : l.map (fun p => encode p.1) = l.map fun p => some (encF (n + p.2) [(19, d.toNat), (12, a.toNat)])) :
    ∀ p ∈ l, encode p.1 = some (n + d.toNat * 2 ^ 19 + a.toNat * 2 ^ 12 + p.2) := by
  intro p hp
  rw [List.map_inj_left.mp h p hp]
  simp only [encF, Option.some.injEq]
  omega

/-- Form I: the code is the major. -/
theorem encode_imm {d a : RCode} {m : BitVec 12} {l : List (Instr × Nat)}
    (h : l.map (fun p => encode p.1) = l.map fun p => some (encF (2 ^ 26 * p.2) [(19, d.toNat), (12, a.toNat), (0, m.toNat)])) :
    ∀ p ∈ l, encode p.1 = some (p.2 * 2 ^ 26 + d.toNat * 2 ^ 19 + a.toNat * 2 ^ 12 + m.toNat) := by
  intro p hp
  rw [List.map_inj_left.mp h p hp]
  simp only [encF, Option.some.injEq]
  omega

theorem majorOf_eq {i : Instr} {w : Nat} (h : encode i = some w) : majorOf i = w / 2 ^ 26 := by
  simp only [majorOf, h]

/-- Major 8 (R98): the code is field sh; `imm.hi` governs none of its words (R97). -/
theorem encode_immShift {d a : RCode} {n : BitVec 6} {l : List (Instr × Nat)}
    (h : l.map (fun p => encode p.1) = l.map fun p => some (encF (8 * 2 ^ 26 + 2 ^ 6 * p.2) [(19, d.toNat), (12, a.toNat), (0, n.toNat)]))
    (hl : l.all (fun p => p.2 < 4) = true) :
    ∀ p ∈ l, encode p.1 = some (8 * 2 ^ 26 + d.toNat * 2 ^ 19 + a.toNat * 2 ^ 12 + p.2 * 2 ^ 6 + n.toNat) ∧
      ∀ q y, hintOk (.immHi q y) p.1 = false := by
  intro p hp
  have hw := List.map_inj_left.mp h p hp
  have hk : p.2 < 4 := of_decide_eq_true (List.all_eq_true.mp hl p hp)
  have hm : majorOf p.1 = 8 := by rw [majorOf_eq hw]; simp only [encF]; omega
  constructor
  · rw [hw]
    simp only [encF, Option.some.injEq]
    omega
  · intro q y
    simp only [hintOk, hm]
    rfl

/-! ### Reserved codes (R77) -/

theorem fld_zero (w n : Nat) : fld w 0 n = w % 2 ^ n := by rw [fld, Nat.pow_zero, Nat.div_one]

theorem fld_major {w m : Nat} (h : w / 2 ^ 26 = m) (hm : m < 2 ^ 6) : fld w 26 6 = m := by rw [fld, h, Nat.mod_eq_of_lt hm]

theorem decodeWord_of_major1 {w : Nat} (h : w / 2 ^ 26 = 1) : decodeWord w = decodeMajor1 w := by
  simp only [decodeWord, fld_major h (by decide)]

theorem decodeWord_of_major2 {w : Nat} (h : w / 2 ^ 26 = 2) : decodeWord w = decodeMajor2 w := by
  simp only [decodeWord, fld_major h (by decide)]

theorem decodeWord_of_major8 {w : Nat} (h : w / 2 ^ 26 = 8) : decodeWord w = decodeMajor8 w := by
  simp only [decodeWord, fld_major h (by decide)]

theorem decodeMajor1_reserved {w : Nat} (h : 20 ≤ w % 2 ^ 5) : decodeMajor1 w = .error .reservedSelector := by
  obtain ⟨k, hk⟩ := Nat.exists_eq_add_of_le' h
  simp only [decodeMajor1, fld_zero, hk]

theorem decodeMajor2_reservedSelector {w : Nat} (h : 9 ≤ w % 2 ^ 5) : decodeMajor2 w = .error .reservedSelector := by
  obtain ⟨k, hk⟩ := Nat.exists_eq_add_of_le' h
  simp only [decodeMajor2, fld_zero, hk]

theorem decodeMajor2_reservedField {w : Nat} (h : w % 2 ^ 5 < 5) (hb : w / 2 ^ 5 % 2 ^ 7 ≠ 0) : decodeMajor2 w = .error .reservedField := by
  have hf : fld w 5 7 ≠ 0 := hb
  rw [← fld_zero] at h
  have hs : fld w 0 5 = 0 ∨ fld w 0 5 = 1 ∨ fld w 0 5 = 2 ∨ fld w 0 5 = 3 ∨ fld w 0 5 = 4 := by omega
  rcases hs with hs | hs | hs | hs | hs <;> simp only [decodeMajor2, hs, hf, if_false]

theorem decodeMajor8_reserved {w : Nat} (h : w / 2 ^ 8 % 2 ^ 4 ≠ 0) : decodeMajor8 w = .error .reservedField := by
  have hf : fld w 8 4 ≠ 0 := h
  simp only [decodeMajor8, hf, if_false]
  split <;> rfl

/-! ### Integer arithmetic (R95) -/

theorem sub_eq_ofNat (a b : Word) : a - b = BitVec.ofNat 64 (2 ^ 64 + a.toNat - b.toNat) := by
  have hb := b.isLt
  rw [BitVec.sub_def, show 2 ^ 64 - b.toNat + a.toNat = 2 ^ 64 + a.toNat - b.toNat by omega]

theorem shiftLeft_eq_ofNat (a : Word) (n : Nat) : a <<< n = BitVec.ofNat 64 (a.toNat * 2 ^ n) :=
  BitVec.eq_of_toNat_eq (by rw [BitVec.toNat_shiftLeft, Nat.shiftLeft_eq, BitVec.toNat_ofNat])

theorem ushiftRight_eq_ofNat (a : Word) (n : Nat) : a >>> n = BitVec.ofNat 64 (a.toNat / 2 ^ n) := by
  rw [← Nat.shiftRight_eq_div_pow, ← BitVec.toNat_ushiftRight, BitVec.ofNat_toNat, BitVec.setWidth_eq]

theorem sshiftRight_eq_ofInt (a : Word) (n : Nat) : a.sshiftRight n = BitVec.ofInt 64 (a.toInt / 2 ^ n) := by
  have hp : ((2 ^ n : Nat) : Int) = 2 ^ n := Int.natCast_pow 2 n
  rw [BitVec.sshiftRight_eq, Int.shiftRight_eq_div_pow, hp]

theorem ofBool_slt (a b : Word) : ofBool (a.slt b) = if a.toInt < b.toInt then 1 else 0 := by
  simp only [ofBool, BitVec.slt_iff_toInt_lt]

theorem ofBool_ult (a b : Word) : ofBool (a.ult b) = if a.toNat < b.toNat then 1 else 0 := by
  simp only [ofBool, BitVec.ult_iff_toNat_lt]

theorem smaller_signed (a b : Word) : (if b.slt a then b else a) = BitVec.ofInt 64 (min a.toInt b.toInt) := by
  simp only [BitVec.slt_iff_toInt_lt]
  split
  · rw [show min a.toInt b.toInt = b.toInt by omega, BitVec.ofInt_toInt]
  · rw [show min a.toInt b.toInt = a.toInt by omega, BitVec.ofInt_toInt]

theorem larger_signed (a b : Word) : (if a.slt b then b else a) = BitVec.ofInt 64 (max a.toInt b.toInt) := by
  simp only [BitVec.slt_iff_toInt_lt]
  split
  · rw [show max a.toInt b.toInt = b.toInt by omega, BitVec.ofInt_toInt]
  · rw [show max a.toInt b.toInt = a.toInt by omega, BitVec.ofInt_toInt]

theorem smaller_natural (a b : Word) : (if b.ult a then b else a) = BitVec.ofNat 64 (min a.toNat b.toNat) := by
  simp only [BitVec.ult_iff_toNat_lt]
  split
  · rw [show min a.toNat b.toNat = b.toNat by omega, BitVec.ofNat_toNat, BitVec.setWidth_eq]
  · rw [show min a.toNat b.toNat = a.toNat by omega, BitVec.ofNat_toNat, BitVec.setWidth_eq]

theorem larger_natural (a b : Word) : (if a.ult b then b else a) = BitVec.ofNat 64 (max a.toNat b.toNat) := by
  simp only [BitVec.ult_iff_toNat_lt]
  split
  · rw [show max a.toNat b.toNat = b.toNat by omega, BitVec.ofNat_toNat, BitVec.setWidth_eq]
  · rw [show max a.toNat b.toNat = a.toNat by omega, BitVec.ofNat_toNat, BitVec.setWidth_eq]

/-- Clamping is the library's: `max` of the low bound with `min` of the high one (R70). -/
theorem saturate_eq {lo hi : Int} (h : lo ≤ hi) (v : Int) :
    saturate lo hi v = (max lo (min hi v), if v < lo ∨ hi < v then fSat else 0) := by
  unfold saturate
  split
  · next hl => rw [show max lo (min hi v) = lo by omega, if_pos (.inl hl)]
  · split
    · next hh => rw [show max lo (min hi v) = hi by omega, if_pos (.inr hh)]
    · rw [show max lo (min hi v) = v by omega, if_neg (by omega)]

theorem satI64_eq (v : Int) :
    satI64 v = (BitVec.ofInt 64 (max (-2 ^ 63) (min (2 ^ 63 - 1) v)), if v < -2 ^ 63 ∨ 2 ^ 63 - 1 < v then fSat else 0) := by
  rw [satI64, saturate_eq (by decide)]; rfl

theorem satN64_add (a b : Nat) :
    satN64 ((a : Int) + b) = (BitVec.ofNat 64 (min (2 ^ 64 - 1) (a + b)), if 2 ^ 64 - 1 < a + b then fSat else 0) := by
  have hv : max 0 (min (nHi 64) ((a : Int) + b)) = ((min (2 ^ 64 - 1) (a + b) : Nat) : Int) := by simp only [nHi]; omega
  have hf : ((a : Int) + b < 0 ∨ nHi 64 < (a : Int) + b) ↔ 2 ^ 64 - 1 < a + b := by simp only [nHi]; omega
  rw [satN64, saturate_eq (by decide)]
  simp only [hv, hf, BitVec.ofInt_natCast]

/-- A difference of naturals clamps at 0 only. -/
theorem satN64_sub {a : Nat} (b : Nat) (h : a < 2 ^ 64) : satN64 ((a : Int) - b) = (BitVec.ofNat 64 (a - b), if a < b then fSat else 0) := by
  have hv : max 0 (min (nHi 64) ((a : Int) - b)) = ((a - b : Nat) : Int) := by simp only [nHi]; omega
  have hf : ((a : Int) - b < 0 ∨ nHi 64 < (a : Int) - b) ↔ a < b := by simp only [nHi]; omega
  rw [satN64, saturate_eq (by decide)]
  simp only [hv, hf, BitVec.ofInt_natCast]

/-! ### Immediates (R97) -/

theorem immVal_of_immHi {t : Strand} {q : Addr} {p : BitVec 22} (h : t.hint = .immHi q p) (m : BitVec 12) :
    immVal t m = BitVec.ofInt 64 (p.toInt * 2 ^ 12 + m.toNat) := by
  simp only [immVal, h, BitVec.signExtend, BitVec.toInt_append]
  rw [if_neg (by decide), Int.mul_comm]

theorem immVal_of_ne_immHi {t : Strand} (h : ∀ q p, t.hint ≠ .immHi q p) (m : BitVec 12) : immVal t m = BitVec.ofInt 64 m.toInt := by
  unfold immVal
  split
  · next q p hp => exact absurd hp (h q p)
  · rfl

/-! ### Bit manipulation (R96) -/

theorem leadingZeros_spec (a : Word) : ∃ k ≤ 64, (∀ j < k, a.getMsbD j = false) ∧ (k < 64 → a.getMsbD k = true) ∧
    (if a = 0 then 64 else 63 - a.toNat.log2) = k := by
  by_cases h : a = 0
  · subst h
    exact ⟨64, Nat.le_refl _, fun _ _ => BitVec.getMsbD_zero, fun h => absurd h (Nat.lt_irrefl _), if_pos rfl⟩
  · have hn : a.toNat ≠ 0 := fun e => h (BitVec.eq_of_toNat_eq e)
    have hl : a.toNat.log2 < 64 := (Nat.log2_lt hn).mpr a.isLt
    refine ⟨63 - a.toNat.log2, by omega, fun j hj => ?_, fun _ => ?_, if_neg h⟩
    · have hb : a.toNat < 2 ^ (64 - 1 - j) := (Nat.log2_lt hn).mp (by omega)
      rw [BitVec.getMsbD_eq_getLsbD, ← BitVec.testBit_toNat, Nat.testBit_lt_two_pow hb, Bool.and_false]
    · rw [BitVec.getMsbD_eq_getLsbD, ← BitVec.testBit_toNat, show 64 - 1 - (63 - a.toNat.log2) = a.toNat.log2 by omega,
        Nat.testBit_log2 hn, decide_eq_true (by omega), Bool.and_true]

theorem trailing_spec (n : Nat) : ∀ v, trailing v n ≤ n ∧ (∀ j < trailing v n, v.testBit j = false) ∧
    (trailing v n < n → v.testBit (trailing v n) = true) := by
  induction n with
  | zero => intro v; simp [trailing]
  | succ n ih =>
    intro v
    obtain ⟨hle, hz, ho⟩ := ih (v / 2)
    by_cases h : v % 2 = 1
    · simp [trailing, h]
    · simp only [trailing, if_neg h]
      refine ⟨by omega, fun j hj => ?_, fun hlt => ?_⟩
      · cases j with
        | zero => simpa using h
        | succ j => rw [Nat.testBit_succ]; exact hz j (by omega)
      · rw [Nat.add_comm, Nat.testBit_succ]; exact ho (by omega)

theorem popCount_eq_countP (n : Nat) : ∀ v, popCount v n = (List.range n).countP fun j => v.testBit j := by
  induction n with
  | zero => intro v; rfl
  | succ n ih =>
    intro v
    have hs : (fun j => v.testBit j) ∘ Nat.succ = fun j => (v / 2).testBit j := funext fun j => Nat.testBit_succ v j
    rw [popCount, ih, List.range_succ_eq_map, List.countP_cons, List.countP_map, hs, Nat.testBit_zero]
    rcases Nat.mod_two_eq_zero_or_one v with h | h <;> simp [h, Nat.add_comm]

theorem revBits_lt (n : Nat) : ∀ v, revBits v n < 2 ^ n := by
  induction n with
  | zero => intro v; simp [revBits]
  | succ n ih =>
    intro v
    have hr := ih (v / 2)
    have hb : v % 2 * 2 ^ n ≤ 1 * 2 ^ n := Nat.mul_le_mul_right _ (by omega)
    rw [revBits, Nat.pow_succ]
    omega

theorem testBit_revBits (n : Nat) : ∀ v j, j < n → (revBits v n).testBit j = v.testBit (n - 1 - j) := by
  induction n with
  | zero => intro v j h; exact absurd h (Nat.not_lt_zero j)
  | succ n ih =>
    intro v j hj
    rw [revBits, Nat.mul_comm, Nat.testBit_two_pow_mul_add _ (revBits_lt n (v / 2))]
    by_cases h : j < n
    · rw [if_pos h, ih _ _ h, show n + 1 - 1 - j = (n - 1 - j) + 1 by omega, Nat.testBit_succ]
    · obtain rfl : j = n := by omega
      simp

theorem getLsbD_revBits (a : Word) {j : Nat} (h : j < 64) : (w64 (revBits a.toNat 64)).getLsbD j = a.getLsbD (63 - j) := by
  rw [w64, BitVec.getLsbD_ofNat, testBit_revBits 64 _ j h, BitVec.testBit_toNat, decide_eq_true h, Bool.true_and]

/-! ### Little-endian bytes (R8) -/

@[simp] theorem length_leBytes (n : Nat) : ∀ v, (leBytes n v).length = n := by
  induction n with
  | zero => intro v; rfl
  | succ n ih => intro v; rw [leBytes, List.length_cons, ih]

theorem getElem_leBytes (n : Nat) : ∀ v j (h : j < (leBytes n v).length), (leBytes n v)[j] = BitVec.ofNat 8 (v / 256 ^ j) := by
  induction n with
  | zero => intro v j h; exact absurd h (Nat.not_lt_zero j)
  | succ n ih =>
    intro v j h
    cases j with
    | zero => simp [leBytes]
    | succ j =>
      have hj : j < (leBytes n (v / 256)).length := by simpa using h
      simp only [leBytes, List.getElem_cons_succ, ih _ j hj, Nat.div_div_eq_div_mul, Nat.pow_succ']

theorem leNat_lt (l : List Byte) : leNat l < 256 ^ l.length := by
  induction l with
  | nil => simp [leNat]
  | cons b r ih =>
    have hb := b.isLt
    rw [leNat, List.length_cons, Nat.pow_succ]
    omega

theorem byte_leNat (l : List Byte) : ∀ j (h : j < l.length), BitVec.ofNat 8 (leNat l / 256 ^ j) = l[j] := by
  induction l with
  | nil => intro j h; exact absurd h (Nat.not_lt_zero j)
  | cons b r ih =>
    intro j h
    have hb := b.isLt
    cases j with
    | zero => exact BitVec.eq_of_toNat_eq (by simpa [leNat] using hb)
    | succ j =>
      rw [List.getElem_cons_succ, ← ih j (by simpa using h), leNat, Nat.pow_succ', ← Nat.div_div_eq_div_mul,
        show (b.toNat + 256 * leNat r) / 256 = leNat r by omega]

theorem extractLsb'_byte (x : Word) (j : Nat) : x.extractLsb' (8 * j) 8 = BitVec.ofNat 8 (x.toNat / 256 ^ j) := by
  apply BitVec.eq_of_toNat_eq
  rw [BitVec.extractLsb'_toNat, BitVec.toNat_ofNat, Nat.shiftRight_eq_div_pow, Nat.pow_mul, show (2 : Nat) ^ 8 = 256 from rfl]

theorem extractLsb'_byteSwap (a : Word) {j : Nat} (h : j < 8) :
    (w64 (leNat (leBytes 8 a.toNat).reverse)).extractLsb' (8 * j) 8 = a.extractLsb' (8 * (7 - j)) 8 := by
  have hl : (leBytes 8 a.toNat).reverse.length = 8 := by simp
  have hv := leNat_lt (leBytes 8 a.toNat).reverse
  rw [hl] at hv
  rw [extractLsb'_byte, extractLsb'_byte, w64, BitVec.toNat_ofNat, Nat.mod_eq_of_lt (by omega), byte_leNat _ j (by omega),
    List.getElem_reverse, getElem_leBytes, length_leBytes]

/-! ### Rotation and extension -/

theorem getLsbD_rotateLeft_word (a : Word) {n j : Nat} (hn : n < 64) (hj : j < 64) : (a.rotateLeft n).getLsbD ((j + n) % 64) = a.getLsbD j := by
  rw [BitVec.getLsbD_rotateLeft, Nat.mod_eq_of_lt hn]
  by_cases h : j + n < 64
  · rw [Nat.mod_eq_of_lt h, decide_eq_false (by omega), cond_false, decide_eq_true h, Bool.true_and, Nat.add_sub_cancel]
  · rw [show (j + n) % 64 = j + n - 64 by omega, decide_eq_true (by omega), cond_true, show 64 - n + (j + n - 64) = j by omega]

theorem getLsbD_rotateRight_word (a : Word) {n j : Nat} (hn : n < 64) (hj : j < 64) : (a.rotateRight n).getLsbD j = a.getLsbD ((j + n) % 64) := by
  rw [BitVec.getLsbD_rotateRight, Nat.mod_eq_of_lt hn]
  by_cases h : j < 64 - n
  · rw [Nat.mod_eq_of_lt (by omega), decide_eq_true h, cond_true, Nat.add_comm]
  · rw [show (j + n) % 64 = j - (64 - n) by omega, decide_eq_false h, cond_false, decide_eq_true hj, Bool.true_and]

theorem sval_eq_toInt {w : Nat} (hw : 0 < w) (v : Nat) : sval w v = (BitVec.ofNat w v).toInt := by
  have hp : 2 ^ w = 2 * 2 ^ (w - 1) := by rw [← Nat.pow_succ', Nat.succ_eq_add_one, Nat.sub_add_cancel (show 1 ≤ w from hw)]
  rw [sval, BitVec.toInt_eq_toNat_cond, BitVec.toNat_ofNat]
  split <;> split <;> omega

/-- A sign-extended word repeats bit w - 1 above it. -/
theorem getLsbD_sval (a : Word) {w j : Nat} (hw : 1 ≤ w ∧ w ≤ 63) (hj : j < 64) :
    (BitVec.ofInt 64 (sval w a.toNat)).getLsbD j = a.getLsbD (min j (w - 1)) := by
  obtain ⟨h1, h63⟩ := hw
  have he : BitVec.ofInt 64 (sval w a.toNat) = (BitVec.ofNat w a.toNat).signExtend 64 := by rw [sval_eq_toInt h1]; rfl
  rw [he, BitVec.getLsbD_signExtend, BitVec.msb_eq_getLsbD_last, decide_eq_true hj, Bool.true_and, BitVec.getLsbD_ofNat, BitVec.getLsbD_ofNat,
    BitVec.testBit_toNat, BitVec.testBit_toNat, decide_eq_true (show w - 1 < w by omega), Bool.true_and]
  by_cases h : j < w
  · rw [if_pos h, decide_eq_true h, Bool.true_and, Nat.min_eq_left (by omega)]
  · rw [if_neg h, Nat.min_eq_right (by omega)]

/-! ### Multiplication and division (R100, R101) -/

theorem natAbs_toInt_le (a : Word) : a.toInt.natAbs ≤ 2 ^ 63 := by
  have hlo := a.le_toInt
  have hhi := a.toInt_lt
  omega

/-- The product fits 128 bits, of which the pair is the two halves. -/
theorem mulPair_exact (a b : Word) : (mulPair a b).2.toInt * 2 ^ 64 + (mulPair a b).1.toNat = a.toInt * b.toInt := by
  have hp : (a.toInt * b.toInt).natAbs ≤ 2 ^ 63 * 2 ^ 63 := by
    rw [Int.natAbs_mul]; exact Nat.mul_le_mul (natAbs_toInt_le a) (natAbs_toInt_le b)
  have hj : (mulPair a b).2 ++ (mulPair a b).1 = BitVec.ofInt 128 (a.toInt * b.toInt) :=
    BitVec.extractLsb'_append_extractLsb' (w := 64) (len := 64) (x := BitVec.ofInt 128 (a.toInt * b.toInt))
  have ht := congrArg BitVec.toInt hj
  generalize a.toInt * b.toInt = v at hp ht ⊢
  rw [BitVec.toInt_append, BitVec.toInt_ofInt_eq_self (by decide) (by omega) (by omega)] at ht
  rw [Int.mul_comm]
  exact ht

theorem divPair_zero (a : Word) : divPair a 0 = ((0xFFFFFFFFFFFFFFFF, a), fDz) := if_pos rfl

theorem divPair_overflow {a b : Word} (hb : b ≠ 0) (ho : a.toInt = -2 ^ 63 ∧ b.toInt = -1) : divPair a b = ((0x8000000000000000, 0), fOf) := by
  have ha : a = 0x8000000000000000 := BitVec.eq_of_toInt_eq ho.1
  have h1 : b = 0xFFFFFFFFFFFFFFFF := BitVec.eq_of_toInt_eq ho.2
  rw [divPair, if_neg hb, if_pos ⟨ha, h1⟩]

theorem divPair_exact {a b : Word} (hb : b ≠ 0) (ho : ¬(a.toInt = -2 ^ 63 ∧ b.toInt = -1)) : divPair a b = ((a.sdiv b, a.srem b), 0) := by
  have hn : ¬(a = 0x8000000000000000 ∧ b = 0xFFFFFFFFFFFFFFFF) := by rintro ⟨rfl, rfl⟩; exact ho ⟨rfl, rfl⟩
  have hq : BitVec.ofInt 64 (a.toInt.tdiv b.toInt) = a.sdiv b := BitVec.eq_of_toInt_eq (by rw [BitVec.toInt_ofInt, BitVec.toInt_sdiv])
  have hr : BitVec.ofInt 64 (a.toInt.tmod b.toInt) = a.srem b := by rw [← BitVec.toInt_srem, BitVec.ofInt_toInt]
  rw [divPair, if_neg hb, if_neg hn, hq, hr]

/-- Outside the corners the quotient fits, the remainder is smaller than the divisor and takes the sign of the dividend. -/
theorem sdiv_srem_spec {a b : Word} (hb : b ≠ 0) (ho : ¬(a.toInt = -2 ^ 63 ∧ b.toInt = -1)) :
    a.toInt = (a.sdiv b).toInt * b.toInt + (a.srem b).toInt ∧ (a.srem b).toInt.natAbs < b.toInt.natAbs ∧
      ((a.srem b).toInt = 0 ∨ ((a.srem b).toInt < 0 ↔ a.toInt < 0)) := by
  have hb0 : b.toInt ≠ 0 := fun e => hb (BitVec.eq_of_toInt_eq e)
  have hne : a ≠ BitVec.intMin 64 ∨ b ≠ -1 := Decidable.not_and_iff_not_or_not.mp (by rintro ⟨rfl, rfl⟩; exact ho ⟨rfl, rfl⟩)
  rw [BitVec.toInt_sdiv_of_ne_or_ne a b hne, BitVec.toInt_srem, Int.mul_comm, Int.mul_tdiv_add_tmod]
  refine ⟨rfl, ?_, ?_⟩
  · rw [Int.natAbs_tmod]; exact Nat.mod_lt _ (Int.natAbs_pos.mpr hb0)
  · by_cases ha : 0 ≤ a.toInt
    · have hr := Int.tmod_nonneg b.toInt ha
      omega
    · have hr := Int.tmod_nonneg b.toInt (show 0 ≤ -a.toInt by omega)
      rw [Int.neg_tmod] at hr
      omega

/-! ### The statements -/

/-- Settles O1: each clause is the word's meaning on its operands, restated by the arithmetic above. -/
theorem integerWordsCompute : Obligations.IntegerWordsCompute := by
  refine ⟨fun s x i d a b h => ?_, fun s x i d a m n h => ?_⟩
  · intro A B
    exact ⟨computes_value h rfl (BitVec.add_def _ _), computes_value h rfl (sub_eq_ofNat _ _),
      computes_value h rfl rfl, computes_value h rfl rfl, computes_value h rfl rfl, computes_value h rfl rfl, computes_value h rfl rfl,
      computes_value h rfl (shiftLeft_eq_ofNat _ _), computes_value h rfl (ushiftRight_eq_ofNat _ _), computes_value h rfl (sshiftRight_eq_ofInt _ _),
      computes_value h rfl (ofBool_slt _ _), computes_value h rfl (ofBool_ult _ _),
      computes_value h rfl (smaller_signed _ _), computes_value h rfl (larger_signed _ _),
      computes_value h rfl (smaller_natural _ _), computes_value h rfl (larger_natural _ _),
      computes_of_scalar h rfl (satI64_eq _), computes_of_scalar h rfl (satI64_eq _),
      computes_of_scalar h rfl (satN64_add _ _), computes_of_scalar h rfl (satN64_sub _ A.isLt),
      ⟨encode_dab rfl, encode_dab rfl, encode_dab rfl⟩,
      fun w _ hw hc => ⟨_, (decodeWord_of_major1 hw).trans (decodeMajor1_reserved hc)⟩⟩
  · intro A M
    have hM : immVal x.t m = M := by
      cases hh : x.t.hint with
      | immHi q p => simp only [M, hh]; exact immVal_of_immHi hh m
      | _ => simp only [M, hh]; exact immVal_of_ne_immHi (by simp [hh]) m
    exact ⟨computes_value h rfl (hM ▸ BitVec.add_def _ _), computes_value h rfl (hM ▸ rfl), computes_value h rfl (hM ▸ rfl),
      computes_value h rfl (hM ▸ rfl), computes_value h rfl (hM ▸ ofBool_slt _ _), computes_value h rfl (hM ▸ ofBool_ult _ _),
      computes_value h rfl (shiftLeft_eq_ofNat _ _), computes_value h rfl (ushiftRight_eq_ofNat _ _), computes_value h rfl (sshiftRight_eq_ofInt _ _),
      computes_exists h rfl fun _ j hj => getLsbD_rotateRight_word A n.isLt hj,
      encode_imm rfl, encode_immShift rfl rfl,
      fun w _ hw hc => ⟨_, (decodeWord_of_major8 hw).trans (decodeMajor8_reserved hc)⟩⟩

/-- Settles O2: the bits of each result by the lemmas of R96, the pair and the flags of the pending entry by those of R100 and R101. -/
theorem bitWordsMultiplyAndDivide : Obligations.BitWordsMultiplyAndDivide := by
  refine ⟨fun s x i d a b h => ?_, fun s x i d a b k h => ?_⟩
  · intro A n
    have hn : n < 64 := Nat.mod_lt _ (by decide)
    refine ⟨fun e => ?clz, fun e => ?ctz, computes_value h rfl (congrArg w64 (popCount_eq_countP 64 _)),
      computes_exists h rfl fun _ j hj => getLsbD_revBits A hj, computes_exists h rfl fun _ j hj => extractLsb'_byteSwap A hj,
      computes_exists h rfl fun _ j hj => getLsbD_rotateLeft_word A hn hj, computes_exists h rfl fun _ j hj => getLsbD_rotateRight_word A hn hj,
      fun w => computes_exists h rfl fun e j hj => getLsbD_sval A (width_of_issues h (.inl e)) hj,
      fun w => computes_value h rfl rfl, encode_da rfl, encode_dab rfl, fun w _ hw hc => ?reserved, width_of_issues h⟩
    case clz =>
      obtain ⟨k, hk, hz, ho, hv⟩ := leadingZeros_spec A
      exact ⟨k, hk, hz, ho, computes_value h rfl (congrArg w64 hv) e⟩
    case ctz =>
      obtain ⟨hk, hz, ho⟩ := trailing_spec 64 A.toNat
      exact ⟨_, hk, hz, ho, computes_value h rfl rfl e⟩
    case reserved =>
      rw [decodeWord_of_major2 hw]
      rcases hc with hc | ⟨hc, hb⟩
      · exact ⟨_, decodeMajor2_reservedSelector hc⟩
      · exact ⟨_, decodeMajor2_reservedField hc hb⟩
  · intro A B
    constructor
    · rintro rfl
      exact ⟨_, _, mulPair_exact A B, word_of_issues h _⟩
    · rintro rfl
      refine ⟨(divPair A B).1.1, (divPair A B).1.2, (divPair A B).2, fun h0 => ?_, fun h0 ho => ?_, fun h0 ho => ?_, word_of_issues h _⟩
      · rw [h0, divPair_zero]; exact ⟨rfl, rfl, rfl⟩
      · rw [divPair_overflow h0 ho]; exact ⟨rfl, rfl, rfl⟩
      · rw [divPair_exact h0 ho]; exact ⟨rfl, sdiv_srem_spec h0 ho⟩

end Sys2Proof.Machine
end

section
/-! Branches, calls and jumps, and the register-window stack (O5). The addresses that control words go to, their encodings and reserved
codes; the registers that a frame saves and restores; and the statement. -/

namespace Sys2Proof.Machine

/-! ### Targets (R75, R111) and the predicate tested (R36, R110) -/

theorem branchTo_eq_ofInt {w : Nat} (t : Strand) (o : BitVec w) : branchTo t o = BitVec.ofInt 48 (t.pc.toNat + 4 * o.toInt) := by
  rw [branchTo, BitVec.ofInt_add, BitVec.ofInt_mul, BitVec.ofInt_natCast, BitVec.ofNat_toNat, BitVec.setWidth_eq, BitVec.mul_comm]
  rfl

theorem jumpAddr_eq_ofNat (v : Word) : jumpAddr v = BitVec.ofNat 48 (v.toNat % 2 ^ 48 / 4 * 4) := by
  apply BitVec.eq_of_getLsbD_eq
  intro j hj
  have hv : (BitVec.ofNat 48 (v.toNat % 2 ^ 48 / 4 * 4)).getLsbD j = (decide (2 ≤ j) && v.getLsbD j) := by
    rw [show v.toNat % 2 ^ 48 / 4 * 4 = 2 ^ 2 * (v.toNat % 2 ^ 48 / 2 ^ 2) by omega, BitVec.getLsbD_ofNat, Nat.testBit_two_pow_mul,
      Nat.testBit_div_two_pow]
    by_cases h2 : 2 ≤ j
    · rw [Nat.sub_add_cancel h2, Nat.testBit_mod_two_pow, BitVec.testBit_toNat, decide_eq_true hj, Bool.true_and, Bool.true_and]
    · rw [decide_eq_false h2, Bool.false_and, Bool.false_and, Bool.and_false]
  have hm : (3 : Addr).getLsbD j = decide (j < 2) := by
    rw [show (3 : Addr) = BitVec.ofNat 48 (2 ^ 2 - 1) from rfl, BitVec.getLsbD_ofNat, Nat.testBit_two_pow_sub_one, decide_eq_true hj,
      Bool.true_and]
  rw [hv, jumpAddr, BitVec.getLsbD_and, BitVec.getLsbD_not, hm, BitVec.truncate_eq_setWidth, BitVec.getLsbD_setWidth]
  rw [show decide (2 ≤ j) = !decide (j < 2) by simp only [← decide_not, Nat.not_lt], decide_eq_true hj, Bool.true_and, Bool.true_and, Bool.and_comm]

theorem bit1_eq_getLsbD {w : Nat} (x : BitVec w) (n : Nat) : bit1 x n = x.getLsbD n := by
  rw [bit1, bits, ← BitVec.testBit_toNat, Nat.testBit_eq_decide_div_mod_eq, Nat.pow_one, Bool.beq_eq_decide_eq]

/-- What the branch on a predicate tests: p0 is 1. -/
theorem p_toNat_iff (t : Strand) (p : BitVec 5) : t.p p.toNat = true ↔ p = 0 ∨ t.pred.getLsbD p.toNat = true := by
  have h0 : p.toNat = 0 ↔ p = 0 := ⟨fun e => BitVec.eq_of_toNat_eq e, fun e => e ▸ rfl⟩
  rw [Strand.p, Bool.or_eq_true, beq_iff_eq, bit1_eq_getLsbD, h0]

/-! ### Encodings and reserved codes -/

theorem encode_of_fields {i : Instr} {b n : Nat} {l : List (Nat × Nat)} (h : encode i = some (encF b l)) (hn : encF b l = n) :
    encode i = some n := hn ▸ h

theorem decodeWord_of_major18 {w : Nat} (h : w / 2 ^ 26 = 18) : decodeWord w = decodeMajor18 w := by
  simp only [decodeWord, fld_major h (by decide)]

/-- `jr`, `jalr` and `ret` with a field that R111 reserves. -/
theorem decodeMajor18_reservedField {w : Nat}
    (h : w % 2 ^ 5 = 0 ∧ (w / 2 ^ 19 % 2 ^ 7 ≠ 0 ∨ w / 2 ^ 5 % 2 ^ 7 ≠ 0) ∨ w % 2 ^ 5 = 1 ∧ w / 2 ^ 5 % 2 ^ 7 ≠ 0 ∨
      w % 2 ^ 5 = 2 ∧ w / 2 ^ 5 % 2 ^ 21 ≠ 0) : decodeMajor18 w = .error .reservedField := by
  rcases h with ⟨hs, hf⟩ | ⟨hs, hf⟩ | ⟨hs, hf⟩ <;> rw [← fld_zero] at hs
  · have hn : ¬(fld w 19 7 = 0 ∧ fld w 5 7 = 0) := fun ⟨hd, hb⟩ => hf.elim (absurd hd) (absurd hb)
    simp only [decodeMajor18, hs, if_neg hn]
  · have hn : ¬fld w 5 7 = 0 := hf
    simp only [decodeMajor18, hs, if_neg hn]
  · have hn : ¬fld w 5 21 = 0 := hf
    simp only [decodeMajor18, hs, if_neg hn]

/-! ### A word that pops nothing, an update of the issuer -/

theorem afterReads_of_popsOf_eq_zero {i : Instr} (s : State) (x : Iss) (h : popsOf i = 0) : afterReads s x i = s := by
  rw [afterReads, h, popQin, if_pos rfl]

/-- The effect on the state as it stands of a word that names no `qin`. -/
theorem word_of_issues_of_popsOf_eq_zero {s : State} {x : Iss} {i : Instr} (h : Issues s x i) (hp : popsOf i = 0)
    (k : Iss → List Word → State → State) : word i s k = .next (k x (inputs s x i) s) := by
  rw [word_of_issues h, afterReads_of_popsOf_eq_zero s x hp]

/-- A word whose effect is a jump goes to its target. -/
theorem exec_jump_of_issues {s S : State} {x : Iss} {i w : Instr} {v v' : Addr} {g : Iss → List Word → State → State} (h : Issues s x i)
    (hw : exec w s = word w s g) (hg : i = w → g x (inputs s x i) (afterReads s x i) = jumpTo S x v) (hv : v = v') :
    i = w → exec i s = .next (jumpTo S x v') := by
  rintro rfl
  rw [hw, word_of_issues h, hg rfl, hv]

theorem writeDst_lr (s : State) (g sid : Nat) (v : Word) : writeDst s g sid 123 v = updStrand s g sid fun t => { t with lr := v } := rfl

/-- An update of the issuing strand depends on what it makes of that strand alone. -/
theorem updStrand_issuer_congr {s : State} {x : Iss} (h : issuer? s = some x) {f k : Strand → Strand} (hfk : f x.t = k x.t) :
    updStrand s x.g x.sid f = updStrand s x.g x.sid k := by
  obtain ⟨-, -, -, ht, -⟩ := issuer?_eq_some h
  rw [strandAt?] at ht
  simp only [updStrand, updCore, ht, hfk]

/-! ### Frames (R113) -/

theorem popsOf_enter : ∀ k, popsOf (.enter k) = 0 := by decide

theorem popsOf_leave (k : BitVec 2) : popsOf (.leave k) = 0 := rfl

theorem frameK_le (k : BitVec 2) : frameK k ≤ 32 := by have hk := k.isLt; rw [frameK]; omega

/-- A register of a frame as `enter` reads it. -/
theorem gen_frameReg (t : Strand) {k : BitVec 2} {j : Nat} (h : j < frameK k) : t.gen (BitVec.ofNat 7 (8 + j)) = kget t.regs (8 + j) 0 := by
  have hk := frameK_le k
  have hr : (BitVec.ofNat 7 (8 + j)).toNat = 8 + j := by rw [BitVec.toNat_ofNat]; omega
  rw [Strand.gen, hr, if_pos (by omega)]

/-- The registers that `enter` saves. -/
theorem savedRegs_eq (t : Strand) (k : BitVec 2) :
    (List.range (frameK k)).map (fun j => kget t.regs (8 + j) 0) = (List.range (frameK k)).map fun j => t.gen (BitVec.ofNat 7 (8 + j)) :=
  List.map_inj_left.mpr fun _ hj => (gen_frameReg t (List.mem_range.mp hj)).symm

/-- A restored frame leaves the registers outside it. -/
theorem kget_restoreRegs_outside (l : List Word) : ∀ (m : KMap Word) (n q : Nat), q < n ∨ n + l.length ≤ q →
    kget (restoreRegs m n l) q 0 = kget m q 0 := by
  induction l with
  | nil => intro m n q _; rfl
  | cons v r ih =>
    intro m n q h
    rw [List.length_cons] at h
    rw [restoreRegs, ih _ _ _ (by omega), kget_kset_ne _ _ _ (by omega)]

/-- A restored frame gives each of its registers its value. -/
theorem kget_restoreRegs_inside (l : List Word) : ∀ (m : KMap Word) (n j : Nat), j < l.length →
    kget (restoreRegs m n l) (n + j) 0 = l.getD j 0 := by
  induction l with
  | nil => intro m n j h; exact absurd h (Nat.not_lt_zero j)
  | cons v r ih =>
    intro m n j h
    rw [List.length_cons] at h
    rw [restoreRegs]
    cases j with
    | zero => rw [kget_restoreRegs_outside r _ _ _ (by omega), Nat.add_zero, kget_kset_self]; rfl
    | succ j => rw [show n + (j + 1) = n + 1 + j by omega, ih _ _ _ (by omega)]; rfl

theorem exec_enter_overflow {s : State} {x : Iss} {k : BitVec 2} (h : Issues s x (.enter k)) (hw : 512 < stackWords x.t + frameK k + 2) :
    exec (.enter k) s = .next (raiseAt s x 0 4 0 0 63) :=
  (word_of_issues_of_popsOf_eq_zero h (popsOf_enter k) _).trans (congrArg _ (if_pos hw))

theorem exec_enter_push {s : State} {x : Iss} {k : BitVec 2} (h : Issues s x (.enter k)) (hw : stackWords x.t + frameK k + 2 ≤ 512)
    (he : frameK k + 2 ≤ spareEntries x.c) :
    exec (.enter k) s = .next (retire (updStrand { s with nextId := s.nextId + 1 } x.g x.sid fun t =>
      { t with frames := { k := frameK k, age := s.nextId, lr := x.t.lr,
                           regs := (List.range (frameK k)).map fun j => x.t.gen (BitVec.ofNat 7 (8 + j)), resident := true } :: t.frames }) x) := by
  rw [← savedRegs_eq]
  exact (word_of_issues_of_popsOf_eq_zero h (popsOf_enter k) _).trans
    (congrArg _ ((if_neg (Nat.not_lt.mpr hw)).trans (if_neg (Nat.not_lt.mpr he))))

theorem exec_leave_underflow {s : State} {x : Iss} {k : BitVec 2} (h : Issues s x (.leave k)) (hf : x.t.frames = []) :
    exec (.leave k) s = .next (raiseAt s x 0 3 0 0 63) := by
  rw [show exec (.leave k) s = _ from word_of_issues_of_popsOf_eq_zero h (popsOf_leave k) _, hf]

theorem exec_leave_mismatch {s : State} {x : Iss} {k : BitVec 2} {f : Frame} {r : List Frame} (h : Issues s x (.leave k))
    (hf : x.t.frames = f :: r) (hk : f.k ≠ frameK k) : exec (.leave k) s = .next (raiseAt s x 0 2 0 0 63) := by
  rw [show exec (.leave k) s = _ from word_of_issues_of_popsOf_eq_zero h (popsOf_leave k) _, hf]
  exact congrArg _ (if_pos hk)

theorem exec_leave_pop {s : State} {x : Iss} {k : BitVec 2} {f : Frame} {r : List Frame} (h : Issues s x (.leave k))
    (hf : x.t.frames = f :: r) (hk : f.k = frameK k) (hr : f.resident = true) (hl : f.regs.length = f.k) :
    exec (.leave k) s = .next (retire (updStrand s x.g x.sid fun t =>
      { t with frames := r, lr := f.lr, regs := restoreRegs x.t.regs 8 f.regs }) x) := by
  rw [show exec (.leave k) s = _ from word_of_issues_of_popsOf_eq_zero h (popsOf_leave k) _, hf]
  dsimp only
  rw [if_neg (not_not_intro hk), hr, if_neg (by decide), List.take_of_length_le (Nat.le_of_eq hl)]
  exact congrArg (fun S => Host.Outcome.next (retire S x)) (updStrand_issuer_congr h.issuer rfl)

/-! ### The statement -/

/-- Settles O5: each control word goes to its target by the address lemmas; `enter` and `leave` by their outcomes above. -/
theorem branchesAndWindowStack : Obligations.BranchesAndWindowStack := by
  refine ⟨fun s x i o26 o20 p d a h => ?_, fun s x k => ⟨fun h _ => ?_, fun h _ => ?_⟩⟩
  · intro goes off link target taken
    have call_links (e : i = .call o26) : writeDst (afterReads s x i) x.g x.sid 123 link = updStrand s x.g x.sid fun t => { t with lr := link } := by
      rw [afterReads_of_popsOf_eq_zero s x (e ▸ rfl), writeDst_lr]
    refine ⟨exec_jump_of_issues h rfl (fun _ => rfl) (branchTo_eq_ofInt _ _),
      exec_jump_of_issues h rfl (fun e => congrArg (jumpTo · x _) (call_links e)) (branchTo_eq_ofInt _ _),
      exec_jump_of_issues h rfl (fun _ => rfl) (ite_congr (propext (p_toNat_iff _ _)) (fun _ => branchTo_eq_ofInt _ _) fun _ => rfl),
      exec_jump_of_issues h rfl (fun _ => rfl) (ite_congr (propext (p_toNat_iff _ _)) (fun _ => rfl) fun _ => branchTo_eq_ofInt _ _),
      exec_jump_of_issues h rfl (fun _ => rfl) (jumpAddr_eq_ofNat _),
      exec_jump_of_issues h rfl (fun _ => rfl) (jumpAddr_eq_ofNat _),
      exec_jump_of_issues h rfl (fun _ => rfl) (jumpAddr_eq_ofNat _),
      encode_of_fields rfl ?_, encode_of_fields rfl ?_, encode_of_fields rfl ?_, encode_of_fields rfl ?_, encode_of_fields rfl ?_,
      encode_of_fields rfl ?_, encode_of_fields rfl rfl, fun w _ hw hc => ⟨_, (decodeWord_of_major18 hw).trans (decodeMajor18_reservedField hc)⟩⟩
    all_goals simp only [encF]; omega
  · exact ⟨exec_enter_overflow h, exec_enter_push h⟩
  · refine ⟨exec_leave_underflow h, fun f r => exec_leave_mismatch h, fun f r hf hk hr hl => ?_⟩
    refine ⟨restoreRegs x.t.regs 8 f.regs, fun j hj => ?_, fun q hq => ?_, exec_leave_pop h hf hk hr (hl.trans hk.symm)⟩
    · exact kget_restoreRegs_inside f.regs _ 8 j (hl ▸ hj)
    · exact kget_restoreRegs_outside f.regs _ 8 q (hl ▸ hq)

end Sys2Proof.Machine
end
